-- ==== Sys2Proof/Word.lean ====
section
/-! DEFINITION. The plain words of the model: bytes, the numbers of lines, stations, cells and slots, and
tables of a fixed length that are read and written by such a number. -/

namespace Sys2Proof

/-- One byte of a record on a link. -/
abbrev Byte := BitVec 8

/-- A line of the station, 0 to 11 (R1). -/
abbrev Line := Fin 12

/-- A station of the cabinet, 0 to 7 (R1). -/
abbrev StationNo := Fin 8

/-- A cell of the frame store, 0 to 2,047 (R62). -/
abbrev CellNo := Fin 2048

/-- A slot of step memory, 0 to 127 (R137). -/
abbrev Slot := Fin 128

/-- An index of the line map, 0 to 31 (R94). -/
abbrev MapIndex := Fin 32

/-- An entry of the scheduler's round: 0 to 11 are the lines, 12 is the pseudo-line M (R85). -/
abbrev RoundEntry := Fin 13

/-- A table of `n` like things. -/
abbrev Table (α : Type) (n : Nat) := Vector α n

/-- The entry of a table at an index. -/
def look {α : Type} {n : Nat} (t : Table α n) (i : Fin n) : α := t[i.val]

/-- A table with the entry at an index replaced. -/
def put {α : Type} {n : Nat} (t : Table α n) (i : Fin n) (x : α) : Table α n := t.set i.val x i.isLt

/-- A table with the entry at an index changed by a function. -/
def alter {α : Type} {n : Nat} (t : Table α n) (i : Fin n) (f : α → α) : Table α n := put t i (f (look t i))

/-- A table with the same entry everywhere. -/
def filled {α : Type} (n : Nat) (x : α) : Table α n := Vector.replicate n x

/-- A table whose every entry is changed by a function of its index. -/
def tabulate {α : Type} (n : Nat) (f : Fin n → α) : Table α n := Vector.ofFn f

/-- The indices of a table of `n` entries, in ascending order. -/
def indices (n : Nat) : List (Fin n) := List.finRange n

@[simp] theorem look_put_same {α : Type} {n : Nat} (t : Table α n) (i : Fin n) (x : α) : look (put t i x) i = x := by
  simp [look, put]

theorem look_put_ne {α : Type} {n : Nat} (t : Table α n) (i j : Fin n) (x : α) (h : i ≠ j) :
    look (put t i x) j = look t j := by
  have hv : i.val ≠ j.val := fun e => h (Fin.ext e)
  simp [look, put, Vector.getElem_set_ne, hv]

theorem look_put {α : Type} {n : Nat} (t : Table α n) (i j : Fin n) (x : α) :
    look (put t i x) j = if i = j then x else look t j := by
  by_cases h : i = j
  · subst h; simp
  · simp [look_put_ne t i j x h, h]

@[simp] theorem look_alter_same {α : Type} {n : Nat} (t : Table α n) (i : Fin n) (f : α → α) :
    look (alter t i f) i = f (look t i) := by
  simp [alter]

theorem look_alter_ne {α : Type} {n : Nat} (t : Table α n) (i j : Fin n) (f : α → α) (h : i ≠ j) :
    look (alter t i f) j = look t j := by
  simp [alter, look_put_ne t i j _ h]

theorem look_alter {α : Type} {n : Nat} (t : Table α n) (i j : Fin n) (f : α → α) :
    look (alter t i f) j = if i = j then f (look t i) else look t j := by
  simp [alter, look_put]

@[simp] theorem look_filled {α : Type} (n : Nat) (x : α) (i : Fin n) : look (filled n x) i = x := by
  simp [look, filled]

@[simp] theorem look_tabulate {α : Type} (n : Nat) (f : Fin n → α) (i : Fin n) : look (tabulate n f) i = f i := by
  simp [look, tabulate]

end Sys2Proof
end

