-- ==== Sys2Proof/Machine/Bytes.lean ====
section
/-! DEFINITION. The byte order of the links (R1), the two checks (R20, R106) and the two's complement fields of
R175. -/

namespace Sys2Proof.Machine

/-- One byte of a number. -/
def byteOf (n : Nat) : Byte := BitVec.ofNat 8 n

/-- A number in two bytes, most significant first (R1). -/
def two (n : Nat) : List Byte := [byteOf (n / 256), byteOf n]

/-- A number in four bytes, most significant first (R1). A number of 2^32 or more is shown modulo 2^32, as R175 lays
down for the station time of a report; that every other four-byte item follows it is the model's choice
(assumption 8). -/
def four (n : Nat) : List Byte := [byteOf (n / 16777216), byteOf (n / 65536), byteOf (n / 256), byteOf n]

/-- A signed value in four bytes, in two's complement (R175). -/
def fourSigned (i : Int) : List Byte := four (BitVec.ofInt 32 i).toNat

/-- An absent item in a one-byte, two-byte or four-byte field (R175). -/
def absentOne : List Byte := [255]
def absentTwo : List Byte := [255, 255]
def absentFour : List Byte := [255, 255, 255, 255]

/-- An optional number in one, two or four bytes (R175). -/
def oneOr (x : Option Nat) : List Byte := (x.map fun n => [byteOf n]).getD absentOne
def twoOr (x : Option Nat) : List Byte := (x.map two).getD absentTwo
def fourOr (x : Option Nat) : List Byte := (x.map four).getD absentFour

/-- The number that bytes spell, most significant first (R1). -/
def numberOf (bytes : List Byte) : Nat := bytes.foldl (fun n b => n * 256 + b.toNat) 0

/-- Byte `i` of a record, 0 beyond its end. -/
def byteAt (bytes : List Byte) (i : Nat) : Byte := bytes.getD i 0

/-- `n` bytes of a record from byte `i`, as a number. -/
def fieldAt (bytes : List Byte) (i n : Nat) : Nat := numberOf ((List.range n).map fun k => byteAt bytes (i + k))

/-- The five bytes of an uplink frame's header: tag, kind and length, in that order and each most significant byte
first (R1, 12.3). -/
def headerBytes (tag : Nat) (kind : Byte) (length : Nat) : List Byte := two tag ++ [kind] ++ two length

/-- One bit of the CRC-16 with polynomial 0x1021 (R20). -/
def crc16Bit (crc : BitVec 16) : BitVec 16 :=
  if crc.msb then (crc <<< 1) ^^^ 0x1021#16 else crc <<< 1

/-- One byte of the CRC-16, most significant bit first (R20). -/
def crc16Byte (crc : BitVec 16) (b : Byte) : BitVec 16 :=
  Nat.repeat crc16Bit 8 (crc ^^^ (b.zeroExtend 16 <<< 8))

/-- The CRC-16 of R20: initial value 0xFFFF, no final inversion. -/
def crc16 (bytes : List Byte) : BitVec 16 := bytes.foldl crc16Byte 0xFFFF#16

/-- One bit of the CRC-8 with polynomial 0x07 (R106). -/
def crc8Bit (crc : BitVec 8) : BitVec 8 := if crc.msb then (crc <<< 1) ^^^ 0x07#8 else crc <<< 1

/-- One byte of the CRC-8, most significant bit first (R106). -/
def crc8Byte (crc : BitVec 8) (b : Byte) : BitVec 8 := Nat.repeat crc8Bit 8 (crc ^^^ b)

/-- The CRC-8 of R106: initial value 0, no final inversion. -/
def crc8 (bytes : List Byte) : BitVec 8 := bytes.foldl crc8Byte 0#8

/-- Bytes filled up with zeros to 64 (R164, R175). -/
def padded (bytes : List Byte) : List Byte := bytes ++ List.replicate (64 - bytes.length) 0

end Sys2Proof.Machine
end

