-- ==== Sys2Proof/Machine/Levels.lean ====
section
/-! DEFINITION. The levels of the cabinet bus: the ten bits of a byte on the wire (R18), and the framing of levels
into the bytes of a notice (R19). A level is `true` where it is recessive (bit value 1) and `false` where it is
dominant (bit value 0). -/

namespace Sys2Proof.Machine

/-! ### Sending (R18) -/

/-- The eight bits of a byte, most significant first. -/
def byteBits (b : Byte) : List Bool := (List.range 8).map fun i => b.getLsbD (7 - i)

/-- The ten bits of a byte on the bus: a dominant start bit, the data bits, a recessive stop bit (R18). -/
def byteLevels (b : Byte) : List Bool := false :: byteBits b ++ [true]

/-- The levels a sender gives the bus for the bytes of a notice, back to back (R18). -/
def noticeLevels (bytes : List Byte) : List Bool := bytes.flatMap byteLevels

/-- The byte that eight data bits spell, most significant first. -/
def bitsByte (bits : List Bool) : Byte := byteOf (bits.foldl (fun n b => 2 * n + b.toNat) 0)

/-! ### Framing (R19) -/

/-- What a receiver holds of the notice it is framing: the bytes kept, whether the notice is marked bad, the data bits
read of the byte it is inside, the level read last, and the recessive bit times since the last stop bit. -/
structure Framer where
  bytes  : List Byte
  bad    : Bool
  inside : Option (List Bool)
  last   : Bool
  idle   : Nat
  deriving DecidableEq, Repr

/-- Between notices, on a recessive bus. -/
def freshFramer : Framer := ⟨[], false, none, true, 0⟩

/-- A notice has ended when 10 consecutive recessive bit times have passed after its last stop bit (R19). -/
def Framer.ended (f : Framer) : Bool := decide (10 ≤ f.idle) && !f.bytes.isEmpty

/-- The stop bit of a byte: read dominant it is a framing error; a 17th byte marks the notice bad and is not kept
(R19). -/
def stopBit (f : Framer) (bits : List Bool) (level : Bool) : Framer :=
  if f.bytes.length < 16 then
    ⟨f.bytes ++ [bitsByte bits], f.bad || !level, none, level, 0⟩
  else ⟨f.bytes, true, none, level, 0⟩

/-- One bit time read from the bus. Outside a byte a dominant level that follows a recessive one is a start bit; after
the end of the notice nothing more belongs to it (R19). -/
def readLevel (f : Framer) (level : Bool) : Framer :=
  if f.ended then f
  else match f.inside with
    | some bits => if bits.length < 8 then { f with inside := some (bits ++ [level]), last := level } else stopBit f bits level
    | none =>
      if !level && f.last then { f with inside := some [], last := level, idle := 0 }
      else { f with last := level, idle := if level then f.idle + 1 else 0 }

/-- The levels of some bit times, with a number of recessive bit times behind them. -/
def busLevels (levels : List Bool) (recessive : Nat) : List Bool := levels ++ List.replicate recessive true

/-- The levels of some bit times framed, the first being the first start bit of a notice (R19). -/
def frameLevels (levels : List Bool) : Framer := levels.foldl readLevel freshFramer

end Sys2Proof.Machine
end

