-- ==== Sys2Proof/Syntax.lean ====
section
/-! DEFINITION. The commands of the block: one constructor for each row of spec/opcode_table.json, with the
operands that the row's step needs from outside (a port, a line, the bytes received, the fields of a request). -/

namespace Sys2Proof

/-- A port that receives frames: one of the twelve line ports, or the uplink port (R174). -/
inductive Port where
  | line (l : Line)
  | uplink
  deriving DecidableEq, Repr

/-- One of the fourteen pacing counters: those of the lines and of M, named by their round entry, and the
station's (R77). -/
inductive Pacer where
  | entry (e : RoundEntry)
  | station
  deriving DecidableEq, Repr

/-- The 17 bytes of a step record as LOAD STEP carries them, field by field (R176). -/
structure RawStep where
  mark     : Byte
  wire     : Byte
  quantity : Byte
  options  : Byte
  settle   : BitVec 16
  samples  : BitVec 16
  next     : Byte
  low      : BitVec 32
  high     : BitVec 32
  deriving DecidableEq, Repr

/-- The commands. The comments name the row of the opcode table and the rule that governs it. -/
inductive Instr where
  /-- POWER_ON (R171). -/
  | powerOn
  /-- PWRGOOD_FALL (R171). -/
  | pwrgoodFall
  /-- RESTART_START (R171). -/
  | restartStart
  /-- CONFIGURATION_READ_END (R169): the straps STN[2:0] and the 256 bytes of configuration memory as read. -/
  | configurationReadEnd (straps : BitVec 3) (image : Vector Byte 256)
  /-- FIRST_RECESSIVE_RUN (R25). -/
  | firstRecessiveRun
  /-- NOTICE_END (R32): the level read on CB_RX in each bit time from the notice's first start bit on, recessive as
  `true` (R18, R19), and the number of recessive bit times read behind them. -/
  | noticeEnd (levels : List Bool) (recessive : Nat)
  /-- DUPLICATE_NUMBER_HOLDOFF_EXPIRY (R35). -/
  | duplicateNumberHoldoffExpiry
  /-- NOTICE_COMPLETION (R34). -/
  | noticeCompletion
  /-- CONTENTION_LOSS (R26). -/
  | contentionLoss
  /-- ACCESS_GAP_EXPIRY (R23). -/
  | accessGapExpiry
  /-- BUS_QUIET_TIMEOUT (R22). -/
  | busQuietTimeout
  /-- ISOLATION_TIMER_EXPIRY (R38). -/
  | isolationTimerExpiry
  /-- NOTICE_PERIOD_EXPIRY (R51). -/
  | noticePeriodExpiry
  /-- PRESENCE_TIMER_EXPIRY (R43) of one peer's entry. -/
  | presenceTimerExpiry (station : StationNo)
  /-- CAPACITY_VIEW_EXPIRY (R46). -/
  | capacityViewExpiry
  /-- RISE_CHECK (R59). -/
  | riseCheck
  /-- FIRST_CELL_ADMISSION (R67): the first byte of a frame arrives at a port. -/
  | firstCellAdmission (port : Port) (byte : Byte)
  /-- FURTHER_CELL_NEEDED (R68): the 256 bytes that arrived since the byte that took the last cell; the last
  of them is the first byte that belongs in a new cell (or the 2,049th byte of the frame). -/
  | furtherCellNeeded (port : Port) (bytes : Vector Byte 256)
  /-- FRAME_RECEPTION_END (R69): the CLOSE of a frame, with the bytes that arrived since the byte that took
  the last cell. -/
  | frameReceptionEnd (port : Port) (rest : List Byte)
  /-- FRAME_ABORT_RECEIVED (R174). -/
  | frameAbortReceived (port : Port)
  /-- UPLINK_HEADER_END (R99): the five bytes of the header in the order they arrived, two of the tag, one of the kind
  and two of the length (12.3). -/
  | uplinkHeaderEnd (tag : Vector Byte 2) (kind : Byte) (length : Vector Byte 2)
  /-- PACING_UNDERFLOW (R79). -/
  | pacingUnderflow (pacer : Pacer)
  /-- UPLINK_TRANSMISSION_COMPLETE (R91). -/
  | uplinkTransmissionComplete
  /-- LP_RDY_ASSERTED (R102). -/
  | lpRdyAsserted (l : Line)
  /-- LP_RDY_WITHDRAWN (R103). -/
  | lpRdyWithdrawn (l : Line)
  /-- LINE_PORT_TRANSMISSION_COMPLETE (R103). -/
  | linePortTransmissionComplete (l : Line)
  /-- SEARCH_MARKER_FOUND (R108): the bit index at which the marker pattern began. -/
  | searchMarkerFound (l : Line) (position : Nat)
  /-- SEARCH_TIME_EXPIRY (R115). -/
  | searchTimeExpiry (l : Line)
  /-- REPORT_POSITION_END (R110): the 48 bits of the report position, the first bit sent highest (R106). -/
  | reportPositionEnd (l : Line) (word : BitVec 48)
  /-- LOS_TRIGGER_TIMER_EXPIRY (R119). -/
  | losTriggerTimerExpiry (l : Line)
  /-- HOLD_EXPIRY (R127). -/
  | holdExpiry
  /-- TURN_LAPSE (R128). -/
  | turnLapse
  /-- CONFIRM_WINDOW_END (R131): whether OCC_SNS reads active. -/
  | confirmWindowEnd (occupied : Bool)
  /-- RELAY_RELEASE_TIME_END (R135). -/
  | relayReleaseTimeEnd
  /-- OWN_HOLD_LIMIT (R150). -/
  | ownHoldLimit
  /-- OCCUPANCY_LOSS (R134). -/
  | occupancyLoss
  /-- OPERATE_TIME_END (R147). -/
  | operateTimeEnd
  /-- SETTLE_TIME_END (R147). -/
  | settleTimeEnd
  /-- DISCHARGE_TIME_END (R147). -/
  | dischargeTimeEnd
  /-- ENDING_DISCHARGE_END (R148). -/
  | endingDischargeEnd
  /-- HOLDOFF_EXPIRY (R152). -/
  | holdoffExpiry (l : Line)
  /-- SAMPLE_TAKEN (R155): the two 16-bit values of the pair (R154). -/
  | sampleTaken (v i : BitVec 16)
  /-- SAMPLE_FRAME_FAULT (R154). -/
  | sampleFrameFault
  /-- READ_LINE (R2): request number and line byte. -/
  | readLine (num line : Byte)
  /-- READ_STATION (R165). -/
  | readStation (num : Byte)
  /-- READ_PEERS (R41). -/
  | readPeers (num : Byte)
  /-- READ_RESULTS (R162). -/
  | readResults (num line : Byte)
  /-- BAR_LINE (R5). -/
  | barLine (num line : Byte)
  /-- UNBAR_LINE (R5). -/
  | unbarLine (num line : Byte)
  /-- SET_TAG (R96): index, tag, line and class bytes. -/
  | setTag (num index : Byte) (tag : BitVec 16) (line cls : Byte)
  /-- CLEAR_TAG (R97). -/
  | clearTag (num index : Byte)
  /-- LOAD_STEP (R138): a slot and a step record whose mark byte is not 0. -/
  | loadStep (num slot : Byte) (rec : RawStep)
  /-- LOAD_STEP_EMPTY (R138): a slot to be emptied (mark byte 0). -/
  | loadStepEmpty (num slot : Byte)
  /-- SUBMIT_RUN (R143): line, start slot and option bytes. -/
  | submitRun (num line slot option : Byte)
  /-- CANCEL_RUN (R145). -/
  | cancelRun (num id : Byte)
  /-- CLEAR_FAULT (R151) for a line. -/
  | clearFault (num line : Byte)
  /-- CLEAR_FAULT_LATCH (R151). -/
  | clearFaultLatch (num : Byte)
  /-- REALIGN (R112). -/
  | realign (num line : Byte)
  /-- RESTART (R166). -/
  | restart (num : Byte)
  /-- UNKNOWN (R163): a request that is none of the above; the first 64 bytes of its contents. -/
  | unknown (contents : List Byte)
  /-- RESTART_WAIT_TIMEOUT (R166). -/
  | restartWaitTimeout
  /-- START_BIT_READ (R24). -/
  | startBitRead
  /-- UPSTREAM_BYTE_ARRIVAL (R13). -/
  | upstreamByteArrival (l : Line)
  deriving DecidableEq, Repr

end Sys2Proof
end

