-- ==== Sys2Proof/WellFormed.lean ====
section
/-! DEFINITION. Which commands can occur: the checks on operands that the types of Syntax.lean do not make. -/

namespace Sys2Proof

/-- A command that can occur. NOTICE_END carries the levels of a notice that has ended
(R19); a frame's rest is shorter than a cell, since
a byte that needs a new cell is a FURTHER_CELL_NEEDED (R68); LOAD_STEP has a mark byte other than 0 (R176);
CLEAR_FAULT for a line does not name the latch (R175); UNKNOWN keeps at most 64 bytes (R101). -/
def wellFormed : Instr → Bool
  | .noticeEnd levels recessive => (Machine.frameLevels (Machine.busLevels levels recessive)).ended
  | .frameReceptionEnd _ rest => rest.length ≤ 255
  | .loadStep _ _ rec => rec.mark != 0
  | .clearFault _ line => line != 255
  | .unknown contents => contents.length ≤ 64
  | _ => true

end Sys2Proof
end

