-- ==== Sys2Proof/Decode.lean ====
section
/-! DEFINITION. Reading commands. The opcode table gives no row bits, so `decodeTableWord` reads none. What the
outside does spell in bytes is a management request: `decodeRequest` reads the contents of an MGMT frame as R163
and R175 lay down, and `encodeRequest` writes them. -/

namespace Sys2Proof

/-- No row of the opcode table has bits, so no word spells a command. -/
def decodeTableWord (_nbits _w : Nat) : Option Instr := none

/-- Two bytes read most significant first (R1). -/
def word16 (hi lo : Byte) : BitVec 16 := hi ++ lo

/-- Four bytes read most significant first (R1). -/
def word32 (a b c d : Byte) : BitVec 32 := a ++ b ++ c ++ d

/-- The two bytes of a 16-bit field, most significant first. -/
def bytes16 (w : BitVec 16) : List Byte := [w.extractLsb' 8 8, w.extractLsb' 0 8]

/-- The four bytes of a 32-bit field, most significant first. -/
def bytes32 (w : BitVec 32) : List Byte :=
  [w.extractLsb' 24 8, w.extractLsb' 16 8, w.extractLsb' 8 8, w.extractLsb' 0 8]

/-- The arguments of a request whose length is right, by its code (R175, R176). -/
def decodeArguments : List Byte → Option Instr
  | [1, n, l] => some (.readLine n l)
  | [2, n] => some (.readStation n)
  | [3, n] => some (.readPeers n)
  | [4, n, l] => some (.readResults n l)
  | [5, n, l] => some (.barLine n l)
  | [6, n, l] => some (.unbarLine n l)
  | [7, n, x, t1, t0, l, c] => some (.setTag n x (word16 t1 t0) l c)
  | [8, n, x] => some (.clearTag n x)
  | [9, n, k, m, w, q, o, s1, s0, c1, c0, nx, l3, l2, l1, l0, h3, h2, h1, h0] =>
    some (if m = 0 then .loadStepEmpty n k
      else .loadStep n k ⟨m, w, q, o, word16 s1 s0, word16 c1 c0, nx, word32 l3 l2 l1 l0, word32 h3 h2 h1 h0⟩)
  | [10, n, l, k, o] => some (.submitRun n l k o)
  | [11, n, r] => some (.cancelRun n r)
  | [12, n, l] => some (if l = 255 then .clearFaultLatch n else .clearFault n l)
  | [13, n, l] => some (.realign n l)
  | [14, n] => some (.restart n)
  | _ => none

/-- The command that an MGMT frame's contents spell (R163): `lengthField` is the header's length, `received` the
number of contents bytes, and `contents` the first 64 of them (R101). -/
def decodeRequest (lengthField received : Nat) (contents : List Byte) : Instr :=
  if lengthField > 64 ∨ received ≠ lengthField ∨ contents.length ≠ received then .unknown (contents.take 64)
  else (decodeArguments contents).getD (.unknown contents)

/-- The contents of the MGMT frame that carries a request (R175, R176); `none` for a command that is no request. -/
def encodeRequest : Instr → Option (List Byte)
  | .readLine n l => some [1, n, l]
  | .readStation n => some [2, n]
  | .readPeers n => some [3, n]
  | .readResults n l => some [4, n, l]
  | .barLine n l => some [5, n, l]
  | .unbarLine n l => some [6, n, l]
  | .setTag n x t l c => some ([7, n, x] ++ bytes16 t ++ [l, c])
  | .clearTag n x => some [8, n, x]
  | .loadStep n k r => some ([9, n, k, r.mark, r.wire, r.quantity, r.options] ++ bytes16 r.settle ++
      bytes16 r.samples ++ [r.next] ++ bytes32 r.low ++ bytes32 r.high)
  | .loadStepEmpty n k => some ([9, n, k] ++ List.replicate 17 0)
  | .submitRun n l k o => some [10, n, l, k, o]
  | .cancelRun n r => some [11, n, r]
  | .clearFault n l => some [12, n, l]
  | .clearFaultLatch n => some [12, n, 255]
  | .realign n l => some [13, n, l]
  | .restart n => some [14, n]
  | _ => none

end Sys2Proof
end

