-- ==== Sys2Proof/Config.lean ====
section
/-! DEFINITION. What is fixed for the part: the sizes and times that the rules give as numbers. The rules leave no
value of a result open, so there is no constant without a body here. -/

namespace Sys2Proof.Config

/-- Free cells that line frames may not start into (R67). -/
def reserve : Nat := 64
/-- Bytes in a cell (R62). -/
def cellBytes : Nat := 256
/-- Cells in the frame store (R62). -/
def cellCount : Nat := 2048
/-- The shortest and longest frame, in bytes (R62). -/
def minFrame : Nat := 64
def maxFrame : Nat := 2048
/-- Frames that UM holds (R71) and reports that the report queue holds (R167). -/
def umFrames : Nat := 32
def reportFrames : Nat := 16
/-- Runs that the run queue holds (R142). -/
def queuedRuns : Nat := 16
/-- The bound of the 32-bit tallies and totals (R2, R16, R75). -/
def tallyMax : Nat := 4294967295
/-- The bytes that one pacing underflow delivers (R77) and the floor of every bucket (R81). -/
def pacingQuantum : Int := 128
def bucketFloor : Int := -2048
/-- The depth of M's bucket (R81) and the rate of M's counter (R80). -/
def managementDepth : Int := 8192
def managementRate : Nat := 256
/-- The greatest advertised demand (R51) and the rate of the uplink port (R55). -/
def demandMax : Nat := 524280
def portRate : Nat := 1000000
/-- Contention losses at which a notice is discarded (R27). -/
def lossLimit : Nat := 16
/-- Times in ms: a turn (R128), the confirm window (R131), the relay release time (R133), the relay operate
time (R147), a discharge (R147), the margin of a hold (R125), the least hold kept (R148) and the restart wait
(R166). -/
def turnTime : Nat := 500
def confirmTime : Nat := 20
def releaseTime : Nat := 10
def operateTime : Nat := 10
def dischargeTime : Nat := 50
def holdMargin : Nat := 1000
def keepMargin : Nat := 1000
def restartTime : Nat := 100
/-- Report positions in a second (R116), seconds in a window (R117) and report times after which a search takes
a line OUT (R115). -/
def secondPositions : Nat := 1000
def windowSeconds : Nat := 15
def searchLimit : Nat := 20
/-- The magnitude of a voltage sample above which the hazard watch acts, in units of 10 mV (R156). -/
def hazardSample : Int := 20000

end Sys2Proof.Config
end

