-- ==== Sys2Proof/Machine/Memory.lean ====
section
/-! DEFINITION. The bytes of the frame store's cells (R62): a list of address and byte pairs in one canonical
form, with addresses strictly rising and no entry equal to what an unlisted address reads as. Byte `o` of cell
`c` stands at address 256 × c + o. -/

namespace Sys2Proof.Machine

/-- What a byte that no frame has written reads as (assumption 2). -/
def unwritten : Byte := 0

/-- One byte of memory. -/
def memRead : List Host.Cell → Nat → Byte
  | [], _ => unwritten
  | (b, x) :: rest, a => if a = b then x else memRead rest a

/-- Memory with one byte written, in canonical form. -/
def memWrite : List Host.Cell → Nat → Byte → List Host.Cell
  | [], a, x => if x = unwritten then [] else [(a, x)]
  | (b, y) :: rest, a, x =>
    if a < b then (if x = unwritten then (b, y) :: rest else (a, x) :: (b, y) :: rest)
    else if a = b then (if x = unwritten then rest else (b, x) :: rest)
    else (b, y) :: memWrite rest a x

/-- The canonical form. -/
def memWf : List Host.Cell → Bool
  | [] => true
  | [(_, x)] => x != unwritten
  | (a, x) :: (b, y) :: rest => x != unwritten && decide (a < b) && memWf ((b, y) :: rest)

/-- The address of byte `o` of a cell (R62). -/
def cellAddress (c : CellNo) (o : Nat) : Nat := Config.cellBytes * c.val + o

/-- The address of byte `k` of a frame held in a chain: the first cell holds bytes 0 to 255, the second bytes 256
to 511, and so on (R62). -/
def frameAddress (cells : List CellNo) (k : Nat) : Option Nat :=
  (cells[k / Config.cellBytes]?).map fun c => cellAddress c (k % Config.cellBytes)

/-- Memory with the bytes of a frame from byte `k` on written into the frame's chain; a byte beyond the chain is
written nowhere. -/
def writeFrame (cells : List CellNo) : List Host.Cell → Nat → List Byte → List Host.Cell
  | m, _, [] => m
  | m, k, x :: xs =>
    writeFrame cells (match frameAddress cells k with | some a => memWrite m a x | none => m) (k + 1) xs

/-- The first `n` bytes of a frame held in a chain. -/
def readFrame (cells : List CellNo) (m : List Host.Cell) (n : Nat) : List Byte :=
  (List.range n).map fun k => ((frameAddress cells k).map (memRead m)).getD unwritten

end Sys2Proof.Machine
end

