-- ==== Sys2Proof/Machine/Types.lean ====
section
/-! DEFINITION. The data that each block of the part holds (the functional overview of 00_scope.md), as plain
data. State.lean gathers them. -/

namespace Sys2Proof.Machine

/-! ### Line records (chapter 1) -/

/-- The supervision unit's view of a line (R115), in the order of R2. -/
inductive Sync where
  | outOfSync
  | inSync
  | errored
  deriving DecidableEq, Repr

/-- The testing view of a line (R2, R141). -/
inductive TestCond where
  | none
  | pending
  | connected
  deriving DecidableEq, Repr

/-- The service state of a line, in the order of R2 and of the precedence of R7. -/
inductive Service where
  | vacant
  | testing
  | barred
  | down
  | degraded
  | up
  deriving DecidableEq, Repr

/-- The profile of a line (R3). -/
structure Profile where
  weight    : Nat
  peak      : Nat
  burst     : Nat
  degraded  : Nat
  upLimit   : Nat
  downLimit : Nat
  deriving DecidableEq, Repr

/-- One line record (R2). An unknown rate and an absent slot are `none`. -/
structure LineRec where
  equipped     : Bool
  profile      : Profile
  barred       : Bool
  hazard       : Bool
  sync         : Sync
  test         : TestCond
  service      : Service
  demand       : Nat
  offered      : Nat
  attainable   : Option Nat
  es           : Nat
  ses          : Nat
  admissionDrop : Nat
  ageDiscard   : Nat
  flush        : Nat
  unmapped     : Nat
  continueSlot : Option Slot
  deriving DecidableEq, Repr

/-! ### Settings (chapter 11) -/

/-- The station-wide settings as delivered at a start (R170, R121, R157, R159). -/
structure Settings where
  mimicCheck  : Bool
  strict      : Bool
  autoRealign : Bool
  mgmtTag     : Nat
  /-- T_n in units of 10 ms. -/
  periodUnits : Nat
  weight      : Nat
  cabinet     : Nat
  headroom    : Nat
  floor       : Nat
  ceiling     : Nat
  sojourn     : Nat
  debounce    : Nat
  sesThreshold : Nat
  windowThreshold : Nat
  triggerDelay : Nat
  triggerSlot : Slot
  holdoff     : Nat
  dcHazard    : Nat
  acHazard    : Nat
  capPerMetre : Nat
  deriving DecidableEq, Repr

/-- Why an image was defaulted (R169). -/
inductive DefaultCause where
  | badFormat
  | badSum
  deriving DecidableEq, Repr

/-- The two kinds of start (R171). -/
inductive StartKind where
  | powerOn
  | restart
  deriving DecidableEq, Repr

/-- Whether the part is held by PWRGOOD, in steps 1 to 5 of a start, or running (R171). -/
inductive Power where
  | held
  | reading
  | running
  deriving DecidableEq, Repr

/-! ### Cabinet bus (chapter 2) -/

/-- The kinds of notice (R20), in the order of their codes (R172). -/
inductive NoticeKind where
  | status
  | capacity
  | claim
  | take
  | held
  | release
  deriving DecidableEq, Repr

/-- The priority of a claim (R21), in the order of its codes (R172). -/
inductive Priority where
  | scheduled
  | triggered
  deriving DecidableEq, Repr

/-- A notice as it was asked for: its kind and the fields fixed when asked (R21). Demand and allowance are in
units of 8 kbit/s, holds in units of 100 ms. -/
inductive Ask where
  | status (weight demand allowance : Nat)
  | claim (priority : Priority) (hold : Nat)
  | take (hold : Nat)
  | held
  | release
  deriving DecidableEq, Repr

/-- An entry of the outgoing notice queue (R28). -/
structure OutNotice where
  ask    : Ask
  losses : Nat
  deriving DecidableEq, Repr

/-- An attempt in flight (R28): the fields fixed at its start (R21), the bytes it sends (R172), and the half bit times
(1 µs each) since its first start bit (R18). -/
structure Attempt where
  sequence  : Nat
  restart   : Bool
  holding   : Bool
  remaining : Nat
  bytes     : List Byte
  elapsed   : Nat
  deriving DecidableEq, Repr

/-- The bus condition (R38). -/
inductive BusCondition where
  | listening
  | joined
  | isolated
  deriving DecidableEq, Repr

/-- The notice interface. The notice in flight is the head of `queue` while `attempt` is present. -/
structure Notices where
  queue      : List OutNotice
  attempt    : Option Attempt
  /-- The last-sender number p, 0 to 8 (R22). -/
  lastSender : Fin 9
  /-- 10 recessive bit times have been read since the configuration read (R25). -/
  framing    : Bool
  /-- Permission to start a notice (R25). -/
  permitted  : Bool
  /-- A notice that the station receives is on the bus: another party's, or the one on which an attempt was lost behind
  its first start bit (R19, R24, R26). -/
  receiving  : Bool
  /-- The station's gap has been taken to pass on a recessive bus since the last notice ended, or since an attempt was
  last started or lost (R23, R26). -/
  gapPassed  : Bool
  /-- Half bit times (1 µs each) for which the bus has been recessive since the last notice ended (R22, R23). -/
  quiet      : Nat
  /-- The quiet timeout has been taken since the last notice ended (R22). -/
  quietTaken : Bool
  /-- The last completed sequence number (R20). -/
  lastSequence : Nat
  /-- STATUS notices completed since the start, counted up to 2 (R37). -/
  statusDone : Nat
  badNotices : Nat
  condition  : BusCondition
  /-- The station time at which the isolation timer expires (R38). -/
  isolationAt : Option Nat
  /-- The station time at which the DUPLICATE NUMBER holdoff ends (R35). -/
  duplicateUntil : Option Nat
  deriving DecidableEq, Repr

/-! ### Peer table and share (chapter 3) -/

/-- The presence states (R41). -/
inductive Presence where
  | absent
  | joining
  | present
  | stale
  deriving DecidableEq, Repr

/-- One of entries 0 to 7 of the peer table (R41). -/
structure Peer where
  presence   : Presence
  lastSequence : Option Nat
  missed     : Nat
  demand     : Nat
  weight     : Nat
  holding    : Bool
  allowance  : Nat
  lastStatus : Option Nat
  joinedAt   : Option Nat
  deriving DecidableEq, Repr

/-- The states of the capacity view (R46). -/
inductive CapacityState where
  | current
  | stale
  | none
  deriving DecidableEq, Repr

/-- Entry 8 of the peer table: the capacity view (R46). -/
structure CapacityView where
  state : CapacityState
  last  : Option Nat
  time  : Option Nat
  deriving DecidableEq, Repr

/-- A pending rise (R58). -/
structure Rise where
  target : Nat
  due    : Nat
  deriving DecidableEq, Repr

/-- The peer table and share unit. -/
structure Share where
  peers     : Table Peer 8
  capacity  : CapacityView
  /-- The computed share, and the C and C_eff it was formed from (R55). -/
  share     : Nat
  usedC     : Nat
  effective : Nat
  /-- The allowance in effect, A (R58). -/
  allowance : Nat
  rise      : Option Rise
  /-- The station time at which the notice-period timer expires (R36). -/
  periodAt  : Option Nat
  deriving DecidableEq, Repr

/-! ### Frame store (chapter 4) -/

/-- The class of a downstream frame (R66), in the order of its codes (R175). -/
inductive FrameClass where
  | normal
  | high
  deriving DecidableEq, Repr

/-- An entry of a queue (R64), with the chain of cells of its frame. `endsWait` marks the DONE response of
RESTART, whose completion ends the restart wait (R166). -/
structure Entry where
  cells    : List CellNo
  length   : Nat
  stamp    : Nat
  cls      : FrameClass
  endsWait : Bool
  deriving DecidableEq, Repr

/-- What a line port is receiving: nothing yet of a frame, the rest of a refused or dropped frame, or an
admitted frame with its chain so far and its bytes so far (R67, R68). -/
inductive LineRx where
  | idle
  | discarding
  | receiving (cells : List CellNo) (count : Nat)
  deriving DecidableEq, Repr

/-- What the uplink port is receiving (R99 to R101). `length` is the header's length field; of an MGMT frame the first
64 contents bytes are kept and all are counted. -/
inductive UplinkRx where
  | idle
  | discarding
  | request (length : Nat) (kept : List Byte) (received : Nat)
  | dataHeader (line : Line) (cls : FrameClass) (length : Nat)
  | floodHeader (length : Nat)
  | data (line : Line) (cls : FrameClass) (length : Nat) (cells : List CellNo) (count : Nat)
  | flood (targets : List Line) (length : Nat) (cells : List CellNo) (count : Nat)
  deriving DecidableEq, Repr

/-- The frame store. The bytes of the cells are held at address 256 × cell + offset. -/
structure Store where
  free      : List CellNo
  refs      : Table Nat 2048
  memory    : List Host.Cell
  up        : Table (List Entry) 12
  um        : List Entry
  down      : Table (List Entry) 12
  lineRx    : Table LineRx 12
  uplinkRx  : UplinkRx
  lowMark   : Nat
  floodDrop : Nat
  deriving DecidableEq, Repr

/-! ### Upstream scheduler (chapter 5) -/

/-- The two pacing clocks: 1 MHz and 15.625 kHz (R77). -/
inductive Clock where
  | fast
  | slow
  deriving DecidableEq, Repr

/-- A pacing counter (R77). -/
structure Counter where
  running : Bool
  clock   : Clock
  reload  : Nat
  count   : Nat
  pending : Option Nat
  rate    : Nat
  deriving DecidableEq, Repr

/-- Whether the scheduler is idle, holds a turn, or has paused one (R85, R88, R89). -/
inductive Turn where
  | idle
  | held
  | paused
  deriving DecidableEq, Repr

/-- The frame in flight on the uplink port, with the five bytes of its header (R91). -/
structure UplinkFrame where
  cells    : List CellNo
  length   : Nat
  header   : List Byte
  endsWait : Bool
  deriving DecidableEq, Repr

/-- The control symbol with which the last frame sent on a port ended (R174). -/
inductive EndSymbol where
  | close
  | abort
  deriving DecidableEq, Repr

/-- The upstream scheduler and the uplink transmitter. Entry 12 of each table is M. -/
structure Scheduler where
  counters : Table Counter 13
  levels   : Table Int 13
  deficits : Table Nat 13
  stationCounter : Counter
  stationLevel   : Int
  stationDepth   : Nat
  pointer  : RoundEntry
  turn     : Turn
  inFlight : Option UplinkFrame
  lastEnd  : Option EndSymbol
  deriving DecidableEq, Repr

/-! ### Downstream distributor (chapter 6) -/

/-- An entry of the line map (R94). -/
structure MapEntry where
  tag  : Nat
  line : Line
  cls  : FrameClass
  deriving DecidableEq, Repr

/-- The downstream distributor: the map, the levels of LP_RDY as they stand on the pins and as last read (R103, R104),
the frames in transmission on the line ports, and the station's unmapped and malformed tallies. -/
structure Distributor where
  map       : Table (Option MapEntry) 32
  ready     : Table Bool 12
  lastReady : Table Bool 12
  sending   : Table (Option Entry) 12
  lastEnd   : Table (Option EndSymbol) 12
  unmapped  : Nat
  malformed : Nat
  deriving DecidableEq, Repr

/-! ### Line supervision (chapter 7) -/

/-- A de-bounced flag: its value, run value and run length (R113). -/
structure Debounced where
  value    : Bool
  runValue : Bool
  run      : Nat
  deriving DecidableEq, Repr

/-- The second in progress (R116). -/
structure Second where
  positions : Nat
  anomalies : Nat
  marked    : Bool
  deriving DecidableEq, Repr

/-- The window in progress (R117). -/
structure Window where
  seconds : Nat
  ses     : Nat
  deriving DecidableEq, Repr

/-- The supervision of one line: its aligner (R107), flags, second, window and loss-of-signal timer. -/
structure Supervision where
  aligned    : Bool
  suspended  : Bool
  bitIndex   : Nat
  candidates : List Nat
  mimicRecord : Bool
  /-- The bit index at the entry into SEARCH, and the search time (R107). -/
  searchFrom : Nat
  searchTime : Nat
  /-- The aligned offset, the bit index at which the report position in progress ends, and the results of the last
  four marker tests, oldest first, good as `true`. -/
  offset     : Nat
  positionEnd : Nat
  /-- In SEARCH after a REALIGN in ALIGNED, the bit index at which the report position that it cut off ends, until the
  position's bits have been searched (R112). -/
  cutEnd     : Option Nat
  lastFour   : List Bool
  lastOffset : Option Nat
  mimic      : Bool
  markerErrors : Nat
  checkFailures : Nat
  slips      : Nat
  /-- The sequence of the last good report of this alignment, and the report positions since it (R110). -/
  lastGood   : Option (Nat × Nat)
  showtime   : Debounced
  signalLoss : Debounced
  dyingGasp  : Debounced
  remoteDefect : Debounced
  second     : Option Second
  window     : Window
  /-- The station time at which the loss-of-signal trigger timer started (R119). -/
  timerFrom  : Option Nat
  deriving DecidableEq, Repr

/-! ### Test bus claims (chapter 8) -/

/-- An entry of the claim queue (R123). -/
structure Claimant where
  station  : StationNo
  priority : Priority
  hold     : Nat
  deriving DecidableEq, Repr

/-- The own claim states (R129). -/
inductive OwnState where
  | none
  | queued
  | turn
  | taking
  | holding
  | releasing
  deriving DecidableEq, Repr

/-- The levels of STIM_SEL (R133). -/
inductive Stimulus where
  | none
  | dcTest
  | step
  | discharge
  deriving DecidableEq, Repr

/-- A claim: its priority and requested hold (R129). -/
structure ClaimTerms where
  priority : Priority
  hold     : Nat
  deriving DecidableEq, Repr

/-- The claim unit. -/
structure Claims where
  holder    : Option StationNo
  expiry    : Option Nat
  queue     : List Claimant
  /-- The station time at which the turn of the head began (R128). -/
  turnFrom  : Option Nat
  /-- Whether each peer is present, that is, not ABSENT (R123). -/
  present   : Table Bool 8
  own       : OwnState
  /-- The claim in force, and whether its CLAIM still waits for two completed STATUS notices (R129). -/
  inForce   : Option ClaimTerms
  waiting   : Bool
  /-- The claim recorded during RELEASING (R129). -/
  recorded  : Option ClaimTerms
  /-- A new CLAIM is to be asked for at the end of the next STATUS (R132). -/
  reclaim   : Bool
  ownLimit  : Option Nat
  limitReached : Bool
  /-- The station time at which the confirm window ends (R131). -/
  confirmAt : Option Nat
  relay     : Option Line
  stimulus  : Stimulus
  occDriven : Bool
  occSensed : Bool
  /-- The station time at which the relay release time ends, and the Connect that waits for it (R133, R135). -/
  releaseAt : Option Nat
  connectWaits : Option Line
  deriving DecidableEq, Repr

/-! ### Test sequencer (chapter 9) -/

/-- The pair of wires a step measures across (R137), in the order of its codes (R176). -/
inductive Wires where
  | tipRing
  | tipGround
  | ringGround
  deriving DecidableEq, Repr

/-- What a step measures (R137), in the order of its codes (R176). -/
inductive Quantity where
  | foreignDc
  | foreignAc
  | resistance
  | capacitance
  | length
  deriving DecidableEq, Repr

/-- A step record (R137). -/
structure Step where
  wires    : Wires
  quantity : Quantity
  settle   : Nat
  samples  : Nat
  low      : Option Int
  high     : Option Int
  stop     : Bool
  report   : Bool
  abortOnFail : Bool
  confirm  : Bool
  next     : Option Slot
  deriving DecidableEq, Repr

/-- The origin of a run (R141). -/
inductive Origin where
  | operator
  | triggered
  deriving DecidableEq, Repr

/-- The status of a run (R141). -/
inductive RunStatus where
  | new
  | suspended
  | faultedHazard
  | faultedBus
  deriving DecidableEq, Repr

/-- The cause of a triggered run (R141). -/
inductive Cause where
  | errored
  | lossOfSignal
  deriving DecidableEq, Repr

/-- The outcomes of a run (R148). -/
inductive RunOutcome where
  | passed
  | failed
  | aborted
  | cancelled
  | timeout
  | hazard
  | recovered
  | malformed
  | busLost
  deriving DecidableEq, Repr

/-- A run record (R141). -/
structure Run where
  id     : Nat
  line   : Line
  start  : Slot
  origin : Origin
  status : RunStatus
  resume : Option Slot
  report : Bool
  cause  : Option Cause
  steps  : Nat
  fails  : Nat
  deriving DecidableEq, Repr

/-- The phases in which a run can stand between events; NEXT is instant (R146, R147). -/
inductive Phase where
  | waitingBus
  | connecting
  | settling
  | sampling
  | discharging
  | ending
  deriving DecidableEq, Repr

/-- The active run: its record, current slot and phase, the station time at which the phase ends where time ends
it, the pending cancel, whether a STEP stimulus has been applied since the last DISCHARGING (R148), and in ENDING
the outcome it carries. -/
structure Active where
  run     : Run
  slot    : Slot
  phase   : Phase
  until_  : Option Nat
  cancel  : Bool
  charged : Bool
  outcome : RunOutcome
  deriving DecidableEq, Repr

/-- The ENDING discharge of an OPERATOR run whose record has already returned to the queue at its hold limit
(R150): the run's id, its line and the station time at which the discharge ends. -/
structure Closing where
  runId : Nat
  line  : Line
  until_ : Nat
  deriving DecidableEq, Repr

/-- The test sequencer. A holdoff holds the station time at which it ends. -/
structure Sequencer where
  steps    : Table (Option Step) 128
  queue    : List Run
  active   : Option Active
  closing  : Option Closing
  faults   : Table (Option Run) 12
  counter  : Nat
  latch    : Bool
  holdoffs : Table (Option Nat) 12
  deriving DecidableEq, Repr

/-! ### Measurement (chapter 10) -/

/-- The flags of a result (R157 to R160). -/
structure ResultFlags where
  open_     : Bool
  noStep    : Bool
  overRange : Bool
  unstable  : Bool
  hazard    : Bool
  deriving DecidableEq, Repr

/-- The verdict of a result (R161). -/
inductive Verdict where
  | pass
  | fail
  deriving DecidableEq, Repr

/-- An entry of the results table (R162). -/
structure Result where
  value   : Int
  flags   : ResultFlags
  verdict : Verdict
  wires   : Wires
  slot    : Slot
  count   : Nat
  time    : Nat
  runId   : Nat
  deriving DecidableEq, Repr

/-- The last run outcome of a line (R162). -/
structure LastRun where
  runId   : Nat
  origin  : Origin
  outcome : RunOutcome
  time    : Nat
  deriving DecidableEq, Repr

/-- The accumulators (R155). -/
structure Accumulators where
  n      : Nat
  sumV   : Int
  sumI   : Int
  sumVV  : Nat
  firstV : Option Int
  lastV  : Option Int
  deriving DecidableEq, Repr

/-- The measurement unit: the accumulators, the selection recorded at SETTLING (R155), the measurements made for
the step and the previous result (R160), the verdict handed to the sequencer (R161), the results table and the
last run outcomes (R162), and the sample-fault tally (R154). -/
structure Measurement where
  acc      : Accumulators
  wires    : Option Wires
  quantity : Option Quantity
  samples  : Nat
  made     : Nat
  previous : Option Int
  verdict  : Option Verdict
  results  : Table (Table (Option Result) 5) 12
  lastRuns : Table (Option LastRun) 12
  faults   : Nat
  deriving DecidableEq, Repr

/-! ### Management agent (chapter 11) -/

/-- The alarms that are reported (R113): showtime is de-bounced but not reported. -/
inductive Alarm where
  | showtime
  | signalLoss
  | dyingGasp
  | remoteDefect
  deriving DecidableEq, Repr

/-- Why an OCCUPIED report is queued (R131, R134). -/
inductive OccupiedCause where
  | busyAtConfirm
  | lostWhileHolding
  deriving DecidableEq, Repr

/-- A report with the fields of its queuing rule. -/
inductive ReportBody where
  | lineState (line : Line) (old new : Service) (sync : Sync) (test : TestCond) (barred hazard : Bool)
  | alarm (line : Line) (flag : Alarm) (value : Bool)
  | alignmentChange (line : Line) (old new : Nat) (mimic : Bool)
  | peer (station : StationNo) (old new : Presence)
  | busCondition (old new : BusCondition)
  | noticeDropped (kind : NoticeKind) (losses : Nat)
  | duplicateNumber (kind : NoticeKind) (sequence : Nat)
  | occupied (cause : OccupiedCause) (claim : Option ClaimTerms)
  | runEnded (run : Run) (outcome : RunOutcome) (slot : Slot)
  | result (line : Line) (quantity : Quantity) (entry : Result)
  | started (kind : StartKind) (station : StationNo) (defaulted : Bool) (clamped : Nat)
  | configDefaulted (cause : DefaultCause)
  deriving DecidableEq, Repr

/-- An entry of the report queue (R167). -/
structure Report where
  time : Nat
  body : ReportBody
  deriving DecidableEq, Repr

/-- The restart wait (R166): none, waiting until a station time at most, or ended. -/
inductive RestartWait where
  | none
  | waiting (until_ : Nat)
  | ended
  deriving DecidableEq, Repr

/-- The management agent. -/
structure Management where
  reports : List Report
  missed  : Bool
  wait    : RestartWait
  deriving DecidableEq, Repr

/-- What the configuration loader holds (R169, R170). -/
structure Loader where
  settings  : Settings
  station   : StationNo
  defaulted : Option DefaultCause
  clamped   : Nat
  deriving DecidableEq, Repr

end Sys2Proof.Machine
end

