-- ==== Sys2Proof/Machine/Flags.lean ====
section
/-! DEFINITION. Flags and counts: the saturating counts of R1, and the codes that a state, kind or flag takes in
a response or report (R175): the code listed with its field in chapter 12 where there is one, else its place in
the list where it is defined, counting from 0. -/

namespace Sys2Proof.Machine

/-- A count that saturates (R1). -/
def satAdd (limit n k : Nat) : Nat := min limit (n + k)

/-- One more in a 32-bit tally (R16, R75). -/
def tally (n : Nat) : Nat := satAdd Config.tallyMax n 1

/-- `k` more in a 32-bit tally. -/
def tallyBy (n k : Nat) : Nat := satAdd Config.tallyMax n k

/-- A value brought into a range (R1). -/
def clamp (low high n : Nat) : Nat := min high (max low n)

/-- The ceiling of a quotient (R1). -/
def ceilDiv (a b : Nat) : Nat := (a + b - 1) / b

/-- A flag listed as "set or clear", "yes or no" or "driven or not": its place in that list (R175). A flag for which the
rules list no two values, as the pending cancel (R141) and whether the image was defaulted (R165, R171), is coded in the
same way, 0 for yes (DESIGN CHOICE, assumption 7). -/
def flagByte (b : Bool) : Byte := if b then 0 else 1

/-- The value of a de-bounced flag, which is a bit of the report (R113). -/
def bitByte (b : Bool) : Byte := if b then 1 else 0

def syncCode : Sync → Byte
  | .outOfSync => 0 | .inSync => 1 | .errored => 2

def testCode : TestCond → Byte
  | .none => 0 | .pending => 1 | .connected => 2

def serviceCode : Service → Byte
  | .vacant => 0 | .testing => 1 | .barred => 2 | .down => 3 | .degraded => 4 | .up => 5

/-- The code of a kind that a notice on the bus carries (R172). -/
def noticeCode : NoticeKind → Byte
  | .status => 1 | .capacity => 2 | .claim => 3 | .take => 4 | .held => 5 | .release => 6

/-- The kind of a notice in a report: its place in the list of R20, counting from 0 (R175). -/
def noticePlace : NoticeKind → Byte
  | .status => 0 | .capacity => 1 | .claim => 2 | .take => 3 | .held => 4 | .release => 5

def priorityCode : Priority → Byte
  | .scheduled => 0 | .triggered => 1

def conditionCode : BusCondition → Byte
  | .listening => 0 | .joined => 1 | .isolated => 2

def presenceCode : Presence → Byte
  | .absent => 0 | .joining => 1 | .present => 2 | .stale => 3

def capacityCode : CapacityState → Byte
  | .current => 0 | .stale => 1 | .none => 2

/-- The class of a map entry in response data (R94, R96, R97). R175 codes by the place in the defining list, where R94 names
HIGH first, and its table of requests codes the class that SET TAG carries 0 NORMAL, 1 HIGH; that a response shows a class in
the code in which SET TAG gives it is the model's choice (DESIGN CHOICE, assumption 7). -/
def classCode : FrameClass → Byte
  | .normal => 0 | .high => 1

def turnCode : Turn → Byte
  | .idle => 0 | .held => 1 | .paused => 2

def ownCode : OwnState → Byte
  | .none => 0 | .queued => 1 | .turn => 2 | .taking => 3 | .holding => 4 | .releasing => 5

def stimulusCode : Stimulus → Byte
  | .none => 0 | .dcTest => 1 | .step => 2 | .discharge => 3

def wiresCode : Wires → Byte
  | .tipRing => 0 | .tipGround => 1 | .ringGround => 2

def quantityCode : Quantity → Byte
  | .foreignDc => 0 | .foreignAc => 1 | .resistance => 2 | .capacitance => 3 | .length => 4

def originCode : Origin → Byte
  | .operator => 0 | .triggered => 1

def statusCode : RunStatus → Byte
  | .new => 0 | .suspended => 1 | .faultedHazard => 2 | .faultedBus => 3

def causeCode : Cause → Byte
  | .errored => 0 | .lossOfSignal => 1

def outcomeCode : RunOutcome → Byte
  | .passed => 0 | .failed => 1 | .aborted => 2 | .cancelled => 3 | .timeout => 4 | .hazard => 5
  | .recovered => 6 | .malformed => 7 | .busLost => 8

/-- The phases in the order of R147, after WAITING_BUS (R146) and before ENDING (R148). No one list of the rules holds
them all: WAITING_BUS 0, 1 to 4 for R147, 5 left to NEXT, which is instant, and ENDING 6 (DESIGN CHOICE, assumption 7). -/
def phaseCode : Phase → Byte
  | .waitingBus => 0 | .connecting => 1 | .settling => 2 | .sampling => 3 | .discharging => 4 | .ending => 6

def verdictCode : Verdict → Byte
  | .pass => 0 | .fail => 1

def alarmCode : Alarm → Byte
  | .showtime => 0 | .signalLoss => 1 | .dyingGasp => 2 | .remoteDefect => 3

/-- The two causes of an OCCUPIED report, which no one rule lists, in the order of their rules (R131, R134; DESIGN
CHOICE, assumption 7). -/
def occupiedCode : OccupiedCause → Byte
  | .busyAtConfirm => 0 | .lostWhileHolding => 1

def startCode : StartKind → Byte
  | .powerOn => 0 | .restart => 1

def defaultCode : DefaultCause → Byte
  | .badFormat => 0 | .badSum => 1

/-- The five flags of a result, in the order of their table (10.4). That the set is sent as five flags, 0 for one that it
holds, is the model's choice (DESIGN CHOICE, assumption 8). -/
def resultFlagBytes (f : ResultFlags) : List Byte :=
  [flagByte f.open_, flagByte f.noStep, flagByte f.overRange, flagByte f.unstable, flagByte f.hazard]

/-- A result without flags. -/
def noFlags : ResultFlags := ⟨false, false, false, false, false⟩

/-- A line is in service in UP and DEGRADED (R7). -/
def inService : Service → Bool
  | .up | .degraded => true
  | _ => false

end Sys2Proof.Machine
end

