-- ==== Sys2Proof/Machine/Settings.lean ====
section
/-! DEFINITION. The settings: the built-in image (R169), the reading of a configuration image (R177), and the
clamping of its values with the count of those changed (R170). -/

namespace Sys2Proof.Machine

/-- The built-in profile of a line (R3). -/
def builtInProfile : Profile :=
  { weight := 4, peak := 100000, burst := 16384, degraded := 50, upLimit := 64, downLimit := 64 }

/-- The station-wide settings of the built-in image (R170, R47, R121, R157, R159). -/
def builtInSettings : Settings :=
  { mimicCheck := true, strict := false, autoRealign := true, mgmtTag := 65535, periodUnits := 10, weight := 1,
    cabinet := 8, headroom := 10, floor := 8192, ceiling := 1000000, sojourn := 250, debounce := 2,
    sesThreshold := 18, windowThreshold := 5, triggerDelay := 30, triggerSlot := 0, holdoff := 15,
    dcHazard := 60000, acHazard := 50000, capPerMetre := 50 }

/-- What an image gives: the settings, the equipped bits and profiles, the line map with its valid count as read,
and the number of values that clamping changed. -/
structure Image where
  settings : Settings
  equipped : Table Bool 12
  profiles : Table Profile 12
  map      : List (Nat × Nat × FrameClass)
  clamped  : Nat
  deriving DecidableEq, Repr

/-- The built-in image: every line equipped, the line map empty, nothing clamped (R169, R170). -/
def builtInImage : Image :=
  { settings := builtInSettings, equipped := filled 12 true, profiles := filled 12 builtInProfile, map := [],
    clamped := 0 }

/-- The profile of line `n` in an image, as read (R177). -/
def rawProfile (bytes : List Byte) (n : Nat) : Profile :=
  let at_ := 36 + 10 * n
  let limits := fieldAt bytes (at_ + 7) 3
  { weight := fieldAt bytes (at_ + 5) 1, peak := fieldAt bytes at_ 3, burst := fieldAt bytes (at_ + 3) 2,
    degraded := fieldAt bytes (at_ + 6) 1, upLimit := limits / 4096, downLimit := limits % 4096 }

/-- A profile clamped to the ranges of R3. -/
def clampProfile (p : Profile) : Profile :=
  { weight := clamp 1 8 p.weight, peak := clamp 64 1000000 p.peak, burst := clamp 2048 65535 p.burst,
    degraded := clamp 10 100 p.degraded, upLimit := clamp 16 1024 p.upLimit, downLimit := clamp 16 1024 p.downLimit }

/-- The de-bounce count that a value is taken as (R121). -/
def clampDebounce (n : Nat) : Nat := if 4 ≤ n then 4 else 2

/-- The capacity ceiling: clamped, then raised to the floor if it lies below it (R47, R170). -/
def clampCeiling (floor ceiling : Nat) : Nat := max floor (clamp 1024 4000000 ceiling)

/-- The number of pairs whose two values differ. -/
def changes (pairs : List (Nat × Nat)) : Nat := pairs.countP fun p => p.1 ≠ p.2

/-- The pairs of values of a profile, as read and as clamped. -/
def profilePairs (raw : Profile) : List (Nat × Nat) :=
  let c := clampProfile raw
  [(raw.weight, c.weight), (raw.peak, c.peak), (raw.burst, c.burst), (raw.degraded, c.degraded),
    (raw.upLimit, c.upLimit), (raw.downLimit, c.downLimit)]

/-- The settings of an image, clamped to their ranges (R170, R177). -/
def settingsOf (b : List Byte) : Settings :=
  let floor := clamp 1024 4000000 (fieldAt b 8 4)
  let options := byteAt b 1
  { mimicCheck := options.getLsbD 0, strict := options.getLsbD 1, autoRealign := options.getLsbD 2,
    mgmtTag := clamp 1 65535 (fieldAt b 2 2), periodUnits := clamp 5 100 (fieldAt b 4 1),
    weight := clamp 1 15 (fieldAt b 5 1), cabinet := clamp 1 8 (fieldAt b 6 1),
    headroom := clamp 0 25 (fieldAt b 7 1), floor := floor, ceiling := clampCeiling floor (fieldAt b 12 4),
    sojourn := clamp 10 2000 (fieldAt b 16 2), debounce := clampDebounce (fieldAt b 18 1),
    sesThreshold := clamp 1 255 (fieldAt b 19 1), windowThreshold := clamp 1 15 (fieldAt b 20 1),
    triggerDelay := clamp 0 255 (fieldAt b 21 1), triggerSlot := Fin.ofNat 128 (clamp 0 127 (fieldAt b 22 1)),
    holdoff := clamp 1 255 (fieldAt b 23 1), dcHazard := clamp 1000 327670 (fieldAt b 24 4),
    acHazard := clamp 1000 327670 (fieldAt b 28 4), capPerMetre := clamp 30 70 (fieldAt b 32 1) }

/-- The pairs of station-wide values of an image, as read and as clamped (R170). -/
def settingPairs (b : List Byte) : List (Nat × Nat) :=
  let s := settingsOf b
  [(fieldAt b 2 2, s.mgmtTag), (fieldAt b 4 1, s.periodUnits), (fieldAt b 5 1, s.weight),
    (fieldAt b 6 1, s.cabinet), (fieldAt b 7 1, s.headroom), (fieldAt b 8 4, s.floor), (fieldAt b 12 4, s.ceiling),
    (fieldAt b 16 2, s.sojourn), (fieldAt b 18 1, s.debounce), (fieldAt b 19 1, s.sesThreshold),
    (fieldAt b 20 1, s.windowThreshold), (fieldAt b 21 1, s.triggerDelay), (fieldAt b 22 1, s.triggerSlot.val),
    (fieldAt b 23 1, s.holdoff), (fieldAt b 24 4, s.dcHazard), (fieldAt b 28 4, s.acHazard),
    (fieldAt b 32 1, s.capPerMetre), (fieldAt b 35 1, clamp 0 32 (fieldAt b 35 1))]

/-- The entries of the line map below the valid count, clamped to 32, each with its tag, line and class as read
(R95, R177). -/
def rawMap (b : List Byte) : List (Nat × Nat × FrameClass) :=
  (List.range (clamp 0 32 (fieldAt b 35 1))).map fun k =>
    let third := byteAt b (158 + 3 * k)
    (fieldAt b (156 + 3 * k) 2, (third.extractLsb' 0 4).toNat, if third.getLsbD 7 then .high else .normal)

/-- A valid image, read and clamped (R170, R177). -/
def readImage (b : List Byte) : Image :=
  { settings := settingsOf b,
    equipped := tabulate 12 fun l => (BitVec.ofNat 16 (fieldAt b 33 2)).getLsbD l.val,
    profiles := tabulate 12 fun l => clampProfile (rawProfile b l.val),
    map := rawMap b,
    clamped := min 255 (changes (settingPairs b ++
      (List.range 12).flatMap fun n => profilePairs (rawProfile b n))) }

/-- Why an image is not valid, or `none` for a valid one (R169). -/
def imageFault (b : List Byte) : Option DefaultCause :=
  if byteAt b 0 ≠ 1 then some .badFormat
  else if (b.foldl (fun n x => n + x.toNat) 0) % 256 ≠ 0x5A then some .badSum
  else none

/-- The image taken: the one read if it is valid, else the built-in one (R169). -/
def takeImage (b : List Byte) : Image :=
  match imageFault b with
  | some _ => builtInImage
  | none => readImage b

/-- T_n in ms (R1, R170). -/
def period (s : Settings) : Nat := 10 * s.periodUnits

end Sys2Proof.Machine
end

