-- ==== Sys2Proof/Machine/StartValues.lean ====
section
/-! DEFINITION. The value of each block's state after a start (R17, R40, R61, R76, R93, R105, R122, R136, R153,
R162, R171), as each holds it until the configuration read ends. -/

namespace Sys2Proof.Machine

/-- The service state derived from the inputs of a record, by the first row of R7 that applies. -/
def deriveService (r : LineRec) : Service :=
  if !r.equipped then .vacant
  else if r.test = .connected then .testing
  else if r.barred then .barred
  else match r.sync with
    | .outOfSync => .down
    | .errored => .degraded
    | .inSync => .up

/-- A line record after a start (R17): the flags as given, everything else at its starting value. -/
def startLine (equipped : Bool) (profile : Profile) (barred hazard : Bool) : LineRec :=
  let r : LineRec :=
    { equipped := equipped, profile := profile, barred := barred, hazard := hazard, sync := .outOfSync,
      test := .none, service := .down, demand := 0, offered := 0, attainable := none, es := 0, ses := 0,
      admissionDrop := 0, ageDiscard := 0, flush := 0, unmapped := 0, continueSlot := none }
  { r with service := deriveService r }

/-- The notice interface after a start (R40), while nothing of the bus has been read yet. The bus condition stands at
LISTENING until the end of the configuration read delivers N, whatever it is, and `openNotices` takes it from N there:
that it stands so also at a RESTART of a station whose old settings, kept until then, have N = 1, where R39 and R40 say
JOINED, is the model's choice (DESIGN CHOICE, assumption 22). -/
def startNotices : Notices :=
  { queue := [], attempt := none, lastSender := 8, framing := false, permitted := false, receiving := false,
    gapPassed := false, quiet := 0, quietTaken := false, lastSequence := 255, statusDone := 0, badNotices := 0,
    condition := .listening, isolationAt := none, duplicateUntil := none }

/-- A peer entry after a start (R61). -/
def startPeer : Peer :=
  { presence := .absent, lastSequence := none, missed := 0, demand := 0, weight := 1, holding := false,
    allowance := 0, lastStatus := none, joinedAt := none }

/-- The own entry after a start (R61). -/
def startOwnPeer (weight : Nat) : Peer := { startPeer with presence := .present, weight := weight }

/-- The peer table and share unit after a start (R61). -/
def startShare (own : StationNo) (weight : Nat) : Share :=
  { peers := put (filled 8 startPeer) own (startOwnPeer weight), capacity := ⟨.none, none, none⟩, share := 0,
    usedC := 0, effective := 0, allowance := 0, rise := none, periodAt := none }

/-- All cells in ascending order. -/
def allCells : List CellNo := (List.range Config.cellCount).map (Fin.ofNat 2048)

/-- The frame store after a start (R76). R76 and R171 give the bytes held in the cells no value; that a start, RESTART too,
empties the memory, so that bytes written before it read 0, is the model's choice (DESIGN CHOICE, assumption 2). -/
def startStore : Store :=
  { free := allCells, refs := filled 2048 0, memory := [], up := filled 12 [], um := [], down := filled 12 [],
    lineRx := filled 12 .idle, uplinkRx := .idle, lowMark := Config.cellCount, floodDrop := 0 }

/-- A stopped counter with no pending rate (R93). -/
def stoppedCounter : Counter :=
  { running := false, clock := .fast, reload := 0, count := 0, pending := none, rate := 0 }

/-- The bucket levels of the round after a start: each line's at its burst depth, M's at 8,192 (R93). -/
def startLevels (burst : Line → Nat) : Table Int 13 :=
  tabulate 13 fun e => if h : e.val < 12 then (burst ⟨e.val, h⟩ : Int) else Config.managementDepth

/-- The upstream scheduler after a start (R93). -/
def startScheduler (burst : Line → Nat) : Scheduler :=
  { counters := filled 13 stoppedCounter, levels := startLevels burst, deficits := filled 13 0,
    stationCounter := stoppedCounter, stationLevel := 4096, stationDepth := 4096, pointer := 0, turn := .idle,
    inFlight := none, lastEnd := none }

/-- The downstream distributor after a start, with the map it keeps (R105). -/
def startDistributor (map : Table (Option MapEntry) 32) : Distributor :=
  { map := map, ready := filled 12 false, lastReady := filled 12 false, sending := filled 12 none, lastEnd := filled 12 none,
    unmapped := 0, malformed := 0 }

/-- A flag as de-bounced at a start and at resumption: value 0, run empty (R118, R122). -/
def freshFlag : Debounced := ⟨false, false, 0⟩

/-- The supervision of a line after a start (R122). -/
def startSupervision : Supervision :=
  { aligned := false, suspended := false, bitIndex := 0, candidates := [], mimicRecord := false, searchFrom := 0,
    searchTime := 0, offset := 0, positionEnd := 0, cutEnd := none, lastFour := [true, true, true, true], lastOffset := none,
    mimic := false, markerErrors := 0, checkFailures := 0, slips := 0, lastGood := none, showtime := freshFlag,
    signalLoss := freshFlag, dyingGasp := freshFlag, remoteDefect := freshFlag, second := none,
    window := ⟨0, 0⟩, timerFrom := none }

/-- The claim unit after a start (R136); only the own station is present (R123). -/
def startClaims (own : StationNo) : Claims :=
  { holder := none, expiry := none, queue := [], turnFrom := none, present := put (filled 8 false) own true,
    own := .none, inForce := none, waiting := false, recorded := none, reclaim := false, ownLimit := none,
    limitReached := false, confirmAt := none, relay := none, stimulus := .none, occDriven := false,
    occSensed := false, releaseAt := none, connectWaits := none }

/-- The test sequencer after a start, with the step memory it keeps (R153). -/
def startSequencer (steps : Table (Option Step) 128) : Sequencer :=
  { steps := steps, queue := [], active := none, closing := none, faults := filled 12 none, counter := 0,
    latch := false, holdoffs := filled 12 none }

/-- Accumulators at 0, with no first or last value (R155). -/
def emptyAcc : Accumulators := ⟨0, 0, 0, 0, none, none⟩

/-- The measurement unit after a start, with the tables it keeps (R162). -/
def startMeasurement (results : Table (Table (Option Result) 5) 12) (lastRuns : Table (Option LastRun) 12) :
    Measurement :=
  { acc := emptyAcc, wires := none, quantity := none, samples := 0, made := 0, previous := none, verdict := none,
    results := results, lastRuns := lastRuns, faults := 0 }

/-- The management agent after a start: report queue empty, flag clear, no restart wait (R171). -/
def startManagement : Management := ⟨[], false, .none⟩

/-- The loader before the first configuration read: the built-in settings, and station number 0. -/
def startLoader : Loader := ⟨builtInSettings, 0, none, 0⟩

end Sys2Proof.Machine
end

