-- ==== Sys2Proof/Machine/State.lean ====
section
/-! DEFINITION. The state of the part: everything its blocks hold, its clocks, and the queue of commands that wait.
Faults and refusals: no command of this block ends in either. -/

namespace Sys2Proof.Machine

/-- What could stop the machine. The rules give every command an effect in every state, so no command faults;
the constructor stands for a state outside the rules and nothing raises it (safe). -/
inductive Fault where
  /-- Raised by nothing. -/
  | outsideTheRules
  deriving DecidableEq, Repr

/-- Why a command has no meaning. -/
inductive Refusal where
  /-- Raised by an arm of `exec` whose command has no meaning yet; no arm does (safe). -/
  | notModelled (mnemonic : String)
  deriving DecidableEq, Repr

/-- The state of the part. -/
structure State where
  /-- The commands that wait, the first to be taken at the head. -/
  pending  : List Instr
  /-- Whether the part is held, reading its configuration, or running (R171). -/
  power    : Power
  /-- The kind of the last start (R165). -/
  start    : StartKind
  /-- Station time in ms since the last start (R1), and the microseconds past it. -/
  time     : Nat
  micros   : Nat
  /-- The position of the 1 MHz clock within the division by 64 that gives 15.625 kHz (R77). -/
  prescale : Nat
  loader   : Loader
  lines    : Table LineRec 12
  notices  : Notices
  share    : Share
  store    : Store
  sched    : Scheduler
  dist     : Distributor
  sup      : Table Supervision 12
  claims   : Claims
  seq      : Sequencer
  meas     : Measurement
  mgmt     : Management
  deriving DecidableEq, Repr

/-- The settings in force. -/
def State.settings (s : State) : Settings := s.loader.settings

/-- The station number (R169). -/
def State.station (s : State) : StationNo := s.loader.station

/-- The part right after reset: a POWER-ON start has begun, every block holds its POWER-ON values, and the
configuration read is under way (R171, steps 1 and 2). -/
def State.reset : State :=
  { pending := [], power := .reading, start := .powerOn, time := 0, micros := 0, prescale := 0,
    loader := startLoader, lines := filled 12 (startLine true builtInProfile false false), notices := startNotices,
    share := startShare 0 1, store := startStore, sched := startScheduler fun _ => builtInProfile.burst,
    dist := startDistributor (filled 32 none), sup := filled 12 startSupervision, claims := startClaims 0,
    seq := startSequencer (filled 128 none),
    meas := startMeasurement (filled 12 (filled 5 none)) (filled 12 none), mgmt := startManagement }

end Sys2Proof.Machine
end

