-- ==== Sys2Proof/Machine/Store.lean ====
section
/-! DEFINITION. The frame store's own operations: cells, reference counts, queues and receptions (chapter 4). -/

namespace Sys2Proof.Machine

/-- The cells a frame of some bytes needs (R62). -/
def chainCells (bytes : Nat) : Nat := ceilDiv bytes Config.cellBytes

/-- The store with `cells` taken off its free list, each with one reference, and the low mark lowered (R62,
R63). -/
def claimCells (st : Store) (cells rest : List CellNo) : Store :=
  { st with free := rest, refs := cells.foldl (fun t c => put t c 1) st.refs, lowMark := min st.lowMark rest.length }

/-- One more holder of a frame (R63). -/
def addHolder (cells : List CellNo) (st : Store) : Store :=
  { st with refs := cells.foldl (fun t c => alter t c (· + 1)) st.refs }

/-- One holder fewer of a cell; a cell whose count falls to 0 returns to the tail of the free list (R62, R63). -/
def dropCell (st : Store) (c : CellNo) : Store :=
  let left := look st.refs c - 1
  { st with refs := put st.refs c left, free := if left = 0 then st.free ++ [c] else st.free }

/-- One holder fewer of a frame: the cells whose count falls to 0 return in chain order (R62, R63). -/
def dropHolder (cells : List CellNo) (st : Store) : Store := cells.foldl dropCell st

/-- One holder fewer of each frame of a list of entries. -/
def dropEntries (entries : List Entry) (st : Store) : Store := entries.foldl (fun t e => dropHolder e.cells t) st

/-- Whether an entry is of class HIGH. -/
def isHigh (e : Entry) : Bool := e.cls == .high

/-- A downstream queue with an entry placed: a HIGH entry directly behind the last HIGH entry, a NORMAL entry at
the tail (R66). -/
def placeDown (q : List Entry) (e : Entry) : List Entry :=
  if isHigh e then q.takeWhile isHigh ++ e :: q.dropWhile isHigh else q ++ [e]

/-- The chains of the frames standing in a queue, counted in cells. -/
def queueCells (q : List Entry) : Nat := (q.map fun e => e.cells.length).sum

/-- The chain that a line port's reception holds (R63). -/
def lineRxCells : LineRx → List CellNo
  | .receiving cells _ => cells
  | _ => []

/-- The chain that the uplink port's reception holds (R63). -/
def uplinkRxCells : UplinkRx → List CellNo
  | .data _ _ _ cells _ => cells
  | .flood _ _ cells _ => cells
  | _ => []

/-- The cell count of a line's upstream queue: the frames in it and the one being received for it (R64). -/
def upCells (st : Store) (l : Line) : Nat := queueCells (look st.up l) + (lineRxCells (look st.lineRx l)).length

/-- The cell count of a line's downstream queue: the frames in it and the one being received for it (R64, R70). -/
def downCells (st : Store) (l : Line) : Nat :=
  queueCells (look st.down l) + match st.uplinkRx with
    | .data k _ _ cells _ => if k = l then cells.length else 0
    | .flood targets _ cells _ => if l ∈ targets then cells.length else 0
    | _ => 0

/-- Heads older than the maximum sojourn, and for a line without a map entry every fresh head too, leave a queue
at a look (R73, R83): the entries kept, the entries discarded, and how many of them for age and as unmapped. -/
structure Looked where
  kept     : List Entry
  gone     : List Entry
  old      : Nat
  unmapped : Nat
  deriving DecidableEq, Repr

/-- A look at a queue at a station time (R73, R83). -/
def lookAt (time sojourn : Nat) (mapped : Bool) : List Entry → Looked
  | [] => ⟨[], [], 0, 0⟩
  | e :: es =>
    if sojourn < time - e.stamp then
      let r := lookAt time sojourn mapped es
      { r with gone := e :: r.gone, old := r.old + 1 }
    else if !mapped then
      let r := lookAt time sojourn mapped es
      { r with gone := e :: r.gone, unmapped := r.unmapped + 1 }
    else ⟨e :: es, [], 0, 0⟩

end Sys2Proof.Machine
end

