-- ==== Sys2Proof/Machine/Ops.lean ====
section
/-! DEFINITION. The shared operations over the state: changing one block or one line's part of a block, queueing
and offering reports, building responses (chapter 11), and giving up a frame's reference. -/

namespace Sys2Proof.Machine

/-! ### Changing one part of the state -/

/-- The record of a line. -/
def lineOf (s : State) (l : Line) : LineRec := look s.lines l

/-- The supervision of a line. -/
def supOf (s : State) (l : Line) : Supervision := look s.sup l

/-- A peer entry of the table (R41). -/
def peerOf (s : State) (k : StationNo) : Peer := look s.share.peers k

def setLine (l : Line) (f : LineRec → LineRec) (s : State) : State := { s with lines := alter s.lines l f }
def setSup (l : Line) (f : Supervision → Supervision) (s : State) : State := { s with sup := alter s.sup l f }
def setNotices (f : Notices → Notices) (s : State) : State := { s with notices := f s.notices }
def setShare (f : Share → Share) (s : State) : State := { s with share := f s.share }
def setStore (f : Store → Store) (s : State) : State := { s with store := f s.store }
def setSched (f : Scheduler → Scheduler) (s : State) : State := { s with sched := f s.sched }
def setDist (f : Distributor → Distributor) (s : State) : State := { s with dist := f s.dist }
def setClaims (f : Claims → Claims) (s : State) : State := { s with claims := f s.claims }
def setSeq (f : Sequencer → Sequencer) (s : State) : State := { s with seq := f s.seq }
def setMeas (f : Measurement → Measurement) (s : State) : State := { s with meas := f s.meas }
def setMgmt (f : Management → Management) (s : State) : State := { s with mgmt := f s.mgmt }

/-- A line table change for every line. -/
def setAllLines (f : Line → LineRec → LineRec) (s : State) : State :=
  { s with lines := tabulate 12 fun l => f l (look s.lines l) }

/-! ### Frames of the management agent (R71) -/

/-- Whether a frame of some bytes fits UM (R71). -/
def fitsUm (st : Store) (bytes : List Byte) : Bool :=
  decide (st.um.length < Config.umFrames) && decide (chainCells bytes.length ≤ st.free.length)

/-- The store with a frame built and entered at the tail of UM: its cells taken from the head of the free list,
its bytes written, its entry stamped (R71). -/
def enterUm (time : Nat) (bytes : List Byte) (endsWait : Bool) (st : Store) : Store :=
  let cells := st.free.take (chainCells bytes.length)
  let st' := claimCells st cells (st.free.drop (chainCells bytes.length))
  { st' with
    memory := writeFrame cells st'.memory 0 bytes
    um := st'.um ++ [⟨cells, bytes.length, time, .normal, endsWait⟩] }

/-! ### Reports (R167, R168, R175) -/

/-- The report codes of R175. -/
def reportCode : ReportBody → Byte
  | .lineState .. => 128 | .alarm .. => 129 | .alignmentChange .. => 130 | .peer .. => 131
  | .busCondition .. => 132 | .noticeDropped .. => 133 | .duplicateNumber .. => 134 | .occupied .. => 135
  | .runEnded .. => 136 | .result .. => 137 | .started .. => 138 | .configDefaulted .. => 139

/-- A claim in force: its priority and requested hold, or absent (R175). -/
def claimBytes : Option ClaimTerms → List Byte
  | some c => priorityCode c.priority :: four c.hold
  | none => absentOne ++ absentFour

/-- The contents of a results-table entry in the order of R162 (R175). -/
def resultBytes (r : Result) : List Byte :=
  fourSigned r.value ++ resultFlagBytes r.flags ++ [verdictCode r.verdict, wiresCode r.wires, byteOf r.slot.val] ++
    four r.count ++ four r.time ++ [byteOf r.runId]

/-- The fields of a report, in the order of its queuing rule, less the station time, which the report frame
carries in bytes 2 to 5 (R175); a defaulted image of STARTED is coded 0, another 1 (assumption 7). -/
def reportFields : ReportBody → List Byte
  | .lineState l old new sync test barred hazard =>
    [byteOf l.val, serviceCode old, serviceCode new, syncCode sync, testCode test, flagByte barred, flagByte hazard]
  | .alarm l flag value => [byteOf l.val, alarmCode flag, bitByte value]
  | .alignmentChange l old new mimic => byteOf l.val :: four old ++ four new ++ [flagByte mimic]
  | .peer k old new => four k.val ++ [presenceCode old, presenceCode new]
  | .busCondition old new => [conditionCode old, conditionCode new]
  | .noticeDropped kind losses => noticePlace kind :: four losses
  | .duplicateNumber kind sequence => noticePlace kind :: four sequence
  | .occupied .busyAtConfirm claim => occupiedCode .busyAtConfirm :: claimBytes claim
  | .occupied .lostWhileHolding _ => [occupiedCode .lostWhileHolding]
  | .runEnded r outcome slot =>
    [byteOf r.id, byteOf r.line.val, originCode r.origin] ++ (r.cause.map fun c => [causeCode c]).getD absentOne ++
      [outcomeCode outcome, statusCode r.status] ++ four r.steps ++ four r.fails ++ [byteOf slot.val]
  | .result l q r => [byteOf l.val, quantityCode q] ++ resultBytes r
  | .started kind k defaulted clamped => startCode kind :: four k.val ++ [flagByte defaulted] ++ four clamped
  | .configDefaulted cause => [defaultCode cause]

/-- A report as a frame, carrying the reports-missed flag as it stands (R168, R175). -/
def reportFrame (missed : Bool) (r : Report) : List Byte :=
  padded ([reportCode r.body, flagByte missed] ++ four (r.time % 4294967296) ++ reportFields r.body)

/-- The head report entered into UM: it leaves the report queue, and a set flag that it carries is cleared (R167,
R168). -/
def sendReport (r : Report) (rest : List Report) (s : State) : State :=
  setMgmt (fun m => { m with reports := rest, missed := false })
    (setStore (enterUm s.time (reportFrame s.mgmt.missed r) false) s)

/-- Up to `n` offers: each head report enters UM while it fits (R167). -/
def offerUpTo : Nat → State → State
  | 0, s => s
  | n + 1, s =>
    match s.mgmt.reports with
    | [] => s
    | r :: rest =>
      if fitsUm s.store (reportFrame s.mgmt.missed r) then offerUpTo n (sendReport r rest s) else s

/-- An offer: head reports enter UM until the queue is empty or one does not fit (R167). -/
def offer (s : State) : State := offerUpTo s.mgmt.reports.length s

/-- A report queued with the management agent: lost at a full queue, which sets the reports-missed flag; offered
at once if the queue was empty (R167, R168). -/
def queueReport (body : ReportBody) (s : State) : State :=
  if Config.reportFrames ≤ s.mgmt.reports.length then setMgmt (fun m => { m with missed := true }) s
  else
    let s' := setMgmt (fun m => { m with reports := m.reports ++ [⟨s.time, body⟩] }) s
    if s.mgmt.reports.isEmpty then offer s' else s'

/-! ### Giving up references -/

/-- The frames of some entries each lose a holder; the report queue is offered the room (R63, R167). -/
def releaseEntries (entries : List Entry) (s : State) : State := offer (setStore (dropEntries entries) s)

/-- A frame loses a holder; the report queue is offered the room (R63, R167). -/
def releaseChain (cells : List CellNo) (s : State) : State := offer (setStore (dropHolder cells) s)

/-! ### Responses (R164, R175) -/

/-- The outcome of a request (R163), in the order of its codes (R175). -/
inductive Answer where
  | done
  | refusedRange
  | refusedState
  | unknown
  deriving DecidableEq, Repr

def answerCode : Answer → Byte
  | .done => 0 | .refusedRange => 1 | .refusedState => 2 | .unknown => 3

/-- A response frame: code, request number, outcome, data length and data, padded to 64 bytes (R164, R175). -/
def responseFrame (code num : Byte) (answer : Answer) (data : List Byte) : List Byte :=
  padded ([code, num, answerCode answer] ++ two data.length ++ data)

/-- A response built: it enters UM, or is lost and sets the reports-missed flag; then reports that wait are
offered (R164, R167). -/
def respond (code num : Byte) (answer : Answer) (data : List Byte) (endsWait : Bool) (s : State) : State :=
  let bytes := responseFrame code num answer data
  offer (if fitsUm s.store bytes then setStore (enterUm s.time bytes endsWait) s
    else setMgmt (fun m => { m with missed := true }) s)

end Sys2Proof.Machine
end

