-- ==== Sys2Proof/Machine/LineMap.lean ====
section
/-! DEFINITION. The line map: its checks at a start, and reading it (R94, R95). -/

namespace Sys2Proof.Machine

/-- The non-empty entries of the map that name a line, each with its index, in ascending order (R94). -/
def entriesOf (map : Table (Option MapEntry) 32) (l : Line) : List (MapIndex × MapEntry) :=
  (indices 32).filterMap fun i =>
    match look map i with
    | some e => if e.line = l then some (i, e) else none
    | none => none

/-- A line's primary tag: the tag of its lowest-index entry (R94). -/
def primaryTag (map : Table (Option MapEntry) 32) (l : Line) : Option Nat :=
  ((entriesOf map l).head?).map fun p => p.2.tag

/-- The index and entry that hold a tag (R94). -/
def holderOfTag (map : Table (Option MapEntry) 32) (tag : Nat) : Option (MapIndex × MapEntry) :=
  (indices 32).findSome? fun i =>
    match look map i with
    | some e => if e.tag = tag then some (i, e) else none
    | none => none

/-- One entry of the image examined: kept at its index unless its tag is 0, the management tag or the tag of an
entry kept at a lower index, or its line is greater than 11 (R95). -/
def admitEntry (mgmtTag : Nat) (map : Table (Option MapEntry) 32) (i : Nat) (raw : Nat × Nat × FrameClass) :
    Table (Option MapEntry) 32 :=
  if h : i < 32 ∧ raw.2.1 < 12 then
    if raw.1 = 0 ∨ raw.1 = mgmtTag ∨ (holderOfTag map raw.1).isSome then map
    else put map ⟨i, h.1⟩ (some ⟨raw.1, ⟨raw.2.1, h.2⟩, raw.2.2⟩)
  else map

/-- The entries of the image from index `i` on, examined in ascending order (R95). -/
def admitEntries (mgmtTag : Nat) : Table (Option MapEntry) 32 → Nat → List (Nat × Nat × FrameClass) →
    Table (Option MapEntry) 32
  | map, _, [] => map
  | map, i, raw :: rest => admitEntries mgmtTag (admitEntry mgmtTag map i raw) (i + 1) rest

/-- The map after the check of a start: loaded from the image at POWER-ON; kept at RESTART, less the entries that
hold the newly loaded management tag (R95). -/
def startMap (kind : StartKind) (mgmtTag : Nat) (kept : Table (Option MapEntry) 32)
    (image : List (Nat × Nat × FrameClass)) : Table (Option MapEntry) 32 :=
  match kind with
  | .powerOn => admitEntries mgmtTag (filled 32 none) 0 image
  | .restart => tabulate 32 fun i =>
      match look kept i with
      | some e => if e.tag = mgmtTag then none else some e
      | none => none

end Sys2Proof.Machine
end

