-- ==== Sys2Proof/Machine/Pacing.lean ====
section
/-! DEFINITION. Pacing counters and token buckets (5.1, 5.2). -/

namespace Sys2Proof.Machine

/-- The clock and reload value that a rate of 1 or more gives (R78). -/
def paceOf (rate : Nat) : Clock × Nat :=
  if 16 ≤ rate then (.fast, ceilDiv 1024000 rate - 1) else (.slow, ceilDiv 16000 rate - 1)

/-- A counter loaded from a rate of 1 or more and RUNNING (R79). -/
def loadCounter (rate : Nat) : Counter :=
  { running := true, clock := (paceOf rate).1, reload := (paceOf rate).2, count := (paceOf rate).2, pending := none,
    rate := rate }

/-- A counter given a rate (R79): a RUNNING one holds it pending, a STOPPED one loads and starts at once. That a STOPPED
counter given rate 0, for which R79 says no change, holds 0 as the rate last given (R77) is the model's choice
(DESIGN CHOICE, assumption 25). -/
def giveRate (rate : Nat) (c : Counter) : Counter :=
  if c.running then { c with pending := some rate, rate := rate }
  else if rate = 0 then { c with rate := 0 }
  else loadCounter rate

/-- A counter given the stop command (R79). The rate that it holds stays the one last given, a discarded pending rate
included, beside the N that it last counted from; R77 calls it both (DESIGN CHOICE, assumption 25). -/
def stopCounter (c : Counter) : Counter := { c with running := false, count := 0, pending := none }

/-- What an underflow makes of a RUNNING counter (R79). A pending rate 0 stops it; R78 gives that rate no clock and no reload
value, and R79 and R92 do not say what the stopped counter then holds and shows: that it keeps its old N and clock beside
rate 0, with its count at 0, is the model's choice (DESIGN CHOICE, assumption 25). -/
def underflowCounter (c : Counter) : Counter :=
  match c.pending with
  | none => { c with count := c.reload }
  | some 0 => { c with running := false, count := 0, pending := none, rate := 0 }
  | some (rate + 1) => loadCounter (rate + 1)

/-- A bucket level raised by one quantum and cut off at the depth; a level at its depth is not raised (R81). -/
def refill (depth level : Int) : Int := max level (min depth (level + Config.pacingQuantum))

/-- A bucket level lowered by a frame's length, not below the floor (R81). -/
def debit (length : Nat) (level : Int) : Int := max Config.bucketFloor (level - length)

/-- The depth of the station bucket for an allowance (R82). -/
def stationDepthOf (allowance : Nat) : Nat := min 65535 (max 4096 (allowance * 10 / 8))

/-- A change of A handed to the scheduler: the station counter is given the rate, and the bucket its new depth,
which cuts the level at once (R60, R80, R82). -/
def takeAllowance (allowance : Nat) (sc : Scheduler) : Scheduler :=
  { sc with
    stationCounter := giveRate allowance sc.stationCounter
    stationDepth := stationDepthOf allowance
    stationLevel := min sc.stationLevel (stationDepthOf allowance) }

/-- The line rate of a profile in a service state; 0 in a state that has none (R4). -/
def lineRate (p : Profile) : Service → Nat
  | .up => p.peak
  | .degraded => max 1 (p.peak * p.degraded / 100)
  | _ => 0

/-- A line's round entry. -/
def entryOf (l : Line) : RoundEntry := ⟨l.val, by omega⟩

/-- The line of a round entry; none for M. -/
def lineOfEntry (e : RoundEntry) : Option Line := if h : e.val < 12 then some ⟨e.val, h⟩ else none

/-- The depth of an entry's own bucket: the line's burst, or 8,192 for M (R81). -/
def entryDepth (s : State) (e : RoundEntry) : Int :=
  match lineOfEntry e with
  | some l => (lineOf s l).profile.burst
  | none => Config.managementDepth

end Sys2Proof.Machine
end

