-- ==== Sys2Proof/Machine/Scheduler.lean ====
section
/-! DEFINITION. Looks, turns and starts of the upstream scheduler (5.3 to 5.5). The searches of an idle scheduler
(R85, R89) are made by `settle` at the end of each step. -/

namespace Sys2Proof.Machine

/-- The queue that a round entry serves (R64). -/
def queueOf (s : State) (e : RoundEntry) : List Entry :=
  match lineOfEntry e with
  | some l => look s.store.up l
  | none => s.store.um

/-- The store with the queue of a round entry replaced. -/
def putQueue (e : RoundEntry) (q : List Entry) (st : Store) : Store :=
  match lineOfEntry e with
  | some l => { st with up := put st.up l q }
  | none => { st with um := q }

/-- An entry is ready when its queue holds a frame and its own bucket level is above 0 (R84). -/
def ready (s : State) (e : RoundEntry) : Bool :=
  !(queueOf s e).isEmpty && decide (0 < look s.sched.levels e)

/-- An entry's quantum: the line's weight × 512 bytes, or 512 bytes for M (R85). -/
def quantumOf (s : State) (e : RoundEntry) : Nat :=
  match lineOfEntry e with
  | some l => (lineOf s l).profile.weight * 512
  | none => 512

/-- What a look at an entry's queue finds: a line's heads are tested for age and mapping, those of UM for age
only (R83). -/
def lookedAt (s : State) (e : RoundEntry) : Looked :=
  lookAt s.time s.settings.sojourn
    (match lineOfEntry e with | some l => (primaryTag s.dist.map l).isSome | none => true) (queueOf s e)

/-- The counts of a look: the line's age-discard and unmapped tallies, or the reports-missed flag for an old UM
frame (R73, R83). -/
def countLook (e : RoundEntry) (r : Looked) (s : State) : State :=
  match lineOfEntry e with
  | some l => setLine l (fun x =>
      { x with ageDiscard := tallyBy x.ageDiscard r.old, unmapped := tallyBy x.unmapped r.unmapped }) s
  | none => if 0 < r.old then setMgmt (fun m => { m with missed := true }) s else s

/-- A look at the head of an entry's queue (R83). That the report queue is offered the room of the frames that a look
discards from UM once, after all of them have been counted, and within the look, before any test of the turn's end, is the
model's choice (DESIGN CHOICE, assumption 6). -/
def lookQueue (e : RoundEntry) (s : State) : State :=
  let r := lookedAt s e
  releaseEntries r.gone (countLook e r (setStore (putQueue e r.kept) s))

/-- The turn ends: the pointer moves to the next entry of the round; the deficit is set to 0 or kept (R87). -/
def endTurn (clear : Bool) (s : State) : State :=
  setSched (fun sc =>
    { sc with
      deficits := if clear then put sc.deficits sc.pointer 0 else sc.deficits
      pointer := sc.pointer + 1
      turn := .idle }) s

/-- The turn goes on as held or paused. -/
def holdTurn (t : Turn) (s : State) : State := setSched (fun sc => { sc with turn := t }) s

/-- The header tag of an entry's frames: the line's primary tag, or the management tag for M (R91). -/
def tagOf (s : State) (e : RoundEntry) : Nat :=
  match lineOfEntry e with
  | some l => (primaryTag s.dist.map l).getD 0
  | none => s.settings.mgmtTag

/-- The kind of an entry's frames: DATA for a line, MGMT for M (R91, 12.3). -/
def kindOf (e : RoundEntry) : Byte := if (lineOfEntry e).isSome then 1 else 3

/-- The header of an entry's frame of some bytes (R91). -/
def headerOf (s : State) (e : RoundEntry) (length : Nat) : List Byte := headerBytes (tagOf s e) (kindOf e) length

/-- The head frame of an entry handed to the uplink transmitter: the queue entry gives up its reference and the
transmitter takes one, and the length is debited from the entry's own bucket, the station bucket and the deficit
(R72, R86, R91). -/
def startFrame (e : RoundEntry) (h : Entry) (rest : List Entry) (s : State) : State :=
  setSched (fun sc =>
    { sc with
      levels := alter sc.levels e (debit h.length)
      stationLevel := debit h.length sc.stationLevel
      deficits := alter sc.deficits e (· - h.length)
      inFlight := some ⟨h.cells, h.length, headerOf s e h.length, h.endsWait⟩ })
    (setStore (putQueue e rest) s)

/-- The causes that end a turn at a start opportunity or at once after a start; `true` sets the deficit to 0
(R87). -/
def turnOver (s : State) (e : RoundEntry) : Option Bool :=
  match queueOf s e with
  | [] => some true
  | h :: _ =>
    if look s.sched.deficits e < h.length then some false
    else if look s.sched.levels e ≤ 0 then some false
    else none

/-- Whether a line that holds the turn is in service; M always is (R84). -/
def entryInService (s : State) (e : RoundEntry) : Bool :=
  match lineOfEntry e with
  | some l => inService (lineOf s l).service
  | none => true

/-- A start opportunity of the entry that holds the turn: a look, then a start, the end of the turn, a pause, or
a wait for the transmitter (R86 to R88). A frame of UM taken makes room that reports are offered (R167). The rules give
no order of offers and of the tests for the turn's end. That the room made by a look is offered before the test after the
look, so that M keeps its turn and deficit where a look that empties UM lets reports in, and the room made by a start after
the test behind it, is the model's choice (DESIGN CHOICE, assumption 6). -/
def startOpportunity (s : State) : State :=
  let e := s.sched.pointer
  let s1 := lookQueue e s
  match turnOver s1 e with
  | some clear => endTurn clear s1
  | none =>
    match queueOf s1 e with
    | [] => endTurn true s1
    | h :: rest =>
      if !entryInService s1 e then endTurn true s1
      else if s1.sched.inFlight.isSome then holdTurn .held s1
      else if s1.sched.stationLevel ≤ 0 then holdTurn .paused s1
      else
        let s2 := startFrame e h rest s1
        offer (match turnOver s2 e with
          | some clear => endTurn clear s2
          | none => holdTurn .held s2)

/-- The entries in round order from the pointer (R85). -/
def roundFrom (p : RoundEntry) : List RoundEntry := (List.range 13).map fun k => p + Fin.ofNat 13 k

/-- An entry takes a turn: the pointer names it and its quantum is added to its deficit, not above quantum +
2,048 (R85). -/
def takeTurn (e : RoundEntry) (s : State) : State :=
  setSched (fun sc =>
    { sc with
      pointer := e
      turn := .held
      deficits := alter sc.deficits e fun d => min (d + quantumOf s e) (quantumOf s e + Config.maxFrame) }) s

/-- Searches of an idle scheduler until a turn is held or paused or no entry is ready (R85, R89). Each turn of a
search adds a quantum of at least 512 bytes, so the bound on their number is not reached. -/
def searchUpTo : Nat → State → State
  | 0, s => s
  | n + 1, s =>
    if s.sched.turn = .idle then
      match (roundFrom s.sched.pointer).find? (ready s) with
      | none => s
      | some e => searchUpTo n (startOpportunity (takeTurn e s))
    else s

/-- The scheduler's searches at the end of a step, while the part runs (R89). -/
def settle (s : State) : State :=
  match s.power with
  | .running => searchUpTo 512 s
  | _ => s

/-- What an event does to a part that runs: its effect, then the scheduler's searches. A part that is held or reads
its configuration takes no input and no event of its blocks (R171). -/
def live (f : State → State) (s : State) : State :=
  match s.power with
  | .running => settle (f s)
  | _ => s

end Sys2Proof.Machine
end

