-- ==== Sys2Proof/Machine/LineTable.lean ====
section
/-! DEFINITION. The line table: the derivation of service state and the effects of its changes (R7 to R12), with
the parts that other blocks apply: leaving and entering service, suspension and resumption (R118), and the
loss-of-signal trigger timer, which follows the line's conditions (R119). -/

namespace Sys2Proof.Machine

/-! ### Suspension and resumption of supervision -/

/-- An aligner enters SEARCH: candidates and mimic record emptied, search time 0 (R107), and no position cut off. -/
def enterSearch (x : Supervision) : Supervision :=
  { x with
    aligned := false, candidates := [], mimicRecord := false, searchFrom := x.bitIndex, searchTime := 0
    lastGood := none, cutEnd := none }

/-- A line suspended (R118). -/
def suspendSup (x : Supervision) : Supervision :=
  { enterSearch x with suspended := true, second := none, window := ⟨0, 0⟩, timerFrom := none }

/-- A line resumed (R118). -/
def resumeSup (x : Supervision) : Supervision :=
  { enterSearch x with
    suspended := false, showtime := freshFlag, signalLoss := freshFlag, dyingGasp := freshFlag
    remoteDefect := freshFlag, second := none, window := ⟨0, 0⟩ }

/-- Whether the loss-of-signal trigger timer of a line runs (R119). -/
def timerRuns (s : State) (l : Line) : Bool :=
  decide (0 < s.settings.triggerDelay) && (lineOf s l).equipped && !(supOf s l).suspended &&
    decide ((lineOf s l).sync = .outOfSync) && (supOf s l).signalLoss.value && !(supOf s l).dyingGasp.value

/-- The loss-of-signal trigger timer started from 0 when the last of its conditions becomes true, and stopped when
any becomes false (R119). -/
def followTimer (l : Line) (s : State) : State :=
  setSup l (fun x =>
    { x with timerFrom := if timerRuns s l then some (x.timerFrom.getD s.time) else none }) s

/-! ### Leaving service (R9) -/

/-- Both queues of a line flushed, each frame counted in the flush tally (R9 step 1, R74). That the frames give up their
cells from head to tail, the upstream queue first, is the model's choice (assumption 24). -/
def flushLine (l : Line) (s : State) : State :=
  let gone := look s.store.up l ++ look s.store.down l
  releaseEntries gone
    (setLine l (fun x => { x with flush := tallyBy x.flush gone.length })
      (setStore (fun st => { st with up := put st.up l [], down := put st.down l [] }) s))

/-- One more frame counted in a line's admission-drop tally (R75). -/
def countDrop (l : Line) (s : State) : State :=
  setLine l (fun x => { x with admissionDrop := tally x.admissionDrop }) s

/-- One more frame counted in the station's flood-drop tally (R70). -/
def countFlood (s : State) : State := setStore (fun st => { st with floodDrop := tally st.floodDrop }) s

/-- An upstream frame of the line in reception is dropped, its cells returned, and counted (R9 step 2, R68). -/
def dropLineRx (l : Line) (s : State) : State :=
  match look s.store.lineRx l with
  | .receiving cells _ =>
    releaseChain cells (countDrop l (setStore (fun st => { st with lineRx := put st.lineRx l .discarding }) s))
  | _ => s

/-- A DATA frame in reception for the line is dropped and counted; a FLOOD frame in reception loses the line from
its target set, which is counted for the line, and is dropped whole when the set becomes empty (R14, R68, R70). -/
def dropUplinkRx (l : Line) (s : State) : State :=
  match s.store.uplinkRx with
  | .data k _ _ cells _ =>
    if k = l then releaseChain cells (countDrop l (setStore (fun st => { st with uplinkRx := .discarding }) s)) else s
  | .flood targets length cells count =>
    if l ∈ targets then
      let left := targets.filter (· ≠ l)
      if left.isEmpty then
        releaseChain cells (countFlood (countDrop l (setStore (fun st => { st with uplinkRx := .discarding }) s)))
      else countDrop l (setStore (fun st => { st with uplinkRx := .flood left length cells count }) s)
    else s
  | _ => s

/-- The frame a line-port transmitter is sending is abandoned with the abort mark and counted in the flush tally
(R9 step 3, R72, R104). -/
def abandonFrame (l : Line) (s : State) : State :=
  match look s.dist.sending l with
  | some e =>
    releaseChain e.cells
      (setLine l (fun x => { x with flush := tally x.flush })
        (setDist (fun d => { d with sending := put d.sending l none, lastEnd := put d.lastEnd l (some .abort) }) s))
  | none => s

/-- The line's deficit set to 0, its counter stopped and its bucket set to its burst depth; a turn that the line
holds ends (R9 steps 4 to 6, R87). -/
def stopLine (l : Line) (s : State) : State :=
  let e := entryOf l
  let s1 := setSched (fun sc =>
    { sc with
      deficits := put sc.deficits e 0
      counters := alter sc.counters e stopCounter
      levels := put sc.levels e ((lineOf s l).profile.burst : Int) }) s
  if s1.sched.turn ≠ .idle ∧ s1.sched.pointer = e then endTurn true s1 else s1

/-- A line leaves service (R9). That its frames give up their cells in the order of the steps of R9 (the two queues, the
line reception, the uplink reception, the frame on the line port) is the model's choice (assumption 24). -/
def leaveService (l : Line) (s : State) : State :=
  setLine l (fun x => { x with demand := 0 })
    (stopLine l (abandonFrame l (dropUplinkRx l (dropLineRx l (flushLine l s)))))

/-- The line's pacing counter given the line rate of a service state (R11). -/
def paceLine (l : Line) (new : Service) (s : State) : State :=
  setSched (fun sc =>
    { sc with counters := alter sc.counters (entryOf l) (giveRate (lineRate (lineOf s l).profile new)) }) s

/-! ### A change of service state (R7 to R12) -/

/-- The effects of a change that other blocks apply: leaving service, suspension, entering service or a change of
rate (R9 to R11). Resumption comes before the derivation, in `setTest`. -/
def serviceEffects (l : Line) (old new : Service) (s : State) : State :=
  let s1 := if inService old && !inService new then leaveService l s else s
  let s2 := if new = .testing then setSup l suspendSup s1 else s1
  if inService new then paceLine l new s2 else s2

/-- The LINE STATE report of a change (R12). -/
def lineStateReport (l : Line) (old : Service) (s : State) : State :=
  let r := lineOf s l
  queueReport (.lineState l old r.service r.sync r.test r.barred r.hazard) s

/-- A line's service state derived again after an input change (R7): a differing result is recorded, its effects
applied and reported. Section 1.4 lays down no order among the effects; that the LINE STATE report of R12 is queued last,
after the cells that R9 returns have been offered to the reports that wait, so that the room made may save it at a full
report queue, is the model's choice (DESIGN CHOICE, assumption 26). -/
def rederive (l : Line) (s : State) : State :=
  let old := (lineOf s l).service
  let new := deriveService (lineOf s l)
  if new = old then s
  else lineStateReport l old (serviceEffects l old new (setLine l (fun x => { x with service := new }) s))

/-- The barred flag takes a value (R5). -/
def setBarred (l : Line) (b : Bool) (s : State) : State :=
  rederive l (setLine l (fun x => { x with barred := b }) s)

/-- The sync condition takes a value, raised with the line table; a change to or from OUT discards the window in
progress (R115, R117). -/
def setSync (l : Line) (new : Sync) (s : State) : State :=
  let old := (lineOf s l).sync
  if new = old then s
  else
    let s1 := setLine l (fun x => { x with sync := new }) s
    let s2 := if new = .outOfSync ∨ old = .outOfSync then setSup l (fun x => { x with window := ⟨0, 0⟩ }) s1 else s1
    followTimer l (rederive l s2)

/-- The test condition takes a value (R8); a line that leaves CONNECTED is first resumed, with sync condition OUT
(R10, R118). -/
def setTest (l : Line) (new : TestCond) (s : State) : State :=
  let old := (lineOf s l).test
  if new = old then s
  else
    let s1 := if old = .connected then
        setLine l (fun x => { x with sync := .outOfSync }) (setSup l resumeSup s) else s
    followTimer l (rederive l (setLine l (fun x => { x with test := new }) s1))

end Sys2Proof.Machine
end

