-- ==== Sys2Proof/Machine/Notices.lean ====
section
/-! DEFINITION. The notice interface: packing and checking notices, the outgoing queue, and the starting of
attempts (chapter 2, R172, R173). What other blocks do with a notice is in ShareEvents.lean and ClaimEvents.lean. -/

namespace Sys2Proof.Machine

/-! ### Layouts (R172, R173) -/

/-- The kind of a notice that was asked for. -/
def askKind : Ask → NoticeKind
  | .status .. => .status
  | .claim .. => .claim
  | .take _ => .take
  | .held => .held
  | .release => .release

/-- The fixed length of each kind (R172). -/
def noticeLength : NoticeKind → Nat
  | .status => 11 | .capacity => 8 | .claim => 9 | .take => 8 | .held => 8 | .release => 6

/-- The kind a code stands for (R172). -/
def kindOfCode (b : Byte) : Option NoticeKind :=
  if b = 1 then some .status else if b = 2 then some .capacity else if b = 3 then some .claim
  else if b = 4 then some .take else if b = 5 then some .held else if b = 6 then some .release else none

/-- The payload of a notice: fields as asked for, and the attempt-time fields given (R21, R172). -/
def payload (restart holding : Bool) (remaining : Nat) : Ask → List Byte
  | .status weight demand allowance =>
    byteOf ((if restart then 128 else 0) + (if holding then 64 else 0) + weight % 16) :: two demand ++ two allowance
  | .claim p hold => priorityCode p :: two hold
  | .take hold => two hold
  | .held => two remaining
  | .release => []

/-- The bytes of a notice with its check (R20, R172). -/
def noticeBytes (sender : StationNo) (sequence : Nat) (restart holding : Bool) (remaining : Nat) (a : Ask) :
    List Byte :=
  let body := [noticeCode (askKind a), byteOf sender.val, byteOf (noticeLength (askKind a)), byteOf sequence] ++
    payload restart holding remaining a
  body ++ two (crc16 body).toNat

/-- A good notice as a receiver takes it (R173): demand, allowance and capacity in the units of the link, hold
fields in units of 100 ms. -/
inductive Heard where
  | status (restart holding : Bool) (weight demand allowance : Nat)
  | capacity (value : Nat)
  | claim (priority : Priority) (hold : Nat)
  | take (hold : Nat)
  | held (remaining : Nat)
  | release
  deriving DecidableEq, Repr

/-- The kind of a notice heard. -/
def heardKind : Heard → NoticeKind
  | .status .. => .status
  | .capacity _ => .capacity
  | .claim .. => .claim
  | .take _ => .take
  | .held _ => .held
  | .release => .release

/-- The payload of a good notice of a kind, out-of-range fields taken as R173 lays down. -/
def unpack (kind : NoticeKind) (b : List Byte) : Heard :=
  match kind with
  | .status =>
    .status ((byteAt b 4).getLsbD 7) ((byteAt b 4).getLsbD 6) (max 1 ((byteAt b 4).extractLsb' 0 4).toNat)
      (fieldAt b 5 2) (fieldAt b 7 2)
  | .capacity => .capacity (fieldAt b 4 2)
  | .claim => .claim (if byteAt b 4 = 1 then .triggered else .scheduled) (clamp 1 600 (fieldAt b 5 2))
  | .take => .take (clamp 1 600 (fieldAt b 4 2))
  | .held => .held (min 600 (fieldAt b 4 2))
  | .release => .release

/-- A good notice: its sender, sequence and fields. -/
structure GoodNotice where
  sender   : Fin 9
  sequence : Nat
  heard    : Heard
  deriving DecidableEq, Repr

/-- Whether a kind fits a sender (R32). -/
def kindFits (kind : NoticeKind) (sender : Nat) : Bool :=
  match kind with
  | .capacity => sender == 8
  | _ => decide (sender < 8)

/-- The checks made at the end of a notice: `some` for a good one (R32). -/
def checkNotice (b : List Byte) (framingError : Bool) : Option GoodNotice :=
  match kindOfCode (byteAt b 0) with
  | none => none
  | some kind =>
    let sender := (byteAt b 1).toNat
    if h : sender < 9 then
      if framingError || decide (b.length < 4) || decide (16 < b.length) ||
          decide (fieldAt b 2 1 ≠ noticeLength kind) || decide (b.length ≠ noticeLength kind) ||
          decide (crc16 (b.take (b.length - 2)) ≠ BitVec.ofNat 16 (fieldAt b (b.length - 2) 2)) ||
          !kindFits kind sender then none
      else some ⟨⟨sender, h⟩, fieldAt b 3 1, unpack kind b⟩
    else none

/-- The notice that some levels read from its first start bit on carry: framed, and checked at its end (R19, R32). -/
def heardNotice (levels : List Bool) : Option GoodNotice :=
  checkNotice (frameLevels levels).bytes (frameLevels levels).bad

/-! ### The outgoing queue (R28 to R31) -/

/-- The notices that wait: all but the one in flight (R28). -/
def waitingNotices (n : Notices) : List OutNotice := if n.attempt.isSome then n.queue.drop 1 else n.queue

/-- The notice in flight, as a list of at most one (R28). -/
def flyingNotices (n : Notices) : List OutNotice := if n.attempt.isSome then n.queue.take 1 else []

/-- Whether the bus is free: read, and with no notice on it. -/
def busFree (n : Notices) : Bool := n.framing && !n.receiving && !n.attempt.isSome

/-- Whether an entry is of a kind. -/
def isKind (k : NoticeKind) (e : OutNotice) : Bool := askKind e.ask == k

/-- Waiting notices with a new one placed: in the place, and with the loss count, of a waiting one of its kind; a
HELD in front of every waiting notice; any other kind at the tail (R28, R29). -/
def placeNotice (a : Ask) (waiting : List OutNotice) : List OutNotice :=
  if waiting.any (isKind (askKind a)) then waiting.map fun e => if isKind (askKind a) e then { e with ask := a } else e
  else if askKind a = .held then ⟨a, 0⟩ :: waiting
  else waiting ++ [⟨a, 0⟩]

/-- Whether a RELEASE asked for now is absorbed by a waiting CLAIM or TAKE (R30). -/
def absorbsRelease (n : Notices) : Bool := (waitingNotices n).any fun e => isKind .claim e || isKind .take e

/-- The queue with a notice placed (R28 to R30). -/
def queueNotice (a : Ask) (n : Notices) : Notices :=
  if askKind a = .release ∧ absorbsRelease n then
    { n with queue := flyingNotices n ++ (waitingNotices n).filter fun e => !(isKind .claim e || isKind .take e) }
  else { n with queue := flyingNotices n ++ placeNotice a (waitingNotices n) }

/-- The remaining hold that a HELD carries (R21, R134, R173). -/
def remainingHold (s : State) : Nat :=
  match s.claims.ownLimit with
  | none => 0
  | some limit => min 600 ((limit - s.time) / 100)

/-- The station's view of itself as holder (R37). -/
def holdsInView (s : State) : Bool := decide (s.claims.holder = some s.station)

/-- An attempt started: its sequence and attempt-time fields are fixed and its bytes go out (R20, R21, R37). -/
def beginAttempt (a : Ask) (s : State) : State :=
  let sequence := (s.notices.lastSequence + 1) % 256
  let restart := decide (s.notices.statusDone < 2)
  let holding := holdsInView s
  let remaining := remainingHold s
  setNotices (fun n =>
    { n with
      attempt := some ⟨sequence, restart, holding, remaining,
        noticeBytes s.station sequence restart holding remaining a, 0⟩
      gapPassed := false }) s

/-- The level that the station gives CB_TX, dominant as `false`: while an attempt is in flight, the bit of its bytes
whose bit time it is, and recessive after its last stop bit; recessive whenever the station is not sending (R18). -/
def cbTx (s : State) : Bool :=
  match s.notices.attempt with
  | some t => (noticeLevels t.bytes).getD (t.elapsed / 2) true
  | none => true

/-- The head notice started if the station may start it: permission is given, the gap has passed on a recessive
bus, and no notice is on the bus (R23, R25). -/
def startHead (s : State) : State :=
  let n := s.notices
  if busFree n && n.permitted && n.gapPassed then
    match n.queue with
    | [] => s
    | e :: _ => beginAttempt e.ask s
  else s

/-- A notice asked for: placed, and started at once if the station's gap has already passed (R23, R28 to R30). -/
def askNotice (a : Ask) (s : State) : State := startHead (setNotices (queueNotice a) s)

/-! ### Access (R22 to R25) -/

/-- The station's rank (R23). -/
def rankOf (station : StationNo) (lastSender : Fin 9) : Nat := (station.val + 17 - lastSender.val) % 9

/-- The gap of a rank in bit times (R23). -/
def gapOf (rank : Nat) : Nat := 12 + 4 * rank

/-- The bus state at the end of any notice: its quiet is counted afresh, and permission to start is given (R22 to
R25). -/
def noticeEnded (n : Notices) : Notices :=
  { n with receiving := false, gapPassed := false, quiet := 0, quietTaken := false, permitted := true }

/-- A good notice sets p (R22). -/
def heardFrom (sender : Fin 9) (n : Notices) : Notices := { n with lastSender := sender }

/-! ### Contention loss (R26, R27, R31) -/

/-- What a contention loss makes of the queue, and what the claim unit is told (R31): `dropped` is the notice
discarded at 16 losses (R27), `absorbed` says that a waiting RELEASE was removed with a lost CLAIM or TAKE. -/
structure Settled where
  queue    : List OutNotice
  dropped  : Option OutNotice
  absorbed : Bool
  deriving DecidableEq, Repr

/-- A waiting HELD moved to the head (R31). -/
def heldFirst (q : List OutNotice) : List OutNotice := q.filter (isKind .held) ++ q.filter fun e => !isKind .held e

/-- The queue settled after the loss of its head `lost`, whose loss count is already raised, with `waiting` behind
it (R27, R31). That a newer RELEASE, which R31 does not name, replaces a lost RELEASE as the kinds that it names are
replaced, and what happens to the notices that wait when `lost` is discarded, is deduced (assumption 11). -/
def settleLoss (lost : OutNotice) (waiting : List OutNotice) : Settled :=
  let kind := askKind lost.ask
  let spent := decide (Config.lossLimit ≤ lost.losses)
  let absorbed := (kind == .claim || kind == .take) && waiting.any (isKind .release)
  let rest := if absorbed then waiting.filter fun e => !isKind .release e else waiting
  let newer := rest.find? (isKind kind)
  let head := if spent then []
    else match newer with
      | some e => [{ e with losses := lost.losses }]
      | none => if absorbed then [] else [lost]
  let rest' := if spent then rest else rest.filter fun e => !isKind kind e
  ⟨heldFirst (head ++ rest'), if spent then some lost else none, absorbed⟩

end Sys2Proof.Machine
end

