-- ==== Sys2Proof/Machine/Claims.lean ====
section
/-! DEFINITION. The claim unit: the holder view as a structure of its own (R123 to R128), and the requests that the
test sequencer makes (R129, R133, R135). What notices and timers do to the own claim is in ClaimEvents.lean. -/

namespace Sys2Proof.Machine

/-! ### The holder view (R123 to R128) -/

/-- Whether an entry is TRIGGERED. -/
def isUrgent (c : Claimant) : Bool := c.priority == .triggered

/-- A TRIGGERED entry placed directly behind the last TRIGGERED entry; a SCHEDULED one at the tail (R124). -/
def placeClaimant (q : List Claimant) (c : Claimant) : List Claimant :=
  if isUrgent c then q.takeWhile isUrgent ++ c :: q.dropWhile isUrgent else q ++ [c]

/-- The claim queue without a station. -/
def withoutStation (k : StationNo) (q : List Claimant) : List Claimant := q.filter fun c => c.station ≠ k

/-- The station at the head of the claim queue. -/
def headStation (cl : Claims) : Option StationNo := (cl.queue.head?).map (·.station)

/-- The turn timer after a change of the view (R128): it runs while there is no holder and the queue is not empty,
and starts from 0 when that begins or when the head changes. -/
def turnAfter (time : Nat) (old new : Claims) : Option Nat :=
  if new.holder.isSome || new.queue.isEmpty then none
  else if old.holder.isNone && decide (headStation old = headStation new) then some (old.turnFrom.getD time)
  else some time

/-- A change of the view with its turn timer (R128). -/
def withTurn (time : Nat) (f : Claims → Claims) (cl : Claims) : Claims :=
  { f cl with turnFrom := turnAfter time cl (f cl) }

/-- The claim queue after a CLAIM (R124). -/
def queueAfterClaim (k : StationNo) (p : Priority) (hold : Nat) (q : List Claimant) : List Claimant :=
  match q.find? fun c => decide (c.station = k) with
  | none => placeClaimant q ⟨k, p, hold⟩
  | some c =>
    if p = .triggered ∧ c.priority = .scheduled then placeClaimant (withoutStation k q) ⟨k, .triggered, hold⟩
    else q.map fun d => if d.station = k then { d with hold := hold } else d

/-- A CLAIM taken by the view (R124). -/
def viewClaim (k : StationNo) (p : Priority) (hold : Nat) (cl : Claims) : Claims :=
  if !look cl.present k || decide (cl.holder = some k) then cl
  else { cl with queue := queueAfterClaim k p hold cl.queue }

/-- A station made holder until a time (R125, R126). -/
def makeHolder (k : StationNo) (expiry : Nat) (cl : Claims) : Claims :=
  { cl with holder := some k, expiry := some expiry, queue := withoutStation k cl.queue }

/-- A TAKE taken by the view at a station time (R125). -/
def viewTake (time : Nat) (k : StationNo) (hold : Nat) (cl : Claims) : Claims :=
  if !look cl.present k || cl.holder.isSome then cl
  else makeHolder k (time + hold * 100 + Config.holdMargin) cl

/-- A HELD taken by the view at a station time (R126). -/
def viewHeld (time : Nat) (k : StationNo) (remaining : Nat) (cl : Claims) : Claims :=
  if !look cl.present k then cl else makeHolder k (time + remaining * 100 + Config.holdMargin) cl

/-- The hold ends: no holder, and no expiry (R126, R127). -/
def endHold (cl : Claims) : Claims := { cl with holder := none, expiry := none }

/-- A RELEASE taken by the view (R126). -/
def viewRelease (k : StationNo) (cl : Claims) : Claims :=
  if cl.holder = some k then endHold cl else { cl with queue := withoutStation k cl.queue }

/-- A STATUS taken by the view (R127): a clear holding flag ends its sender's hold. -/
def viewStatus (k : StationNo) (holding : Bool) (cl : Claims) : Claims :=
  if cl.holder = some k ∧ holding = false then endHold cl else cl

/-- A station's absence or restart taken by the view: its hold ends and its entry leaves the queue (R127). -/
def viewGone (k : StationNo) (cl : Claims) : Claims :=
  let cl' := { cl with queue := withoutStation k cl.queue }
  if cl.holder = some k then endHold cl' else cl'

/-- The head removed at a lapse (R128). -/
def viewLapse (cl : Claims) : Claims := { cl with queue := cl.queue.drop 1 }

/-! ### Claiming and giving up (R129, R130) -/

/-- Whether the own entry is the head of the view and there is no holder (R130). -/
def ownTurn (s : State) : Bool :=
  s.claims.holder.isNone && decide (headStation s.claims = some s.station)

/-- The CLAIM that carries the claim in force. -/
def claimAsk (cl : Claims) : Ask :=
  match cl.inForce with
  | some t => .claim t.priority t.hold
  | none => .claim .scheduled 1

/-- The TAKE that carries the hold of the claim in force. -/
def takeAsk (cl : Claims) : Ask :=
  match cl.inForce with
  | some t => .take t.hold
  | none => .take 1

/-- A station in QUEUED whose own entry is head with no holder enters TURN and asks for a TAKE (R130). -/
def followTurn (s : State) : State :=
  if s.claims.own = .queued && ownTurn s then
    askNotice (takeAsk s.claims) (setClaims (fun cl => { cl with own := .turn }) s)
  else s

/-- A CLAIM with the claim in force is asked for, and the state is QUEUED (R129). -/
def enterQueued (s : State) : State :=
  let s' := setClaims (fun cl => { cl with own := .queued, waiting := false, confirmAt := none, ownLimit := none }) s
  followTurn (askNotice (claimAsk s'.claims) s')

/-- A claim acted on in NONE: asked for at once, or recorded until two STATUS notices have completed (R129). -/
def claimFromNone (t : ClaimTerms) (s : State) : State :=
  let s' := setClaims (fun cl => { cl with inForce := some t }) s
  if s.notices.statusDone < 2 then setClaims (fun cl => { cl with waiting := true }) s' else enterQueued s'

/-- The sequencer's request to claim the head (R129). -/
def claimHead (t : ClaimTerms) (s : State) : State :=
  match s.claims.own with
  | .none => claimFromNone t s
  | .queued => enterQueued (setClaims (fun cl => { cl with inForce := some t }) s)
  | .turn | .taking => setClaims (fun cl => { cl with inForce := some t }) s
  | .holding => s
  | .releasing => setClaims (fun cl => { cl with recorded := some t }) s

/-! ### Relays and stimulus (R133) -/

/-- The test condition of a line that is not CONNECTED (R141): PENDING while the run queue holds a run for it or
the active run is on it and has not reached ENDING. -/
def restingTest (s : State) (l : Line) : TestCond :=
  if s.seq.queue.any (fun r => decide (r.line = l)) ||
      (match s.seq.active with | some a => decide (a.run.line = l) && decide (a.phase ≠ .ending) | none => false)
  then .pending else .none

/-- Disconnect: the closed relay released, STIM_SEL to NONE, the line's test condition out of CONNECTED, and the
relay release time started (R133). -/
def disconnect (s : State) : State :=
  match s.claims.relay with
  | none => s
  | some l =>
    setTest l (restingTest s l)
      (setClaims (fun cl =>
        { cl with relay := none, stimulus := .none, releaseAt := some (s.time + Config.releaseTime) }) s)

/-- The relay operate time of CONNECTING starts (R133, R147). -/
def startOperate (s : State) : State :=
  setSeq (fun q => { q with active := q.active.map fun a => { a with until_ := some (s.time + Config.operateTime) } }) s

/-- The relay of a line driven and its test condition set to CONNECTED (R133). -/
def closeRelay (l : Line) (s : State) : State :=
  startOperate (setTest l .connected (setClaims (fun cl => { cl with relay := some l, connectWaits := none }) s))

/-- Whether the own hold limit has been reached (R134). -/
def pastLimit (s : State) : Bool :=
  s.claims.limitReached || (match s.claims.ownLimit with | some t => decide (t ≤ s.time) | none => false)

/-- Connect line L (R133): refused past the own hold limit; waiting while a relay release time runs; another line
is disconnected first. -/
def connect (l : Line) (s : State) : State :=
  if pastLimit s then s
  else if s.claims.releaseAt.isSome then setClaims (fun cl => { cl with connectWaits := some l }) s
  else match s.claims.relay with
    | none => closeRelay l s
    | some k =>
      if k = l then startOperate s else setClaims (fun cl => { cl with connectWaits := some l }) (disconnect s)

/-- Stimulus: driven while a relay is closed, NONE otherwise (R133). -/
def drive (x : Stimulus) (s : State) : State :=
  setClaims (fun cl => { cl with stimulus := if cl.relay.isSome then x else .none }) s

/-- Leaving HOLDING: the relay released, RELEASING entered, the relay release time run, OCC_DRV still driven
(R135). -/
def leaveHolding (s : State) : State :=
  setClaims (fun cl =>
    { cl with
      own := .releasing, ownLimit := none, limitReached := false, connectWaits := none
      releaseAt := some (s.time + Config.releaseTime) }) (disconnect s)

/-- The sequencer's request to give up the head (R129). -/
def giveUp (s : State) : State :=
  match s.claims.own with
  | .none => setClaims (fun cl => { cl with inForce := none, waiting := false }) s
  | .queued | .turn | .taking =>
    askNotice .release (setClaims (fun cl =>
      { cl with own := .none, inForce := none, reclaim := false, confirmAt := none, ownLimit := none }) s)
  | .holding => leaveHolding s
  | .releasing => setClaims (fun cl => { cl with recorded := none }) s

end Sys2Proof.Machine
end

