-- ==== Sys2Proof/Machine/Operands.lean ====
section
/-! DEFINITION. The operands of requests: numbers out of range, and step records with their ranges (R137, R138,
R176). -/

namespace Sys2Proof.Machine

/-- The line a byte names, if it is in range (R163). -/
def lineOperand (b : Byte) : Option Line := if h : b.toNat < 12 then some ⟨b.toNat, h⟩ else none

/-- The slot a byte names, if it is in range. -/
def slotOperand (b : Byte) : Option Slot := if h : b.toNat < 128 then some ⟨b.toNat, h⟩ else none

/-- The line-map index a byte names, if it is in range. -/
def indexOperand (b : Byte) : Option MapIndex := if h : b.toNat < 32 then some ⟨b.toNat, h⟩ else none

/-- The class a byte stands for (R175). -/
def classOperand (b : Byte) : Option FrameClass :=
  if b = 0 then some .normal else if b = 1 then some .high else none

def wiresOperand (b : Byte) : Option Wires :=
  if b = 0 then some .tipRing else if b = 1 then some .tipGround else if b = 2 then some .ringGround else none

def quantityOperand (b : Byte) : Option Quantity :=
  if b = 0 then some .foreignDc else if b = 1 then some .foreignAc else if b = 2 then some .resistance
  else if b = 3 then some .capacitance else if b = 4 then some .length else none

/-- The range of a quantity's result and limits (R137). -/
def quantityRange : Quantity → Int × Int
  | .foreignDc | .foreignAc => (-327670, 327670)
  | .resistance => (0, 2000000000)
  | .capacitance => (0, 10000000)
  | .length => (0, 65535)

/-- Whether a limit lies within its quantity's range (R137). -/
def limitInRange (q : Quantity) (x : Option Int) : Bool :=
  match x with
  | some v => decide ((quantityRange q).1 ≤ v) && decide (v ≤ (quantityRange q).2)
  | none => true

/-- Whether the two limits are in order (R138). -/
def limitsOrdered (low high : Option Int) : Bool :=
  match low, high with
  | some a, some b => decide (a ≤ b)
  | _, _ => true

/-- The step that a record writes; `none` where any part of it is out of range (R137, R138, R176). -/
def stepOperand (r : RawStep) : Option Step :=
  match wiresOperand r.wire, quantityOperand r.quantity with
  | some w, some q =>
    let o := r.options
    let low := if o.getLsbD 4 then some r.low.toInt else none
    let high := if o.getLsbD 5 then some r.high.toInt else none
    let next := if o.getLsbD 6 then slotOperand r.next else none
    if r.mark = 1 && !o.getLsbD 7 && decide (r.settle.toNat ≤ 2000) && decide (16 ≤ r.samples.toNat) &&
        decide (r.samples.toNat ≤ 4096) && limitInRange q low && limitInRange q high && limitsOrdered low high &&
        (!o.getLsbD 6 || next.isSome) && (o.getLsbD 0 || o.getLsbD 6) then
      some ⟨w, q, r.settle.toNat, r.samples.toNat, low, high, o.getLsbD 0, o.getLsbD 1, o.getLsbD 2, o.getLsbD 3, next⟩
    else none
  | _, _ => none

/-- The 17 bytes of a slot's record in a response: an absent next slot or limit is all ones (R175). That the record has
the layout of R176, in which LOAD STEP carries it, and that an empty slot is 17 zeros, the record that empties it, is the
model's choice (DESIGN CHOICE, assumption 8). -/
def stepBytes : Option Step → List Byte
  | none => List.replicate 17 0
  | some p =>
    let bit (b : Bool) (n : Nat) : Nat := if b then n else 0
    [1, wiresCode p.wires, quantityCode p.quantity,
      byteOf (bit p.stop 1 + bit p.report 2 + bit p.abortOnFail 4 + bit p.confirm 8 + bit p.low.isSome 16 +
        bit p.high.isSome 32 + bit p.next.isSome 64)] ++ two p.settle ++ two p.samples ++
      oneOr (p.next.map (·.val)) ++ (p.low.map fourSigned).getD absentFour ++ (p.high.map fourSigned).getD absentFour

end Sys2Proof.Machine
end

