-- ==== Sys2Proof/Machine/Runs.lean ====
section
/-! DEFINITION. Chains of steps, hold estimates, run ids and the order of the run queue (R139 to R142). -/

namespace Sys2Proof.Machine

/-! ### Chains (R139, R140) -/

/-- What a walk of step memory finds: the slots visited, and whether it reached a stop step. -/
structure Chain where
  slots : List Slot
  good  : Bool
  deriving DecidableEq, Repr

/-- A walk of at most `n` steps from a slot (R139). That the empty slot at which a MALFORMED walk fails counts among the
slots visited, which R138 protects, is the model's choice (DESIGN CHOICE, assumption 8). -/
def walkChain (steps : Table (Option Step) 128) : Nat → Slot → Chain
  | 0, _ => ⟨[], false⟩
  | n + 1, k =>
    match look steps k with
    | none => ⟨[k], false⟩
    | some p =>
      if p.stop then ⟨[k], true⟩
      else match p.next with
        | none => ⟨[k], false⟩
        | some j => { walkChain steps n j with slots := k :: (walkChain steps n j).slots }

/-- The chain from a slot (R139). -/
def chainFrom (steps : Table (Option Step) 128) (k : Slot) : Chain := walkChain steps 128 k

/-- Whether a step applies the stimulus STEP (R137). -/
def isStepStep (p : Step) : Bool := p.quantity == .capacitance || p.quantity == .length

/-- The stimulus that a step applies (R137). -/
def stimulusOf (p : Step) : Stimulus :=
  match p.quantity with
  | .foreignDc | .foreignAc => .none
  | .resistance => .dcTest
  | .capacitance | .length => .step

/-- What a step contributes to a hold estimate, in quarter-milliseconds (R140). -/
def stepQuarters (p : Step) : Nat := 4 * p.settle + p.samples + 80 + if isStepStep p then 200 else 0

/-- The hold estimate of a chain, in units of 100 ms (R140). -/
def holdEstimate (steps : Table (Option Step) 128) (c : Chain) : Nat :=
  let e := (c.slots.map fun k => ((look steps k).map stepQuarters).getD 0).sum
  min 600 (ceilDiv (5 * e + 16000) 1600)

/-! ### Run ids and the run queue (R141, R142) -/

/-- The slot at which a run's next activation begins (R146). -/
def firstSlot (r : Run) : Slot :=
  match r.status with
  | .suspended => r.resume.getD r.start
  | _ => r.start

/-- The ids in use: of the run queue, the active run and the fault slots (R141). -/
def idsInUse (q : Sequencer) : List Nat :=
  q.queue.map (·.id) ++ (q.active.map (·.run.id)).toList ++
    (indices 12).filterMap fun l => (look q.faults l).map (·.id)

/-- The counter raised by 1, going from 255 to 1 (R141). -/
def nextId (n : Nat) : Nat := if 255 ≤ n then 1 else n + 1

/-- The first free id after the counter, in at most `n` steps (R141). -/
def freeId (used : List Nat) : Nat → Nat → Nat
  | 0, c => nextId c
  | n + 1, c => if nextId c ∈ used then freeId used n (nextId c) else nextId c

/-- The id that is assigned next (R141). -/
def assignedId (q : Sequencer) : Nat := freeId (idsInUse q) 255 q.counter

/-- Whether a run is TRIGGERED. -/
def isTriggered (r : Run) : Bool := r.origin == .triggered

/-- A TRIGGERED run, or an OPERATOR run returned to the queue: directly behind the last TRIGGERED run (R142). -/
def placeFront (q : List Run) (r : Run) : List Run := q.takeWhile isTriggered ++ r :: q.dropWhile isTriggered

/-- A run record taken out of the queue by its id. -/
def withoutRun (id : Nat) (q : List Run) : List Run := q.filter fun r => r.id ≠ id

end Sys2Proof.Machine
end

