-- ==== Sys2Proof/Machine/Sequencer.lean ====
section
/-! DEFINITION. The test sequencer: the places of run records, activation, phases, endings and interruptions
(chapter 9). -/

namespace Sys2Proof.Machine

/-! ### Places of run records (R141, R142, R148) -/

/-- The test conditions of all lines that are not CONNECTED follow the queue and the active run (R141). Between
NONE and PENDING nothing follows in the service state (R7). -/
def refreshTests (s : State) : State :=
  setAllLines (fun l r => if r.test = .connected then r else { r with test := restingTest s l }) s

/-- A run ended: its RUN ENDED report is queued, the last run outcome of its line written, and the line's holdoff
started if it is TRIGGERED (R148 step 4, R152, R162). -/
def endRecord (r : Run) (outcome : RunOutcome) (slot : Slot) (s : State) : State :=
  let s1 := setMeas (fun m => { m with lastRuns := put m.lastRuns r.line (some ⟨r.id, r.origin, outcome, s.time⟩) })
    (queueReport (.runEnded r outcome slot) s)
  if isTriggered r then
    setSeq (fun q => { q with holdoffs := put q.holdoffs r.line (some (s.time + s.settings.holdoff * 60000)) }) s1
  else s1

/-- The run that a run entering the queue displaces: the one at the tail of a full queue (R142). -/
def displaced (q : List Run) : Option Run := if q.length < Config.queuedRuns then none else q.getLast?

/-- The queue with room for one run more (R142). -/
def roomIn (q : List Run) : List Run := if q.length < Config.queuedRuns then q else q.dropLast

/-- A TRIGGERED run, or an OPERATOR run returned, placed directly behind the last TRIGGERED run of the queue; the run
that it displaces is ended CANCELLED (R142). -/
def enterFront (r : Run) (s : State) : State :=
  let s1 := setSeq (fun q => { q with queue := placeFront (roomIn q.queue) r }) s
  refreshTests (match displaced s.seq.queue with
    | some d => endRecord d .cancelled (firstSlot d) s1
    | none => s1)

/-- No run is active any more. -/
def clearActive (s : State) : State := setSeq (fun q => { q with active := none }) s

/-- The active run changed. -/
def setActive (f : Active → Active) (s : State) : State := setSeq (fun q => { q with active := q.active.map f }) s

/-! ### Keeping or giving up the hold (R148 step 3) -/

/-- The outcomes after which a hold may be kept (R148). -/
def mayKeep : RunOutcome → Bool
  | .passed | .failed | .aborted | .cancelled | .recovered => true
  | _ => false

/-- Whether the hold is kept for the head of the queue (R148). -/
def keepsHold (outcome : RunOutcome) (s : State) : Bool :=
  decide (s.claims.own = .holding) && mayKeep outcome &&
    (match s.claims.ownLimit with | some t => decide (s.time + Config.keepMargin ≤ t) | none => false) &&
    (match s.seq.queue.head? with
      | some r => isTriggered r || decide (r.status = .suspended)
      | none => false)

/-- The hold kept, or the head given up (R148 step 3); nothing if the claim unit is not HOLDING. -/
def decideHold (outcome : RunOutcome) (s : State) : State :=
  if s.claims.own ≠ .holding ∨ keepsHold outcome s = true then s else giveUp s

/-! ### Activation (R146) -/

/-- The outcome with which a run ends at activation, if it does (R146 steps 1 to 3). -/
def examine (s : State) (r : Run) : Option RunOutcome :=
  if !(chainFrom s.seq.steps (firstSlot r)).good then some .malformed
  else if (lineOf s r.line).hazard then some .hazard
  else if isTriggered r && decide ((lineOf s r.line).service = .up) then some .recovered
  else none

/-- The claim that a run asks for (R146 step 4). -/
def termsOf (s : State) (r : Run) : ClaimTerms :=
  ⟨if isTriggered r then .triggered else .scheduled, holdEstimate s.seq.steps (chainFrom s.seq.steps (firstSlot r))⟩

/-- A run made active in a phase. -/
def activeIn (r : Run) (p : Phase) : Active := ⟨r, firstSlot r, p, none, false, false, .passed⟩

/-- A run that passed its examination becomes active: CONNECTING under a hold kept for it, else WAITING_BUS with a
claim (R146 step 4). -/
def becomeActive (r : Run) (s : State) : State :=
  if s.claims.own = .holding then
    connect r.line (refreshTests (setSeq (fun q => { q with active := some (activeIn r .connecting) }) s))
  else
    claimHead (termsOf s r)
      (refreshTests (setSeq (fun q => { q with active := some (activeIn r .waitingBus) }) s))

/-- A run that ends at activation: steps 3 and 4 of R148. -/
def endAtActivation (r : Run) (outcome : RunOutcome) (s : State) : State :=
  refreshTests (endRecord r outcome (firstSlot r) (decideHold outcome s))

/-- Up to `n` heads of the queue examined, until one becomes active (R146). -/
def activateUpTo : Nat → State → State
  | 0, s => s
  | n + 1, s =>
    if s.seq.active.isSome || s.seq.closing.isSome then s
    else match s.seq.queue with
      | [] => s
      | r :: rest =>
        let s1 := setSeq (fun q => { q with queue := rest }) s
        match examine s1 r with
        | some outcome => activateUpTo n (endAtActivation r outcome s1)
        | none => becomeActive r s1

/-- When no run is active and the queue is not empty, its head becomes active (R146). -/
def activate (s : State) : State := activateUpTo s.seq.queue.length s

/-! ### Endings (R148) -/

/-- Steps 2 to 4 of an ending: disconnect, hold, end, and the next activation. -/
def finishEnding (a : Active) (s : State) : State :=
  let s1 := decideHold a.outcome (disconnect s)
  activate (refreshTests (endRecord a.run a.outcome a.slot (clearActive s1)))

/-- The active run goes to ENDING with an outcome: a discharge first if a STEP stimulus has been applied since the
last DISCHARGING (R148 step 1). -/
def beginEnding (outcome : RunOutcome) (a : Active) (s : State) : State :=
  let a' := { a with phase := .ending, outcome := outcome, until_ := none }
  if a.charged then
    drive .discharge (setActive (fun _ => { a' with until_ := some (s.time + Config.dischargeTime) }) s)
  else finishEnding a' (setActive (fun _ => a') s)

/-! ### Phases (R147) -/

/-- SAMPLING begins: the accumulators are emptied (R155). -/
def startSampling (s : State) : State :=
  setMeas (fun m => { m with acc := emptyAcc }) (setActive (fun a => { a with phase := .sampling, until_ := none }) s)

/-- The current step handed to the measurement unit at the start of SETTLING; for the first measurement of a step
the count of measurements begins afresh (R155, R160). -/
def handStep (fresh : Bool) (p : Step) (m : Measurement) : Measurement :=
  { m with
    wires := some p.wires, quantity := some p.quantity, samples := p.samples
    made := if fresh then 0 else m.made
    previous := if fresh then none else m.previous
    verdict := none }

/-- SETTLING of the current step begins: its stimulus is asked of the claim unit and its selection handed to the
measurement unit; a settle time of 0 ends at once (R147). -/
def startSettling (fresh : Bool) (a : Active) (s : State) : State :=
  match look s.seq.steps a.slot with
  | none => s
  | some p =>
    let s1 := drive (stimulusOf p) (setMeas (handStep fresh p)
      (setActive (fun a =>
        { a with phase := .settling, until_ := some (s.time + p.settle), charged := a.charged || isStepStep p }) s))
    if p.settle = 0 then startSampling s1 else s1

/-- DISCHARGING begins (R147). -/
def startDischarging (s : State) : State :=
  drive .discharge (setActive (fun a =>
    { a with phase := .discharging, until_ := some (s.time + Config.dischargeTime), charged := false }) s)

/-- The run suspended: it returns to the queue with a resume slot (R149, R150). That a cancel which is pending when the
hold limit or a lost hold suspends the run is dropped is the model's choice (DESIGN CHOICE, assumption 14). -/
def suspendRun (a : Active) (resume : Slot) (s : State) : State :=
  enterFront { a.run with status := .suspended, resume := some resume } (clearActive s)

/-- The NEXT phase (R147): the verdict counted, then a pending cancel, an abort, the stop step, a pre-emption
(R149) or the next step. -/
def nextPhase (a : Active) (s : State) : State :=
  match look s.seq.steps a.slot with
  | none => s
  | some p =>
    let failed := decide (s.meas.verdict = some .fail)
    let run := { a.run with
      steps := satAdd 65535 a.run.steps 1
      fails := if failed then satAdd 65535 a.run.fails 1 else a.run.fails }
    let a' := { a with run := run }
    let s1 := setActive (fun _ => a') s
    if a.cancel then beginEnding .cancelled a' s1
    else if failed && p.abortOnFail then beginEnding .aborted a' s1
    else if p.stop then
      beginEnding (if run.fails = 0 then .passed else .failed) a'
        (setLine a.run.line (fun r => { r with continueSlot := p.next }) s1)
    else match p.next with
      | none => s1
      | some j =>
        if run.origin = .operator ∧ (s.seq.queue.head?.map isTriggered) = some true then
          activate (suspendRun a' j s1)
        else
          let a2 := { a' with slot := j }
          startSettling true a2 (setActive (fun _ => a2) s1)

/-- CONNECTING begins: a set hazard flag ends the run, else the claim unit is asked to connect the line (R147). -/
def startConnecting (a : Active) (s : State) : State :=
  let a' := { a with phase := .connecting, until_ := none }
  let s1 := setActive (fun _ => a') s
  if (lineOf s a.run.line).hazard then beginEnding .hazard a' s1 else connect a.run.line s1

/-! ### Indications of the claim unit (R146, R150) -/

/-- The head is held: the run in WAITING_BUS enters CONNECTING; with none there, the head is given up (R146). -/
def headHeld (s : State) : State :=
  match s.seq.active with
  | some a => if a.phase = .waitingBus then startConnecting a s else giveUp s
  | none => giveUp s

/-- The own hold limit has been reached (R150). -/
def limitTaken (s : State) : State :=
  match s.seq.active with
  | none => s
  | some a =>
    if a.phase = .waitingBus ∨ a.phase = .ending then s
    else match a.run.origin with
      | .triggered => beginEnding .timeout a s
      | .operator =>
        let s1 := suspendRun a a.slot s
        if a.charged then
          drive .discharge (setSeq (fun q =>
            { q with closing := some ⟨a.run.id, a.run.line, s.time + Config.dischargeTime⟩ }) s1)
        else activate (giveUp (disconnect s1))

/-- The hold is lost; the claim unit has already released the relay and left HOLDING (R150). -/
def holdLost (s : State) : State :=
  match s.seq.closing with
  | some _ => activate (setSeq (fun q => { q with closing := none }) s)
  | none =>
    match s.seq.active with
    | none => s
    | some a =>
      if a.phase = .waitingBus then s
      else if a.phase = .ending then finishEnding a s
      else match a.run.origin with
        | .operator => activate (suspendRun a a.slot s)
        | .triggered =>
          let run := { a.run with status := .faultedBus, resume := none }
          activate (refreshTests (endRecord run .busLost a.slot
            (clearActive (setSeq (fun q => { q with latch := true }) s))))

/-! ### Protective stop (R151) -/

/-- The hazard flag of a line set (R6). -/
def setHazard (l : Line) (b : Bool) (s : State) : State := setLine l (fun r => { r with hazard := b }) s

/-- Steps 3 to 5 of a protective stop for a run record: into the fault slot, latch, head given up, report, holdoff
(R151). -/
def faultRun (r : Run) (slot : Slot) (s : State) : State :=
  let run := { r with status := .faultedHazard, resume := none }
  endRecord run .hazard slot (decideHold .hazard
    (setSeq (fun q => { q with faults := put q.faults r.line (some run), latch := q.latch || isTriggered r }) s))

/-- A protective stop (R151). That in the ENDING discharge of a run whose record has returned to the queue the record is
taken from the queue, and that, where a CANCEL RUN has removed it meanwhile, the hazard flag is set and the head given up
with no run ended, no fault slot filled and no report, is the model's choice (DESIGN CHOICE, assumption 14). While the
relay of a pre-empted run is still closed, because the Connect of the TRIGGERED run in its place was refused at the own hold
limit (R133, R149), R151 does not say whose line and run the stop acts on; that it acts on the active run and the line of
that run, and not on the line whose relay is closed, is the model's choice (DESIGN CHOICE, assumption 14). -/
def protectiveStop (s : State) : State :=
  match s.seq.closing, s.seq.active with
  | some c, _ =>
    let s1 := setHazard c.line true (disconnect (setSeq (fun q => { q with closing := none }) s))
    match s1.seq.queue.find? fun r => decide (r.id = c.runId) with
    | some r => activate (refreshTests (faultRun r (firstSlot r)
        (setSeq (fun q => { q with queue := withoutRun c.runId q.queue }) s1)))
    | none => activate (decideHold .hazard s1)
  | none, some a =>
    let s1 := setHazard a.run.line true (disconnect (setActive (fun a => { a with phase := .ending }) s))
    activate (refreshTests (faultRun a.run a.slot (clearActive s1)))
  | none, none => disconnect s

/-! ### Triggered requests (R144) -/

/-- A run record of a line with a fresh id (R141). -/
def newRun (s : State) (l : Line) (start : Slot) (origin : Origin) (report : Bool) (cause : Option Cause) : Run :=
  ⟨assignedId s.seq, l, start, origin, .new, none, report, cause, 0, 0⟩

/-- The id counter after an assignment (R141). -/
def takeId (s : State) : State := setSeq (fun q => { q with counter := assignedId q }) s

/-- An OPERATOR run in WAITING_BUS displaced by a TRIGGERED run that has entered the queue (R146). -/
def displaceWaiting (s : State) : State :=
  match s.seq.active with
  | some a =>
    if a.phase = .waitingBus ∧ a.run.origin = .operator then enterFront a.run (clearActive s) else s
  | none => s

/-- A triggered request taken (R144). -/
def triggeredRequest (l : Line) (cause : Cause) (s : State) : State :=
  if s.seq.latch then s
  else
    let r := newRun s l s.settings.triggerSlot .triggered true (some cause)
    let s1 := takeId s
    if !(chainFrom s.seq.steps r.start).good then endRecord r .malformed r.start s1
    else activate (displaceWaiting (enterFront r s1))

/-- A cause raised: suppressed, or handed on as a triggered request (R119, R120). -/
def raiseTrigger (l : Line) (cause : Cause) (s : State) : State :=
  let holds (r : Run) : Bool := isTriggered r && decide (r.line = l)
  if s.settings.triggerDelay = 0 ∨ (lineOf s l).equipped = false ∨ (look s.seq.holdoffs l).isSome ∨
      s.seq.latch = true ∨ (lineOf s l).hazard = true ∨ s.seq.queue.any holds = true ∨
      (s.seq.active.map fun a => holds a.run) = some true then s
  else triggeredRequest l cause s

end Sys2Proof.Machine
end

