-- ==== Sys2Proof/Machine/Timers.lean ====
section
/-! DEFINITION. When each timer of the part is due: the conditions under which its expiry happens. The command of an
expiry acts where its timer is due and nowhere else (assumption 4), and an idle part queues the command of a timer that
is due (Tick.lean). -/

namespace Sys2Proof.Machine

/-- Whether a station time is present and has been reached. -/
def reached (s : State) (t : Option Nat) : Bool := t.any fun x => decide (x ≤ s.time)

/-! ### The notice interface -/

/-- The station's gap passes (R23). Quiet is kept in microseconds, two to a bit time. -/
def gapDue (s : State) : Bool :=
  let n := s.notices
  busFree n && !n.gapPassed && decide (2 * gapOf (rankOf s.station n.lastSender) ≤ n.quiet)

/-- The bus has been recessive for 2,000 bit times, and that has not been taken yet (R22, R25). -/
def quietDue (s : State) : Bool :=
  busFree s.notices && !s.notices.quietTaken && decide (4000 ≤ s.notices.quiet)

/-- The DUPLICATE NUMBER holdoff ends (R35). -/
def duplicateDue (s : State) : Bool := reached s s.notices.duplicateUntil

/-- The isolation timer expires (R38). -/
def isolationDue (s : State) : Bool := reached s s.notices.isolationAt

/-! ### The peer table and share unit -/

/-- The notice-period timer expires (R36). -/
def periodDue (s : State) : Bool := reached s s.share.periodAt

/-- The station time at which the presence timer of an entry expires (R43); the own entry has none. -/
def presenceAt (s : State) (k : StationNo) : Option Nat :=
  let p := peerOf s k
  let t := period s.settings
  if k = s.station then none
  else match p.presence with
    | .absent => none
    | .joining => p.joinedAt.map (· + 2 * t)
    | .present => p.lastStatus.map (· + 2 * t)
    | .stale => p.lastStatus.map (· + 5 * t)

/-- The presence timer of an entry expires (R43). -/
def presenceDue (s : State) (k : StationNo) : Bool := reached s (presenceAt s k)

/-- The station time at which the capacity view moves on (R46). -/
def capacityAt (s : State) : Option Nat :=
  let t := period s.settings
  match s.share.capacity.state with
  | .current => s.share.capacity.time.map (· + 3 * t)
  | .stale => s.share.capacity.time.map (· + 10 * t)
  | .none => none

/-- The capacity view moves on (R46). -/
def capacityDue (s : State) : Bool := reached s (capacityAt s)

/-- A pending rise has reached its due time (R59). -/
def riseDue (s : State) : Bool := reached s (s.share.rise.map (·.due))

/-! ### Line supervision -/

/-- Whether a line's aligner is in SEARCH and takes bits (R107, R118). -/
def searching (s : State) (l : Line) : Bool := !(supOf s l).suspended && !(supOf s l).aligned

/-- Whether a line's aligner is ALIGNED (R107); a suspended line's never is (R118). -/
def alignedNow (s : State) (l : Line) : Bool := !(supOf s l).suspended && (supOf s l).aligned

/-- The search time has reached 20 report times on a line that is not OUT yet (R107, R115). -/
def searchTimeDue (s : State) (l : Line) : Bool :=
  searching s l && decide (Config.searchLimit ≤ (supOf s l).searchTime) && decide ((lineOf s l).sync ≠ .outOfSync)

/-- The loss-of-signal trigger timer expires (R119). -/
def losTimerDue (s : State) (l : Line) : Bool :=
  reached s ((supOf s l).timerFrom.map (· + s.settings.triggerDelay * 1000))

/-! ### The claim unit -/

/-- The hold of the holder expires (R127). -/
def holdDue (s : State) : Bool := s.claims.holder.isSome && reached s s.claims.expiry

/-- The turn of the head lapses (R128). -/
def turnDue (s : State) : Bool := reached s (s.claims.turnFrom.map (· + Config.turnTime))

/-- The confirm window ends in TAKING (R131). -/
def confirmDue (s : State) : Bool := decide (s.claims.own = .taking) && reached s s.claims.confirmAt

/-- The relay release time ends (R133, R135). -/
def releaseDue (s : State) : Bool := reached s s.claims.releaseAt

/-- The own hold limit is reached in HOLDING, and has not been taken yet (R134, R150). -/
def ownLimitDue (s : State) : Bool :=
  decide (s.claims.own = .holding) && !s.claims.limitReached && reached s s.claims.ownLimit

/-! ### The test sequencer -/

/-- The active run stands in a phase whose time has ended (R147, R148). -/
def phaseDue (s : State) (p : Phase) : Bool :=
  s.seq.active.any fun a => decide (a.phase = p) && reached s a.until_

/-- The discharge of ENDING ends: of a run whose record has returned to the queue, or else of the active run (R148,
R150). -/
def endingDue (s : State) : Bool :=
  match s.seq.closing with
  | some c => decide (c.until_ ≤ s.time)
  | none => phaseDue s .ending

/-- A line's holdoff ends (R152). -/
def holdoffDue (s : State) (l : Line) : Bool := reached s (look s.seq.holdoffs l)

/-! ### The management agent -/

/-- The restart wait has lasted 100 ms (R166). -/
def restartDue (s : State) : Bool :=
  match s.mgmt.wait with
  | .waiting t => decide (t ≤ s.time)
  | _ => false

/-! ### Expiries -/

/-- What an expiry does: its effect where its timer is due, and nothing where it is not (assumption 4). -/
def whenDue (due : State → Bool) (f : State → State) (s : State) : State := if due s then f s else s

end Sys2Proof.Machine
end

