-- ==== Sys2Proof/Machine/ClaimEvents.lean ====
section
/-! DEFINITION. What notices, indications and timers do to the holder view and to the station's own claim
(R123 to R135). -/

namespace Sys2Proof.Machine

/-! ### Following the view -/

/-- The station leaves HOLDING on a lost hold and tells the test sequencer (R134, R135). -/
def loseHold (s : State) : State := holdLost (leaveHolding s)

/-- The own claim state after a change of the view: QUEUED may enter TURN (R130), TAKING abandons to another holder
(R131), and HOLDING loses the hold (R134). R131 names a foreign HELD alone; that TAKING abandons in the same way when the
own hold ends in the view otherwise is the model's choice (DESIGN CHOICE, assumption 10). -/
def followOwn (s : State) : State :=
  match s.claims.own with
  | .queued => followTurn s
  | .taking => if s.claims.holder = some s.station then s else enterQueued s
  | .holding => if s.claims.holder = some s.station then s else loseHold s
  | _ => s

/-- A change of the holder view, with the turn timer and the own claim state following (R128). -/
def changeView (f : Claims → Claims) (s : State) : State := followOwn (setClaims (withTurn s.time f) s)

/-! ### Notices from other stations (R124 to R127, R131, R134) -/

/-- A CLAIM from another station (R124). -/
def heardClaim (k : StationNo) (p : Priority) (hold : Nat) : State → State := changeView (viewClaim k p hold)

/-- A TAKE from another station; one that leaves this station as holder is answered with a HELD (R125, R134). -/
def heardTake (k : StationNo) (hold : Nat) (s : State) : State :=
  let s1 := changeView (viewTake s.time k hold) s
  if s1.claims.holder = some s1.station then askNotice .held s1 else s1

/-- A HELD from another station (R126). -/
def heardHeld (k : StationNo) (remaining : Nat) (s : State) : State := changeView (viewHeld s.time k remaining) s

/-- A RELEASE from another station (R126). -/
def heardRelease (k : StationNo) : State → State := changeView (viewRelease k)

/-- The holding flag of a STATUS from another station (R127). -/
def heardStatus (k : StationNo) (holding : Bool) : State → State := changeView (viewStatus k holding)

/-- The report of a station's absence, or of its restart (R127). -/
def stationGone (k : StationNo) : State → State := changeView (viewGone k)

/-- The presence of a station as the peer table reports it (R123). -/
def setPresent (k : StationNo) (b : Bool) (s : State) : State :=
  setClaims (fun cl => { cl with present := put cl.present k b }) s

/-! ### The station's own notices (R34, R130, R132, R135) -/

/-- Whether the own entry stands in the claim queue. -/
def ownQueued (s : State) : Bool := s.claims.queue.any fun c => decide (c.station = s.station)

/-- A station back in QUEUED with its entry in the queue, or claiming again without one (R130, R132). -/
def backToQueued (s : State) : State :=
  if ownQueued s then followTurn (setClaims (fun cl => { cl with own := .queued }) s) else enterQueued s

/-- The end of the station's own CLAIM (R124, R130). -/
def ownClaimEnd (p : Priority) (hold : Nat) (s : State) : State := changeView (viewClaim s.station p hold) s

/-- TAKING entered at the end of the own TAKE: the own hold limit set, the confirm window started (R130, R131). -/
def enterTaking (hold : Nat) (s : State) : State :=
  setClaims (fun cl =>
    { cl with
      own := .taking, ownLimit := some (s.time + hold * 100), limitReached := false
      confirmAt := some (s.time + Config.confirmTime) }) s

/-- The end of the station's own TAKE (R125, R130). -/
def ownTakeEnd (hold : Nat) (s : State) : State :=
  let s1 := setClaims (withTurn s.time (viewTake s.time s.station hold)) s
  if s.claims.own = .turn then
    if s1.claims.holder = some s1.station then enterTaking hold s1 else backToQueued s1
  else followOwn s1

/-- The end of the station's own HELD: the view is set afresh from the remaining hold it carried (R126). -/
def ownHeldEnd (remaining : Nat) (s : State) : State := changeView (viewHeld s.time s.station remaining) s

/-- RELEASING ends: the state is NONE, and a recorded claim is acted on (R129, R135). That the claim in force, for which
the rules state no end after HOLDING, stands through RELEASING and ends here is the model's choice (DESIGN CHOICE,
assumption 10). -/
def endReleasing (s : State) : State :=
  let s1 := setClaims (fun cl => { cl with own := .none, inForce := none, recorded := none }) s
  match s.claims.recorded with
  | some t => claimFromNone t s1
  | none => s1

/-- Whether the RELEASE with which RELEASING ends is still to come: the release time runs, so that it has not been asked
for (R135 step 3), or it waits behind an earlier one (R28). -/
def releaseToCome (s : State) : Bool :=
  s.claims.releaseAt.isSome || (waitingNotices s.notices).any (isKind .release)

/-- The own RELEASE taken by the view, or its hold ended as if it had been (R126, R132). RELEASING ends with the RELEASE
that it asked for (R135 steps 3 and 4) and not with one left from an earlier give-up; that this is so of one discarded
too is deduced (assumption 11). -/
def ownHoldOver (f : Claims → Claims) (s : State) : State :=
  if s.claims.own = .releasing ∧ releaseToCome s = false then endReleasing (setClaims (withTurn s.time f) s)
  else changeView f s

/-- The end of the station's own RELEASE (R126, R135). -/
def ownReleaseEnd (s : State) : State := ownHoldOver (viewRelease s.station) s

/-- The claim that waited for two completed STATUS notices, asked for once they have (R129). -/
def releaseWaitingClaim (s : State) : State :=
  if s.claims.own = .none ∧ s.claims.waiting = true ∧ 2 ≤ s.notices.statusDone then enterQueued s else s

/-- The CLAIM that a discarded RELEASE left to be asked for at the end of the next STATUS (R132). That it is dropped
where the station has left QUEUED by then is deduced (assumption 11). -/
def reclaimAfterStatus (s : State) : State :=
  if s.claims.reclaim then
    let s1 := setClaims (fun cl => { cl with reclaim := false }) s
    if s1.claims.own = .queued then enterQueued s1 else s1
  else s

/-- The end of the station's own STATUS at the claim unit (R127, R129, R132). -/
def ownStatusEnd (holding : Bool) (s : State) : State :=
  reclaimAfterStatus (releaseWaitingClaim (changeView (viewStatus s.station holding) s))

/-- The hold ends in the station's own view if the station is its holder (R132). -/
def endOwnHold (k : StationNo) (cl : Claims) : Claims := if cl.holder = some k then endHold cl else cl

/-- What the claim unit does when one of its notices is discarded (R132). That it takes no action where R132's table has
no row, a RELEASE discarded in TAKING or HOLDING, a CLAIM in TURN, TAKING, HOLDING or RELEASING, a TAKE in QUEUED, TAKING,
HOLDING or RELEASING, is the model's choice (DESIGN CHOICE, assumption 11). R132 does not say which hold the new TAKE of
TURN carries where the claim in force has been changed since the discarded one was asked for (R129): that it carries the
hold of the claim in force as it then stands, as R130 has it on entering TURN, is the model's choice (DESIGN CHOICE,
assumption 11). -/
def noticeDiscarded (kind : NoticeKind) (s : State) : State :=
  match kind, s.claims.own with
  | .claim, .queued => enterQueued s
  | .take, .turn => if ownTurn s then askNotice (takeAsk s.claims) s else backToQueued s
  | .release, .releasing => ownHoldOver (endOwnHold s.station) s
  | .release, .queued =>
    if holdsInView s then
      changeView (endOwnHold s.station) (setClaims (fun cl => { cl with reclaim := true }) s)
    else s
  | .release, .none | .release, .turn => if holdsInView s then changeView (endOwnHold s.station) s else s
  | _, _ => s

/-- What the claim unit does when its RELEASE is absorbed (R30, R132): nothing in NONE. That it does nothing in QUEUED,
TURN, TAKING and HOLDING, which R132's row leaves out, is the model's choice (DESIGN CHOICE, assumption 11). A RELEASE
absorbed in RELEASING would leave it waiting for an end that never comes, so it ends RELEASING as a discarded one does,
unless another RELEASE is still to come (deduced, assumption 11). -/
def releaseAbsorbed (s : State) : State :=
  match s.claims.own with
  | .releasing => if releaseToCome s then s else ownHoldOver (endOwnHold s.station) s
  | _ => s

/-! ### Timers and levels -/

/-- The hold expiry of the view (R127). -/
def takeHoldExpiry : State → State := changeView endHold

/-- The lapse of a turn (R128). -/
def takeLapse : State → State := changeView viewLapse

/-- HOLDING entered: OCC_DRV driven, and the test sequencer told that the head is held (R131, R133). From then on
OCC_SNS is read all the time (R134); that it reads active as soon as OCC_DRV is driven, until an OCCUPANCY_LOSS says
otherwise, is the model's choice (assumption 16). -/
def enterHolding (s : State) : State :=
  headHeld (setClaims (fun cl =>
    { cl with own := .holding, occDriven := true, occSensed := true, confirmAt := none }) s)

/-- A busy line found at the end of the confirm window: OCCUPIED, a RELEASE, then a new CLAIM (R131). That nothing more is
done where a waiting CLAIM or TAKE of the station's own absorbs the RELEASE, the station staying holder in its own view, is
the model's choice: R132 has a row for NONE alone (DESIGN CHOICE, assumption 11). -/
def busyAtConfirm (s : State) : State :=
  enterQueued (askNotice .release (queueReport (.occupied .busyAtConfirm s.claims.inForce) s))

/-- The end of the confirm window, with OCC_SNS as it is read (R131). -/
def takeConfirm (occupied : Bool) (s : State) : State :=
  let s1 := setClaims (fun cl => { cl with occSensed := occupied }) s
  if occupied then busyAtConfirm s1 else enterHolding s1

/-- OCC_DRV released and a RELEASE asked for at the end of RELEASING's release time (R135). -/
def releaseOccupancy (s : State) : State :=
  let s1 := askNotice .release (setClaims (fun cl => { cl with occDriven := false }) s)
  if absorbsRelease s.notices then releaseAbsorbed s1 else s1

/-- The end of the relay release time (R133, R135). -/
def takeReleaseEnd (s : State) : State :=
  let s1 := setClaims (fun cl => { cl with releaseAt := none, connectWaits := none }) s
  if s.claims.own = .releasing then releaseOccupancy s1
  else match s.claims.connectWaits with
    | some l => connect l s1
    | none => s1

/-- Station time reaches the own hold limit in HOLDING (R134, R150). -/
def takeOwnLimit (s : State) : State := limitTaken (setClaims (fun cl => { cl with limitReached := true }) s)

/-- OCC_SNS reads inactive while OCC_DRV is driven in HOLDING (R134). -/
def takeOccupancyLoss (s : State) : State :=
  if s.claims.own = .holding ∧ s.claims.occDriven = true then
    loseHold (queueReport (.occupied .lostWhileHolding none) (setClaims (fun cl => { cl with occSensed := false }) s))
  else s

/-- HOLD_EXPIRY (R127). -/
def execHoldExpiry (s : State) : Host.Outcome State Fault Refusal :=
  .next (live (whenDue holdDue takeHoldExpiry) s)

/-- TURN_LAPSE (R128). -/
def execTurnLapse (s : State) : Host.Outcome State Fault Refusal :=
  .next (live (whenDue turnDue takeLapse) s)

/-- CONFIRM_WINDOW_END (R131). -/
def execConfirmWindowEnd (occupied : Bool) (s : State) : Host.Outcome State Fault Refusal :=
  .next (live (whenDue confirmDue (takeConfirm occupied)) s)

/-- RELAY_RELEASE_TIME_END (R135). -/
def execRelayReleaseTimeEnd (s : State) : Host.Outcome State Fault Refusal :=
  .next (live (whenDue releaseDue takeReleaseEnd) s)

/-- OWN_HOLD_LIMIT (R150). -/
def execOwnHoldLimit (s : State) : Host.Outcome State Fault Refusal :=
  .next (live (whenDue ownLimitDue takeOwnLimit) s)

/-- OCCUPANCY_LOSS (R134). -/
def execOccupancyLoss (s : State) : Host.Outcome State Fault Refusal := .next (live takeOccupancyLoss s)

end Sys2Proof.Machine
end

