-- ==== Sys2Proof/Machine/Share.lean ====
section
/-! DEFINITION. The arithmetic of the peer table and share unit: capacity, demand, water-fill, isolated share, and
the application of a share (chapter 3). -/

namespace Sys2Proof.Machine

/-! ### Capacity (R47, R48) -/

/-- The raw capacity C as it stands (R47). -/
def rawCapacity (s : State) : Nat :=
  match s.share.capacity.state, s.share.capacity.last with
  | .none, _ => s.settings.floor
  | _, some n => clamp s.settings.floor s.settings.ceiling (n * 64)
  | _, none => s.settings.floor

/-- The part of a capacity left after headroom (R48, R56). -/
def lessHeadroom (s : State) (c : Nat) : Nat := c * (100 - s.settings.headroom) / 100

/-- The isolated capacity (R56). -/
def isolatedCapacity (s : State) : Nat := lessHeadroom s s.settings.floor / s.settings.cabinet

/-! ### Water-fill (R52 to R54) -/

/-- A participant: its station number, advertised demand and weight (R52). -/
structure Participant where
  station : Nat
  demand  : Nat
  weight  : Nat
  deriving DecidableEq, Repr

/-- Whether participant i comes before j (R53). -/
def comesBefore (i j : Participant) : Bool :=
  decide (i.demand * j.weight < j.demand * i.weight) ||
    (decide (i.demand * j.weight = j.demand * i.weight) && decide (i.station < j.station))

/-- A participant placed into an ordered list. -/
def insertParticipant (p : Participant) : List Participant → List Participant
  | [] => [p]
  | q :: qs => if comesBefore p q then p :: q :: qs else q :: insertParticipant p qs

/-- The participants in order (R53). -/
def orderParticipants (ps : List Participant) : List Participant := ps.foldr insertParticipant []

/-- Whether an entry of the peer table takes part: the own entry, or a peer PRESENT or STALE, with a demand above
0 (R52). -/
def takesPart (own : StationNo) (k : StationNo) (p : Peer) : Bool :=
  decide (0 < p.demand) && (decide (k = own) || decide (p.presence = .present) || decide (p.presence = .stale))

/-- The participant set (R52). -/
def participants (own : StationNo) (peers : Table Peer 8) : List Participant :=
  (indices 8).filterMap fun k =>
    if takesPart own k (look peers k) then some ⟨k.val, (look peers k).demand, (look peers k).weight⟩ else none

/-- The walk with remaining capacity R and weight S: each participant with the value it is given (R54). -/
def walk : Nat → Nat → List Participant → List (Participant × Nat)
  | _, _, [] => []
  | r, w, p :: ps =>
    if p.demand ≤ r * p.weight / w then (p, p.demand) :: walk (r - p.demand) (w - p.weight) ps
    else (p :: ps).map fun q => (q, r * q.weight / w)

/-- The values given by one water-fill (R52 to R54). -/
def waterFill (capacity : Nat) (ps : List Participant) : List (Participant × Nat) :=
  walk capacity ((ps.map (·.weight)).sum) (orderParticipants ps)

/-- The value given to a station; 0 if it is no participant (R52, R54). -/
def givenTo (station : Nat) (given : List (Participant × Nat)) : Nat :=
  ((given.find? fun g => g.1.station == station).map (·.2)).getD 0

/-- The computed share of a state, before the clamp of R55 (R52, R54, R56). -/
def shareOf (s : State) : Nat :=
  match s.notices.condition with
  | .isolated => min (look s.share.peers s.station).demand (isolatedCapacity s)
  | _ => givenTo s.station.val
      (waterFill (lessHeadroom s (rawCapacity s)) (participants s.station s.share.peers))

/-! ### Applying a share (R58 to R60) -/

/-- A change of A handed to the scheduler; without a change nothing is handed (R60). -/
def changeAllowance (new : Nat) (s : State) : State :=
  if new = s.share.allowance then s
  else setSched (takeAllowance new) (setShare (fun sh => { sh with allowance := new }) s)

/-- The pending rise after a share above A (R58). -/
def raiseRise (due v : Nat) : Option Rise → Rise
  | none => ⟨v, due⟩
  | some r => ⟨v, if r.target < v then due else r.due⟩

/-- A computed share applied to A (R58). -/
def applyShare (v : Nat) (s : State) : State :=
  if v ≤ s.share.allowance then
    setShare (fun sh => { sh with rise := none }) (changeAllowance v s)
  else setShare (fun sh => { sh with rise := some (raiseRise (s.time + period s.settings) v sh.rise) }) s

/-- A recomputation of the share, and its application (R55, R57). -/
def recompute (s : State) : State :=
  let c := rawCapacity s
  let v := min Config.portRate (shareOf s)
  applyShare v (setShare (fun sh => { sh with share := v, usedC := c, effective := lessHeadroom s c }) s)

/-- The sum of the reported allowances of the peers PRESENT or STALE (R59). -/
def peerAllowances (own : StationNo) (peers : Table Peer 8) : Nat :=
  ((indices 8).map fun k =>
    let p := look peers k
    if k ≠ own ∧ (p.presence = .present ∨ p.presence = .stale) then p.allowance else 0).sum

/-- The capacity and the peers' sum that a rise check uses (R59). -/
def riseRoom (s : State) : Nat × Nat :=
  match s.notices.condition with
  | .isolated => (isolatedCapacity s, 0)
  | _ => (rawCapacity s, peerAllowances s.station s.share.peers)

/-- The allowance that a rise check leaves (R59). -/
def risenAllowance (s : State) (target : Nat) : Nat :=
  let (c, p) := riseRoom s
  if p < c then max s.share.allowance (min target (c - p)) else s.share.allowance

/-! ### Demand (R49 to R51) -/

/-- The line cap of a line in service (R49). -/
def lineCap (r : LineRec) : Nat :=
  let cap := lineRate r.profile r.service
  match r.attainable with
  | some a => min cap a
  | none => cap

/-- The sample of a line, clamped to its cap (R49). -/
def demandSample (period : Nat) (r : LineRec) : Nat := min (lineCap r) (r.offered * 8 / period)

/-- The demand estimate moved a quarter of the way toward a sample, the step rounded up (R50). -/
def smooth (d sample : Nat) : Nat :=
  if d ≤ sample then d + ceilDiv (sample - d) 4 else d - ceilDiv (d - sample) 4

/-- A line's demand update and the clearing of its offered-byte count at an expiry (R49, R50). -/
def updateDemand (period : Nat) (r : LineRec) : LineRec :=
  { r with
    demand := if inService r.service then smooth r.demand (demandSample period r) else 0
    offered := 0 }

/-- A rate rounded up to a multiple of 8 kbit/s (R51). -/
def roundUp8 (n : Nat) : Nat := ceilDiv n 8 * 8

/-- The advertised demand of a state (R51). -/
def advertised (s : State) : Nat :=
  let lines := ((indices 12).map fun l => (lineOf s l).demand).sum
  let extra := if s.store.um.isEmpty && s.mgmt.reports.isEmpty then 0 else 256
  roundUp8 (min Config.demandMax (lines + extra))

end Sys2Proof.Machine
end

