-- ==== Sys2Proof/Machine/ShareEvents.lean ====
section
/-! DEFINITION. The peer table: notices taken into it, presence, the capacity view, and the events of the share unit
(R36, R41 to R51, R57 to R59). -/

namespace Sys2Proof.Machine

/-! ### Peer entries (R42 to R45) -/

/-- A peer entry changed. -/
def setPeer (k : StationNo) (f : Peer → Peer) (s : State) : State :=
  setShare (fun sh => { sh with peers := alter sh.peers k f }) s

/-- The sequence of a notice tracked in its sender's entry; `afresh` stands for a STATUS with the restart flag set
(R44). -/
def trackSequence (n : Nat) (afresh : Bool) (p : Peer) : Peer :=
  { p with
    lastSequence := some n
    missed := match p.lastSequence with
      | none => p.missed
      | some m =>
        let gap := (n + 256 - m) % 256
        if p.presence = .absent ∨ afresh = true ∨ gap ≤ 1 then p.missed else satAdd 255 p.missed (gap - 1) }

/-- The fields of a STATUS stored (R42 step 2). -/
def storeStatus (time weight demand allowance : Nat) (holding : Bool) (p : Peer) : Peer :=
  { p with
    demand := demand * 8, weight := weight, holding := holding, allowance := allowance * 8, lastStatus := some time }

/-- The presence state after a good STATUS (R43). -/
def presenceAfterStatus : Presence → Presence
  | .absent => .joining
  | _ => .present

/-- The claim unit told of a change to or from ABSENT (R43). -/
def tellPresence (k : StationNo) (old new : Presence) (s : State) : State :=
  if new = .absent then stationGone k (setPresent k false s)
  else if old = .absent then setPresent k true s
  else s

/-- A presence state taken; a change is reported, recomputes the share and is told to the claim unit (R43). -/
def setPresence (k : StationNo) (new : Presence) (s : State) : State :=
  let old := (peerOf s k).presence
  if new = old then s
  else tellPresence k old new (recompute (queueReport (.peer k old new)
    (setPeer k (fun p =>
      { p with presence := new, joinedAt := if new = .joining then some s.time else p.joinedAt }) s)))

/-- A good STATUS from a peer taken by the peer table (R42). -/
def peerStatus (k : StationNo) (sequence : Nat) (restart holding : Bool) (weight demand allowance : Nat) (s : State) :
    State :=
  let s1 := setPeer k (fun p => storeStatus s.time weight demand allowance holding (trackSequence sequence restart p)) s
  let s2 := setPresence k (presenceAfterStatus (peerOf s1 k).presence) s1
  recompute (if restart then stationGone k s2 else s2)

/-- A good CAPACITY notice taken (R46). -/
def takeCapacity (value : Nat) (s : State) : State :=
  recompute (setShare (fun sh => { sh with capacity := ⟨.current, some value, some s.time⟩ }) s)

/-- The end of the station's own STATUS at its own entry (R45). -/
def ownStatusEntry (sequence : Nat) (holding : Bool) (s : State) : State :=
  recompute (setPeer s.station (fun p =>
    { p with lastStatus := some s.time, holding := holding, lastSequence := some sequence }) s)

/-! ### Presence and capacity timers (R43, R46) -/

/-- The expiry of a peer's presence timer (R43). -/
def takePresenceExpiry (k : StationNo) (s : State) : State :=
  setPresence k (match (peerOf s k).presence with
    | .present => .stale
    | _ => .absent) s

/-- The expiry of the capacity view's timer (R46). -/
def takeCapacityExpiry (s : State) : State :=
  setShare (fun sh =>
    { sh with capacity := { sh.capacity with
        state := match sh.capacity.state with
          | .current => .stale
          | _ => .none } }) s

/-! ### The notice period (R36, R45, R49 to R51) -/

/-- The demand update of every line, with its offered-byte count cleared (R49, R50). -/
def updateDemands (s : State) : State := setAllLines (fun _ r => updateDemand (period s.settings) r) s

/-- The advertised demand and the station weight written into the own entry (R45, R51). -/
def advertise (demand : Nat) (s : State) : State :=
  setPeer s.station (fun p => { p with demand := demand, weight := s.settings.weight }) s

/-- A STATUS asked for, with the values that stand, and its allowance written into the own entry (R45, R51). -/
def askStatus (s : State) : State :=
  let demand := (peerOf s s.station).demand
  let a := roundUp8 s.share.allowance
  askNotice (.status s.settings.weight (demand / 8) (a / 8)) (setPeer s.station (fun p => { p with allowance := a }) s)

/-- The work of one expiry of the notice-period timer (R51). -/
def noticePeriodWork (s : State) : State :=
  let s1 := updateDemands s
  askStatus (recompute (advertise (advertised s1) s1))

/-- An expiry of the notice-period timer, which runs on from the time at which it was due (R36). -/
def takeNoticePeriod (s : State) : State :=
  noticePeriodWork (setShare (fun sh => { sh with periodAt := sh.periodAt.map (· + period s.settings) }) s)

/-! ### The rise check (R59) -/

/-- The rise check of a pending rise (R59). -/
def takeRiseCheck (s : State) : State :=
  match s.share.rise with
  | none => s
  | some r =>
    setShare (fun sh => { sh with rise := none }) (changeAllowance (risenAllowance s r.target) s)

/-- NOTICE_PERIOD_EXPIRY (R36, R51). -/
def execNoticePeriodExpiry (s : State) : Host.Outcome State Fault Refusal :=
  .next (live (whenDue periodDue takeNoticePeriod) s)

/-- PRESENCE_TIMER_EXPIRY (R43). -/
def execPresenceTimerExpiry (k : StationNo) (s : State) : Host.Outcome State Fault Refusal :=
  .next (live (whenDue (presenceDue · k) (takePresenceExpiry k)) s)

/-- CAPACITY_VIEW_EXPIRY (R46). -/
def execCapacityViewExpiry (s : State) : Host.Outcome State Fault Refusal :=
  .next (live (whenDue capacityDue takeCapacityExpiry) s)

/-- RISE_CHECK (R59). -/
def execRiseCheck (s : State) : Host.Outcome State Fault Refusal :=
  .next (live (whenDue riseDue takeRiseCheck) s)

end Sys2Proof.Machine
end

