-- ==== Sys2Proof/Machine/BusEvents.lean ====
section
/-! DEFINITION. The events of the notice interface: reading and quiet, the ends of notices, completion and contention
loss, and the bus condition (chapter 2). -/

namespace Sys2Proof.Machine

/-! ### Bus condition (R38) -/

/-- The bus condition taken; a change is reported and recomputes the share (R38). -/
def setCondition (new : BusCondition) (s : State) : State :=
  let old := s.notices.condition
  if new = old then s
  else recompute (queueReport (.busCondition old new) (setNotices (fun n => { n with condition := new }) s))

/-- A good notice that counts for the bus condition (R38, R39). -/
def countNotice (s : State) : State :=
  if s.settings.cabinet ≤ 1 then s
  else setCondition .joined
    (setNotices (fun n => { n with isolationAt := some (s.time + 4 * period s.settings) }) s)

/-- The expiry of the isolation timer (R38). -/
def takeIsolation (s : State) : State :=
  setCondition .isolated (setNotices (fun n => { n with isolationAt := none }) s)

/-! ### Reception (R32, R33, R35) -/

/-- A DUPLICATE NUMBER report, unless one was queued less than T_n ago (R35). -/
def reportDuplicate (g : GoodNotice) (s : State) : State :=
  if s.notices.duplicateUntil.isSome then s
  else setNotices (fun n => { n with duplicateUntil := some (s.time + period s.settings) })
    (queueReport (.duplicateNumber (heardKind g.heard) g.sequence) s)

/-- A notice of a peer handed to the claim unit (R33). -/
def handToClaims (k : StationNo) (h : Heard) : State → State :=
  match h with
  | .status _ holding _ _ _ => heardStatus k holding
  | .capacity _ => fun s => s
  | .claim p hold => heardClaim k p hold
  | .take hold => heardTake k hold
  | .held remaining => heardHeld k remaining
  | .release => heardRelease k

/-- A notice of a peer handed to the peer table (R33). -/
def handToPeers (k : StationNo) (sequence : Nat) (h : Heard) : State → State :=
  match h with
  | .status restart holding weight demand allowance => peerStatus k sequence restart holding weight demand allowance
  | _ => setPeer k (trackSequence sequence false)

/-- A good notice handed to the blocks that act on it; they ignore one that carries the station's own number (R33,
R45, R123). -/
def handOn (g : GoodNotice) (s : State) : State :=
  match g.heard with
  | .capacity value => takeCapacity value s
  | h =>
    if hs : g.sender.val < 8 then
      let k : StationNo := ⟨g.sender.val, hs⟩
      if k = s.station then s else handToClaims k h (handToPeers k g.sequence h s)
    else s

/-- A good notice that the station did not send (R33). -/
def takeGood (g : GoodNotice) (s : State) : State :=
  let s1 := setNotices (heardFrom g.sender) s
  let s2 := if g.sender.val = s.station.val then reportDuplicate g s1 else s1
  handOn g (countNotice s2)

/-- A bad notice (R32). -/
def takeBad (s : State) : State := setNotices (fun n => { n with badNotices := satAdd 65535 n.badNotices 1 }) s

/-- The end of a notice that the station did not send, framed from the levels read on CB_RX (R18, R19, R32). Before the
first ten recessive bits nothing is framed (R25); while the station's own attempt stands, the notice on the bus is its
own; levels in which no notice has ended end none. -/
def takeNotice (levels : List Bool) (s : State) : State :=
  if s.notices.framing && !s.notices.attempt.isSome && (frameLevels levels).ended then
    let s1 := setNotices noticeEnded s
    match heardNotice levels with
    | some g => takeGood g s1
    | none => takeBad s1
  else s

/-! ### The station's own attempts (R26, R27, R34) -/

/-- A completed own notice handed to the station's own blocks (R34). -/
def handOwn (a : Ask) (t : Attempt) (s : State) : State :=
  match a with
  | .status .. =>
    ownStatusEnd t.holding (ownStatusEntry t.sequence t.holding
      (setNotices (fun n => { n with statusDone := satAdd 2 n.statusDone 1 }) s))
  | .claim p hold => ownClaimEnd p hold s
  | .take hold => ownTakeEnd hold s
  | .held => ownHeldEnd t.remaining s
  | .release => ownReleaseEnd s

/-- The notice in flight leaves the queue at its completion, with p and the last completed sequence (R31, R34). -/
def completeAttempt (station : StationNo) (t : Attempt) (n : Notices) : Notices :=
  { noticeEnded n with
    queue := n.queue.drop 1, attempt := none, lastSender := ⟨station.val, by omega⟩, lastSequence := t.sequence }

/-- NOTICE_COMPLETION's effect (R34). -/
def takeCompletion (s : State) : State :=
  match s.notices.attempt, s.notices.queue with
  | some t, e :: _ => handOwn e.ask t (setNotices (completeAttempt s.station t) s)
  | _, _ => s

/-- Whether an attempt stands in the bit time of its first start bit, which CB_TX gives in the attempt's first two half
bit times (R18). -/
def inFirstBit (t : Attempt) : Bool := decide (t.elapsed < 2)

/-- The attempt ends by contention loss, and the queue is settled (R26, R31). That the bit on which the loss came is the one
whose bit time the attempt's age gives, the bit that CB_TX then gives, is the model's choice (DESIGN CHOICE, assumption
27). Behind its first start bit the attempt has been read as a notice on the bus, its own part of it if
nothing else, which is received to its end. The first start bit is sent dominant, so a loss on it has read a recessive
bus, on which no notice has begun (R19): the quiet since the end of the last notice goes on through the attempt (R22),
and the station's gap expires again as R23 has it, at once, since it had passed before (deduced, assumption 27). -/
def loseAttempt (queue : List OutNotice) (t : Attempt) (n : Notices) : Notices :=
  { n with
    queue := queue, attempt := none, receiving := !inFirstBit t, gapPassed := false
    quiet := if inFirstBit t then n.quiet + t.elapsed else n.quiet }

/-- A discarded notice reported and told to the claim unit (R27, R132). -/
def reportDropped (e : OutNotice) (s : State) : State :=
  noticeDiscarded (askKind e.ask) (queueReport (.noticeDropped (askKind e.ask) e.losses) s)

/-- CONTENTION_LOSS's effect (R26, R27, R31). -/
def takeLoss (s : State) : State :=
  match s.notices.attempt, s.notices.queue with
  | some t, e :: waiting =>
    let r := settleLoss { e with losses := e.losses + 1 } waiting
    let s1 := setNotices (loseAttempt r.queue t) s
    let s2 := match r.dropped with
      | some d => reportDropped d s1
      | none => s1
    if r.absorbed then releaseAbsorbed s2 else s2
  | _, _ => s

/-! ### Quiet (R22 to R25) -/

/-- The station's gap passes on a recessive bus (R23). -/
def takeGap (s : State) : State := startHead (setNotices (fun n => { n with gapPassed := true }) s)

/-- 2,000 recessive bit times since the last notice, or since reading began (R22, R25); the longest gap has passed by
then. -/
def takeQuiet (s : State) : State :=
  startHead (setNotices (fun n =>
    { n with lastSender := 8, permitted := true, gapPassed := true, quietTaken := true }) s)

/-- Ten recessive bit times read since the configuration read (R25). -/
def takeRecessiveRun (s : State) : State :=
  if s.notices.framing then s else setNotices (fun n => { n with framing := true, quiet := 20 }) s

/-- A start bit of another party's notice (R19, R24). -/
def takeStartBit (s : State) : State :=
  if s.notices.framing && !s.notices.attempt.isSome then
    setNotices (fun n => { n with receiving := true, gapPassed := false, quiet := 0 }) s
  else s

/-! ### The commands -/

/-- FIRST_RECESSIVE_RUN (R25). -/
def execFirstRecessiveRun (s : State) : Host.Outcome State Fault Refusal := .next (live takeRecessiveRun s)

/-- NOTICE_END (R32). -/
def execNoticeEnd (levels : List Bool) (recessive : Nat) (s : State) : Host.Outcome State Fault Refusal :=
  .next (live (takeNotice (busLevels levels recessive)) s)

/-- DUPLICATE_NUMBER_HOLDOFF_EXPIRY (R35). -/
def execDuplicateNumberHoldoffExpiry (s : State) : Host.Outcome State Fault Refusal :=
  .next (live (whenDue duplicateDue (setNotices fun n => { n with duplicateUntil := none })) s)

/-- NOTICE_COMPLETION (R34). -/
def execNoticeCompletion (s : State) : Host.Outcome State Fault Refusal := .next (live takeCompletion s)

/-- CONTENTION_LOSS (R26). -/
def execContentionLoss (s : State) : Host.Outcome State Fault Refusal := .next (live takeLoss s)

/-- ACCESS_GAP_EXPIRY (R23). -/
def execAccessGapExpiry (s : State) : Host.Outcome State Fault Refusal :=
  .next (live (whenDue gapDue takeGap) s)

/-- BUS_QUIET_TIMEOUT (R22). -/
def execBusQuietTimeout (s : State) : Host.Outcome State Fault Refusal :=
  .next (live (whenDue quietDue takeQuiet) s)

/-- ISOLATION_TIMER_EXPIRY (R38). -/
def execIsolationTimerExpiry (s : State) : Host.Outcome State Fault Refusal :=
  .next (live (whenDue isolationDue takeIsolation) s)

/-- START_BIT_READ (R24). -/
def execStartBitRead (s : State) : Host.Outcome State Fault Refusal := .next (live takeStartBit s)

end Sys2Proof.Machine
end

