-- ==== Sys2Proof/Machine/Delivery.lean ====
section
/-! DEFINITION. The line-port transmitters (6.4). -/

namespace Sys2Proof.Machine

/-- The look of a line-port transmitter at the head of its queue (R73, R102). -/
def lookDown (l : Line) (s : State) : State :=
  let r := lookAt s.time s.settings.sojourn true (look s.store.down l)
  releaseEntries r.gone
    (setLine l (fun x => { x with ageDiscard := tallyBy x.ageDiscard r.old })
      (setStore (fun st => { st with down := put st.down l r.kept }) s))

/-- The head taken for transmission, if one is left: the queue entry gives up its reference and the transmitter
takes one (R72, R102). -/
def takeDown (l : Line) (s : State) : State :=
  match look s.store.down l with
  | [] => s
  | e :: rest =>
    setDist (fun d => { d with sending := put d.sending l (some e) })
      (setStore (fun st => { st with down := put st.down l rest }) s)

/-- The conditions under which a transmitter looks at its queue (R102). -/
def mayTake (s : State) (l : Line) : Bool :=
  (look s.dist.sending l).isNone && look s.dist.ready l && !(look s.store.down l).isEmpty

/-- A frame is to be taken: the transmitter is IDLE and the queue of its line holds a frame (R102, R103). -/
def wantsFrame (s : State) (l : Line) : Bool := (look s.dist.sending l).isNone && !(look s.store.down l).isEmpty

/-- LP_RDY read, which a transmitter does only when a frame is to be taken (R103): the level as last read becomes that of
the pin (R104). That this is at every check with the transmitter IDLE and a frame in the queue is deduced (assumption
16). -/
def readReady (l : Line) (s : State) : State :=
  if wantsFrame s l then setDist (fun d => { d with lastReady := put d.lastReady l (look d.ready l) }) s else s

/-- A frame taken where all three conditions of R102 hold. -/
def takeIfReady (l : Line) (s : State) : State := if mayTake s l then takeDown l (lookDown l s) else s

/-- The check of a line-port transmitter: LP_RDY read if a frame is to be taken, and the frame taken if it is asserted
(R102, R103). -/
def checkPort (l : Line) (s : State) : State := takeIfReady l (readReady l s)

/-- The level on the LP_RDY pin. The transmitter reads it at its checks alone (R103). -/
def setReady (l : Line) (b : Bool) (s : State) : State := setDist (fun d => { d with ready := put d.ready l b }) s

/-- The last byte of a line-port frame: CLOSE, the reference given up, and the next check (R103, R174). -/
def completeDown (l : Line) (s : State) : State :=
  match look s.dist.sending l with
  | none => s
  | some e =>
    checkPort l (releaseChain e.cells (setDist (fun d =>
      { d with sending := put d.sending l none, lastEnd := put d.lastEnd l (some .close) }) s))

/-- LP_RDY_ASSERTED (R102). -/
def execLpRdyAsserted (l : Line) (s : State) : Host.Outcome State Fault Refusal :=
  .next (live (fun s => checkPort l (setReady l true s)) s)

/-- LP_RDY_WITHDRAWN (R103). -/
def execLpRdyWithdrawn (l : Line) (s : State) : Host.Outcome State Fault Refusal := .next (live (setReady l false) s)

/-- LINE_PORT_TRANSMISSION_COMPLETE (R103). -/
def execLinePortTransmissionComplete (l : Line) (s : State) : Host.Outcome State Fault Refusal :=
  .next (live (completeDown l) s)

end Sys2Proof.Machine
end

