-- ==== Sys2Proof/Machine/StartEvents.lean ====
section
/-! DEFINITION. Starts: PWRGOOD, the restart, and the end of the configuration read (R169 to R171). -/

namespace Sys2Proof.Machine

/-! ### Steps 1 and 2 of a start (R171) -/

/-- A POWER-ON start at a rising edge of PWRGOOD: every block takes its POWER-ON values, and the configuration read
is under way. The commands that wait are outside the part and stand. -/
def powerUp (s : State) : State := { State.reset with pending := s.pending }

/-- A line record at the beginning of a RESTART start: the barred and hazard flags are kept (R17). -/
def restartLine (r : LineRec) : LineRec := startLine r.equipped r.profile r.barred r.hazard

/-- A RESTART start: every block takes its RESTART values, and the configuration read is under way. Step memory, the
line map, the results and the barred and hazard flags are kept (R171). -/
def restartNow (s : State) : State :=
  { s with
    power := .reading, start := .restart, time := 0, micros := 0, prescale := 0
    lines := tabulate 12 fun l => restartLine (look s.lines l)
    notices := startNotices, share := startShare s.station s.settings.weight, store := startStore
    sched := startScheduler fun l => (look s.lines l).profile.burst
    dist := startDistributor s.dist.map, sup := filled 12 startSupervision, claims := startClaims s.station
    seq := startSequencer s.seq.steps, meas := startMeasurement s.meas.results s.meas.lastRuns
    mgmt := startManagement }

/-- A RESTART start at the end of the restart wait (R166, R171). -/
def beginRestart (s : State) : State :=
  match s.mgmt.wait with
  | .none => s
  | _ => if s.power = .running then restartNow s else s

/-- The chains that the receptions and the transmitters hold, beside the queues: of the line receptions, the uplink
reception, the frame in flight and the frames on the line ports (R63). -/
def heldChains (s : State) : List (List CellNo) :=
  ((indices 12).map fun l => lineRxCells (look s.store.lineRx l)) ++ [uplinkRxCells s.store.uplinkRx] ++
    (s.sched.inFlight.map (·.cells)).toList ++ (indices 12).filterMap fun l => (look s.dist.sending l).map (·.cells)

/-- The store once every reception and every transmission has been cut off: each gives up its reference, and no report
is offered the room (R63, R171). The order in which their cells return is the model's choice (assumption 24). -/
def cutStore (s : State) : Store :=
  { (heldChains s).foldl (fun st cells => dropHolder cells st) s.store with
    lineRx := filled 12 .idle, uplinkRx := .idle }

/-- A fall of PWRGOOD: the part is held, its outputs inactive, and everything in progress cut off (R171), the turn of the
scheduler too, which is the model's choice (DESIGN CHOICE, assumption 22). -/
def cutOff (s : State) : State :=
  { s with
    power := .held
    notices := { s.notices with attempt := none, receiving := false }
    store := cutStore s
    sched := { s.sched with inFlight := none, turn := .idle }
    dist := { s.dist with sending := filled 12 none }
    claims := { s.claims with relay := none, stimulus := .none, occDriven := false } }

/-! ### Steps 3 to 6 of a start (R169 to R171) -/

/-- The loader after the read (R169, R170). -/
def loaded (straps : BitVec 3) (b : List Byte) : Loader :=
  ⟨(takeImage b).settings, ⟨straps.toNat, straps.isLt⟩, imageFault b, (takeImage b).clamped⟩

/-- A line record as delivered: equipped bit and profile from the image, the flags as they stand, every input and
count at its starting value (R17). -/
def deliverLine (img : Image) (s : State) (l : Line) : LineRec :=
  startLine (look img.equipped l) (look img.profiles l) (look s.lines l).barred (look s.lines l).hazard

/-- The notice interface as the ports become active (R22, R38, R39). -/
def openNotices (time : Nat) (set : Settings) : Notices :=
  { startNotices with
    condition := if set.cabinet ≤ 1 then .joined else .listening
    isolationAt := if set.cabinet ≤ 1 then none else some (time + 4 * period set) }

/-- The share unit as the notice-period timer starts (R36, R61). -/
def openShare (time : Nat) (own : StationNo) (set : Settings) : Share :=
  { startShare own set.weight with periodAt := some (time + period set) }

/-- The scheduler with the lines' bursts delivered and the M counter given 256 kbit/s (R80, R93). -/
def openScheduler (img : Image) : Scheduler :=
  let sc := startScheduler fun l => (look img.profiles l).burst
  { sc with counters := alter sc.counters 12 (giveRate Config.managementRate) }

/-- Every block with its settings from the image, and the ports active (R171 steps 4 and 6). -/
def deliver (straps : BitVec 3) (b : List Byte) (s : State) : State :=
  let img := takeImage b
  let ld := loaded straps b
  { s with
    power := .running, loader := ld
    lines := tabulate 12 (deliverLine img s)
    notices := openNotices s.time ld.settings, share := openShare s.time ld.station ld.settings
    sched := openScheduler img
    dist := startDistributor (startMap s.start ld.settings.mgmtTag s.dist.map img.map)
    claims := startClaims ld.station }

/-- The start reports: STARTED, and CONFIG DEFAULTED behind it (R171 step 5). -/
def startReports (s : State) : State :=
  let s1 := queueReport (.started s.start s.station s.loader.defaulted.isSome s.loader.clamped) s
  match s.loader.defaulted with
  | some cause => queueReport (.configDefaulted cause) s1
  | none => s1

/-- The end of the configuration read (R169 to R171). -/
def endRead (straps : BitVec 3) (b : List Byte) (s : State) : State :=
  if s.power = .reading then settle (startReports (deliver straps b s)) else s

/-! ### The commands -/

/-- POWER_ON (R171). -/
def execPowerOn (s : State) : Host.Outcome State Fault Refusal := .next (powerUp s)

/-- PWRGOOD_FALL (R171). -/
def execPwrgoodFall (s : State) : Host.Outcome State Fault Refusal := .next (cutOff s)

/-- RESTART_START (R171). -/
def execRestartStart (s : State) : Host.Outcome State Fault Refusal := .next (beginRestart s)

/-- CONFIGURATION_READ_END (R169). -/
def execConfigurationReadEnd (straps : BitVec 3) (image : Vector Byte 256) (s : State) :
    Host.Outcome State Fault Refusal := .next (endRead straps image.toList s)

/-- The restart wait ends at the 100 ms mark (R166). -/
def endWait (m : Management) : Management :=
  match m.wait with
  | .waiting _ => { m with wait := .ended }
  | _ => m

/-- RESTART_WAIT_TIMEOUT (R166). -/
def execRestartWaitTimeout (s : State) : Host.Outcome State Fault Refusal :=
  .next (live (whenDue restartDue (setMgmt endWait)) s)

end Sys2Proof.Machine
end

