-- ==== Sys2Proof/Machine/PacingEvents.lean ====
section
/-! DEFINITION. The events of the upstream scheduler: pacing underflows and the completion of a frame on the uplink
port (chapter 5). -/

namespace Sys2Proof.Machine

/-- An underflow of a line's or M's counter: a quantum refills the bucket, and the counter goes on (R77, R79, R81). -/
def underflowEntry (e : RoundEntry) (s : State) : State :=
  setSched (fun sc =>
    { sc with
      levels := alter sc.levels e (refill (entryDepth s e))
      counters := alter sc.counters e underflowCounter }) s

/-- An underflow of the station counter; a refill that brings the level above 0 is a start opportunity of a paused
turn (R77, R79, R81, R88). -/
def underflowStation (s : State) : State :=
  let s1 := setSched (fun sc =>
    { sc with
      stationLevel := refill sc.stationDepth sc.stationLevel
      stationCounter := underflowCounter sc.stationCounter }) s
  if s1.sched.turn = .paused ∧ 0 < s1.sched.stationLevel then startOpportunity s1 else s1

/-- An underflow of a counter; only a RUNNING one counts (R77). -/
def takeUnderflow (p : Pacer) (s : State) : State :=
  match p with
  | .entry e => if (look s.sched.counters e).running then underflowEntry e s else s
  | .station => if s.sched.stationCounter.running then underflowStation s else s

/-- The restart wait ended by the completion of its DONE response (R166). -/
def endWaitFor (f : UplinkFrame) (s : State) : State := if f.endsWait then setMgmt endWait s else s

/-- The last byte of the frame in flight: CLOSE, the reference given up, and a start opportunity of the entry that
holds the turn (R72, R91, R174). -/
def completeUp (s : State) : State :=
  match s.sched.inFlight with
  | none => s
  | some f =>
    let s1 := endWaitFor f (releaseChain f.cells
      (setSched (fun sc => { sc with inFlight := none, lastEnd := some .close }) s))
    if s1.sched.turn = .idle then s1 else startOpportunity s1

/-- PACING_UNDERFLOW (R79). -/
def execPacingUnderflow (p : Pacer) (s : State) : Host.Outcome State Fault Refusal :=
  .next (live (takeUnderflow p) s)

/-- UPLINK_TRANSMISSION_COMPLETE (R91). -/
def execUplinkTransmissionComplete (s : State) : Host.Outcome State Fault Refusal := .next (live completeUp s)

end Sys2Proof.Machine
end

