-- ==== Sys2Proof/Machine/FrameEvents.lean ====
section
/-! DEFINITION. Reception of frames on the line ports and the uplink port: headers, admission, further cells, ends
and aborts (4.3, 6.3, R174). -/

namespace Sys2Proof.Machine

/-! ### Shared parts -/

/-- The state of a line port's reception replaced. -/
def setLineRx (l : Line) (r : LineRx) (s : State) : State :=
  setStore (fun st => { st with lineRx := put st.lineRx l r }) s

/-- The state of the uplink port's reception replaced. -/
def setUplinkRx (r : UplinkRx) (s : State) : State := setStore (fun st => { st with uplinkRx := r }) s

/-- One more frame in the station's malformed tally (R99, R100). -/
def countMalformed (s : State) : State := setDist (fun d => { d with malformed := tally d.malformed }) s

/-- One more frame in the station's unmapped tally (R99). -/
def countUnmapped (s : State) : State := setDist (fun d => { d with unmapped := tally d.unmapped }) s

/-- Whether the free list lets a line frame start (R67). -/
def aboveReserve (st : Store) : Bool := decide (Config.reserve ≤ st.free.length)

/-- A frame's first cell taken and its first byte stored (R62, R67). -/
def storeFirst (c : CellNo) (b : Byte) (st : Store) : Store :=
  { st with memory := memWrite st.memory (cellAddress c 0) b }

/-- A further cell taken and 256 bytes stored from byte `count` on (R68). -/
def storeMore (cells : List CellNo) (count : Nat) (bytes : List Byte) (st : Store) : Store :=
  { st with memory := writeFrame cells st.memory count bytes }

/-! ### Headers (R99 to R101) -/

/-- Whether a length field can be a stored frame's (R100). -/
def goodLength (n : Nat) : Bool := decide (Config.minFrame ≤ n) && decide (n ≤ Config.maxFrame)

/-- The classification of a frame at the end of its header (R99, R100). -/
def classify (tag : Nat) (kind : Byte) (length : Nat) (s : State) : State :=
  if kind = 3 then
    if tag = s.settings.mgmtTag then setUplinkRx (.request length [] 0) s
    else countMalformed (setUplinkRx .discarding s)
  else if kind = 1 ∨ kind = 2 then
    if !goodLength length then countMalformed (setUplinkRx .discarding s)
    else if kind = 2 then setUplinkRx (.floodHeader length) s
    else match holderOfTag s.dist.map tag with
      | some (_, e) => setUplinkRx (.dataHeader e.line e.cls length) s
      | none => countUnmapped (setUplinkRx .discarding s)
  else countMalformed (setUplinkRx .discarding s)

/-- The end of a header of five bytes: tag in bytes 0 and 1, kind in byte 2, length in bytes 3 and 4 (R1, 12.3). A
header ends only between frames. -/
def takeHeader (header : List Byte) (s : State) : State :=
  match s.store.uplinkRx with
  | .idle | .discarding => classify (fieldAt header 0 2) (byteAt header 2) (fieldAt header 3 2) s
  | _ => s

/-! ### Admission (R67, R70) -/

/-- Whether an upstream frame of a line is admitted (R13, R67). -/
def admitsUp (s : State) (l : Line) : Bool :=
  inService (lineOf s l).service && decide (upCells s.store l < (lineOf s l).profile.upLimit) && aboveReserve s.store

/-- Whether a line's downstream queue is in service and under its limit (R14, R67, R70). -/
def openDown (s : State) (l : Line) : Bool :=
  inService (lineOf s l).service && decide (downCells s.store l < (lineOf s l).profile.downLimit)

/-- The target set of a FLOOD frame (R70). -/
def floodTargets (s : State) : List Line := (indices 12).filter (openDown s)

/-- The first byte of an upstream frame (R67). -/
def admitLine (l : Line) (b : Byte) (s : State) : State :=
  match look s.store.lineRx l with
  | .receiving _ _ => s
  | _ =>
    if admitsUp s l then
      match s.store.free with
      | c :: rest => setLineRx l (.receiving [c] 1) (setStore (fun st => storeFirst c b (claimCells st [c] rest)) s)
      | [] => countDrop l (setLineRx l .discarding s)
    else countDrop l (setLineRx l .discarding s)

/-- Contents bytes of an MGMT frame received: the first 64 of the frame are kept, and all are counted (R101). -/
def keepRequest (length : Nat) (kept : List Byte) (received : Nat) (bytes : List Byte) : UplinkRx :=
  .request length ((kept ++ bytes).take 64) (received + bytes.length)

/-- The first contents byte of a downstream frame (R67, R70); that of an MGMT frame takes no cell (R101). -/
def admitUplink (b : Byte) (s : State) : State :=
  match s.store.uplinkRx, s.store.free with
  | .dataHeader l cls length, c :: rest =>
    if openDown s l && aboveReserve s.store then
      setUplinkRx (.data l cls length [c] 1) (setStore (fun st => storeFirst c b (claimCells st [c] rest)) s)
    else countDrop l (setUplinkRx .discarding s)
  | .dataHeader l _ _, [] => countDrop l (setUplinkRx .discarding s)
  | .floodHeader length, c :: rest =>
    if (floodTargets s).isEmpty || !aboveReserve s.store then countFlood (setUplinkRx .discarding s)
    else setUplinkRx (.flood (floodTargets s) length [c] 1)
      (setStore (fun st => storeFirst c b (claimCells st [c] rest)) s)
  | .floodHeader _, [] => countFlood (setUplinkRx .discarding s)
  | .request length kept 0, _ => setUplinkRx (keepRequest length kept 0 [b]) s
  | _, _ => s

/-- The first byte of a frame at a port. -/
def admitFirst (port : Port) (b : Byte) (s : State) : State :=
  match port with
  | .line l => admitLine l b s
  | .uplink => admitUplink b s

/-! ### Further cells (R68) -/

/-- A further cell for an upstream frame (R68). -/
def growLine (l : Line) (bytes : List Byte) (s : State) : State :=
  match look s.store.lineRx l with
  | .receiving cells count =>
    match s.store.free with
    | c :: rest =>
      if count + Config.cellBytes ≤ Config.maxFrame then
        setLineRx l (.receiving (cells ++ [c]) (count + Config.cellBytes))
          (setStore (fun st => storeMore (cells ++ [c]) count bytes (claimCells st [c] rest)) s)
      else dropLineRx l s
    | [] => dropLineRx l s
  | _ => s

/-- A downstream frame dropped during its reception: its cells return, and it is counted for its line or as a
flood (R68, R70). -/
def dropDownstream (r : UplinkRx) (after : UplinkRx) (s : State) : State :=
  match r with
  | .data l _ _ cells _ => releaseChain cells (countDrop l (setUplinkRx after s))
  | .flood _ _ cells _ => releaseChain cells (countFlood (setUplinkRx after s))
  | .dataHeader l _ _ => countDrop l (setUplinkRx after s)
  | .floodHeader _ => countFlood (setUplinkRx after s)
  | _ => s

/-- A further cell for a downstream frame (R68); an MGMT frame takes none (R101). -/
def growUplink (bytes : List Byte) (s : State) : State :=
  match s.store.uplinkRx, s.store.free with
  | .data l cls length cells count, c :: rest =>
    if count + Config.cellBytes ≤ Config.maxFrame then
      setUplinkRx (.data l cls length (cells ++ [c]) (count + Config.cellBytes))
        (setStore (fun st => storeMore (cells ++ [c]) count bytes (claimCells st [c] rest)) s)
    else dropDownstream s.store.uplinkRx .discarding s
  | .flood targets length cells count, c :: rest =>
    if count + Config.cellBytes ≤ Config.maxFrame then
      setUplinkRx (.flood targets length (cells ++ [c]) (count + Config.cellBytes))
        (setStore (fun st => storeMore (cells ++ [c]) count bytes (claimCells st [c] rest)) s)
    else dropDownstream s.store.uplinkRx .discarding s
  | .data .., [] | .flood .., [] => dropDownstream s.store.uplinkRx .discarding s
  | .request length kept received, _ => setUplinkRx (keepRequest length kept received bytes) s
  | _, _ => s

/-- A byte that needs a new cell arrives at a port (R68). -/
def growFrame (port : Port) (bytes : List Byte) (s : State) : State :=
  match port with
  | .line l => growLine l bytes s
  | .uplink => growUplink bytes s

/-! ### Ends (R69, R70, R100) -/

/-- The end of an upstream frame (R69). A frame that closes without a byte is a short frame. -/
def endLine (l : Line) (rest : List Byte) (s : State) : State :=
  match look s.store.lineRx l with
  | .idle => countDrop l s
  | .discarding => setLineRx l .idle s
  | .receiving cells count =>
    let n := count + rest.length
    if n < Config.minFrame then releaseChain cells (countDrop l (setLineRx l .idle s))
    else setLineRx l .idle (setStore (fun st =>
      { storeMore cells count rest st with
        up := alter st.up l fun q => q ++ [⟨cells, n, s.time, .normal, false⟩] }) s)

/-- Whether a downstream frame that ends has a good length (R69, R100). -/
def endsGood (n length : Nat) : Bool := decide (n = length) && decide (Config.minFrame ≤ n)

/-- A frame entered into the downstream queues of some lines, the first of which takes over the reception's
reference (R69, R70). -/
def enterDown (targets : List Line) (e : Entry) (st : Store) : Store :=
  { (targets.drop 1).foldl (fun t _ => addHolder e.cells t) st with
    down := targets.foldl (fun d l => alter d l fun q => placeDown q e) st.down }

/-- The end of a downstream frame (R69, R70, R100). A frame that ends with its header has no contents and is
dropped as a short frame; one that ends before its header is malformed. At the end of an MGMT frame the management
agent takes the request, in RequestFrames.lean. -/
def endUplink (rest : List Byte) (s : State) : State :=
  match s.store.uplinkRx with
  | .idle => countMalformed s
  | .discarding => setUplinkRx .idle s
  | .request .. => s
  | .dataHeader l _ _ => countDrop l (setUplinkRx .idle s)
  | .floodHeader _ => countFlood (setUplinkRx .idle s)
  | .data l cls length cells count =>
    let n := count + rest.length
    if endsGood n length then
      checkPort l (setUplinkRx .idle (setStore (fun st =>
        enterDown [l] ⟨cells, n, s.time, cls, false⟩ (storeMore cells count rest st)) s))
    else dropDownstream s.store.uplinkRx .idle s
  | .flood targets length cells count =>
    let n := count + rest.length
    if endsGood n length then
      targets.foldl (fun s l => checkPort l s) (setUplinkRx .idle (setStore (fun st =>
        enterDown targets ⟨cells, n, s.time, .normal, false⟩ (storeMore cells count rest st)) s))
    else dropDownstream s.store.uplinkRx .idle s

/-- The end of a frame at a port. Fewer than 256 bytes have arrived since the byte that took the last cell. -/
def endFrame (port : Port) (rest : List Byte) (s : State) : State :=
  match port with
  | .line l => endLine l (rest.take 255) s
  | .uplink => endUplink (rest.take 255) s

/-! ### Aborts (R174) -/

/-- An upstream frame that ends with ABORT or is broken by an OPEN (R174). -/
def abortLine (l : Line) (s : State) : State :=
  match look s.store.lineRx l with
  | .idle => countDrop l s
  | .discarding => setLineRx l .idle s
  | .receiving cells _ => releaseChain cells (countDrop l (setLineRx l .idle s))

/-- A downstream frame that ends with ABORT or is broken by an OPEN (R174). -/
def abortUplink (s : State) : State :=
  match s.store.uplinkRx with
  | .idle => countMalformed s
  | .discarding => setUplinkRx .idle s
  | .request .. => countMalformed (setUplinkRx .idle s)
  | r => dropDownstream r .idle s

/-- A frame aborted at a port (R174). -/
def abortFrame (port : Port) (s : State) : State :=
  match port with
  | .line l => abortLine l s
  | .uplink => abortUplink s

/-! ### Offered bytes (R13) -/

/-- An upstream byte added to the offered-byte count of a line that is not VACANT (R13). Of the commands that carry
bytes only UPSTREAM_BYTE_ARRIVAL counts, one for each byte; the others carry the same bytes for the frame store
(DESIGN CHOICE, assumption 17). -/
def offerByte (l : Line) (s : State) : State :=
  setLine l (fun r => if r.service = .vacant then r else { r with offered := tally r.offered }) s

/-! ### The commands -/

/-- FIRST_CELL_ADMISSION (R67). -/
def execFirstCellAdmission (port : Port) (b : Byte) (s : State) : Host.Outcome State Fault Refusal :=
  .next (live (admitFirst port b) s)

/-- FURTHER_CELL_NEEDED (R68). -/
def execFurtherCellNeeded (port : Port) (bytes : Vector Byte 256) (s : State) : Host.Outcome State Fault Refusal :=
  .next (live (growFrame port bytes.toList) s)

/-- FRAME_ABORT_RECEIVED (R174). -/
def execFrameAbortReceived (port : Port) (s : State) : Host.Outcome State Fault Refusal :=
  .next (live (abortFrame port) s)

/-- UPLINK_HEADER_END (R99). -/
def execUplinkHeaderEnd (tag : Vector Byte 2) (kind : Byte) (length : Vector Byte 2) (s : State) :
    Host.Outcome State Fault Refusal :=
  .next (live (takeHeader (tag.toList ++ [kind] ++ length.toList)) s)

/-- UPSTREAM_BYTE_ARRIVAL (R13). -/
def execUpstreamByteArrival (l : Line) (s : State) : Host.Outcome State Fault Refusal :=
  .next (live (offerByte l) s)

end Sys2Proof.Machine
end

