-- ==== Sys2Proof/Machine/Measurement.lean ====
section
/-! DEFINITION. The measurement unit: accumulation, the formulas of the five quantities, confirmation, verdict,
results, and the two sample events (chapter 10). -/

namespace Sys2Proof.Machine

/-! ### Arithmetic -/

/-- The bits below 2^b of the root of `n`, added to `r` from the highest down. -/
def isqrtFrom : Nat → Nat → Nat → Nat
  | 0, _, r => r
  | b + 1, n, r => if (r + 2 ^ b) * (r + 2 ^ b) ≤ n then isqrtFrom b n (r + 2 ^ b) else isqrtFrom b n r

/-- The integer floor square root of a number below 2^64 (R157). -/
def isqrt (n : Nat) : Nat := isqrtFrom 32 n 0

/-- A value brought into its quantity's clamp (10.4). -/
def clampTo (q : Quantity) (v : Int) : Int := min (quantityRange q).2 (max (quantityRange q).1 v)

/-! ### Accumulation (R155) -/

/-- One pair taken into the accumulators (R155). -/
def accumulate (v i : Int) (a : Accumulators) : Accumulators :=
  { n := a.n + 1, sumV := a.sumV + v, sumI := a.sumI + i, sumVV := a.sumVV + (v * v).toNat,
    firstV := if a.n + 1 = 1 then some v else a.firstV, lastV := some v }

/-! ### Results of each quantity (R157 to R159) -/

/-- A result as formed: its value, clamped, and its flags. -/
structure Formed where
  value : Int
  flags : ResultFlags
  deriving DecidableEq, Repr

/-- FOREIGN_DC: trunc(Sv × 10 / N), clamped (R157). -/
def foreignDc (samples : Nat) (a : Accumulators) : Formed :=
  ⟨clampTo .foreignDc ((a.sumV * 10).tdiv samples), noFlags⟩

/-- Q = N × Svv − Sv² (R157). -/
def spread (samples : Nat) (a : Accumulators) : Nat := ((samples * a.sumVV : Nat) - a.sumV * a.sumV : Int).toNat

/-- FOREIGN_AC: floor(isqrt(100 × Q) / N), clamped (R157). -/
def foreignAc (samples : Nat) (a : Accumulators) : Formed :=
  ⟨clampTo .foreignAc ((isqrt (100 * spread samples a) / samples : Nat) : Int), noFlags⟩

/-- Opposite signs: one sum negative and the other positive (R158). -/
def opposite (x y : Int) : Bool := (decide (x < 0) && decide (0 < y)) || (decide (0 < x) && decide (y < 0))

/-- RESISTANCE (R158). -/
def resistance (a : Accumulators) : Formed :=
  let open_ : Formed := ⟨2000000000, { noFlags with open_ := true }⟩
  if a.sumI = 0 ∨ opposite a.sumV a.sumI = true then open_
  else
    let ohms := a.sumV.natAbs * 1000000 / a.sumI.natAbs
    if 2000000000 < ohms then open_ else ⟨ohms, noFlags⟩

/-- ΔV = |v_last − v_first| (R159). -/
def deltaV (a : Accumulators) : Nat := (a.lastV.getD 0 - a.firstV.getD 0).natAbs

/-- CAPACITANCE (R159). -/
def capacitance (a : Accumulators) : Formed :=
  if deltaV a = 0 then ⟨0, { noFlags with noStep := true }⟩
  else
    let pf := 250 * a.sumI.natAbs / deltaV a
    if 10000000 < pf then ⟨10000000, { noFlags with overRange := true }⟩ else ⟨pf, noFlags⟩

/-- LENGTH: the clamped capacitance divided by the capacitance per metre (R159). -/
def pairLength (k : Nat) (a : Accumulators) : Formed :=
  let c := capacitance a
  let metres := c.value.toNat / k
  if 65535 < metres then ⟨65535, { c.flags with overRange := true }⟩ else ⟨metres, c.flags⟩

/-- The result of a quantity (R157 to R159). -/
def formResult (set : Settings) (q : Quantity) (samples : Nat) (a : Accumulators) : Formed :=
  match q with
  | .foreignDc => foreignDc samples a
  | .foreignAc => foreignAc samples a
  | .resistance => resistance a
  | .capacitance => capacitance a
  | .length => pairLength set.capPerMetre a

/-- Whether a result exceeds the hazard limit of its quantity (R157). -/
def exceedsHazard (set : Settings) (q : Quantity) (v : Int) : Bool :=
  match q with
  | .foreignDc => decide (set.dcHazard < v.natAbs)
  | .foreignAc => decide (set.acHazard < v.natAbs)
  | _ => false

/-! ### Confirmation and verdict (R160, R161) -/

/-- Whether two results agree (R160). -/
def agree (a b : Int) : Bool := decide ((a - b).natAbs * 20 ≤ max a.natAbs b.natAbs)

/-- The verdict of a value against limits (R161). -/
def judge (low high : Option Int) (v : Int) : Verdict :=
  if (low.all fun l => decide (l ≤ v)) && (high.all fun h => decide (v ≤ h)) then .pass else .fail

/-- What the end of a measurement decides (R160). -/
inductive Measured where
  | another
  | final (unstable : Bool)
  deriving DecidableEq, Repr

/-- The decision at the end of measurement number `made` (R160). A pending cancel cuts the repetition short. -/
def confirmDecision (confirm cancel : Bool) (made : Nat) (previous : Option Int) (v : Int) : Measured :=
  if !confirm then .final false
  else if previous.any (agree v) then .final false
  else if cancel || decide (4 ≤ made) then .final true
  else .another

/-! ### Storing (R162) -/

/-- The entry of a line's five that a quantity has (R162). -/
def quantityIndex : Quantity → Fin 5
  | .foreignDc => 0 | .foreignAc => 1 | .resistance => 2 | .capacitance => 3 | .length => 4

/-- A result stored for a run's line and a quantity, with a RESULT report if the step's or the run's report option
is set (R162). -/
def storeResult (run : Run) (p : Step) (q : Quantity) (entry : Result) (s : State) : State :=
  let s1 := setMeas (fun m =>
    { m with results := alter m.results run.line fun row => put row (quantityIndex q) (some entry) }) s
  if p.report || run.report then queueReport (.result run.line q entry) s1 else s1

/-- The entry that a result makes (R162). -/
def resultEntry (a : Active) (wires : Wires) (made time : Nat) (f : Formed) (v : Verdict) : Result :=
  ⟨f.value, f.flags, v, wires, a.slot, made, time, a.run.id⟩

/-- The phase after a final result: DISCHARGING or an ending for a STEP step, NEXT for any other (R147). -/
def afterFinal (a : Active) (p : Step) (s : State) : State :=
  if isStepStep p then (if a.cancel then beginEnding .cancelled a s else startDischarging s) else nextPhase a s

/-- The phase after a result that calls for another measurement (R147). -/
def afterAnother (p : Step) (s : State) : State := if isStepStep p then startDischarging s else startSampling s

/-- The end of a measurement of the active run's step (R155, R157, R160 to R162). -/
def endMeasurement (a : Active) (p : Step) (q : Quantity) (wires : Wires) (s : State) : State :=
  let f := formResult s.settings q s.meas.samples s.meas.acc
  let made := s.meas.made + 1
  if exceedsHazard s.settings q f.value then
    protectiveStop (storeResult a.run p q
      (resultEntry a wires made s.time { f with flags := { f.flags with hazard := true } } .fail) s)
  else match confirmDecision p.confirm a.cancel made s.meas.previous f.value with
    | .another => afterAnother p (setMeas (fun m => { m with made := made, previous := some f.value }) s)
    | .final unstable =>
      let v := judge p.low p.high f.value
      afterFinal a p (storeResult a.run p q
        (resultEntry a wires made s.time { f with flags := { f.flags with unstable := unstable } } v)
        (setMeas (fun m => { m with made := made, verdict := some v }) s))

/-- A pair taken in SAMPLING (R155). -/
def takePair (a : Active) (v i : Int) (s : State) : State :=
  let s1 := setMeas (fun m => { m with acc := accumulate v i m.acc }) s
  if s1.meas.acc.n < s1.meas.samples then s1
  else match look s1.seq.steps a.slot, s1.meas.quantity, s1.meas.wires with
    | some p, some q, some w => endMeasurement a p q w s1
    | _, _, _ => s1

/-! ### Events -/

/-- A pair with values `v` and `i`: the hazard watch while a relay is closed (R156), then the accumulators while
the active run is in SAMPLING (R155). -/
def samplePair (v i : Int) (s : State) : State :=
  if s.claims.relay.isSome && decide (Config.hazardSample < (v.natAbs : Int)) then protectiveStop s
  else match s.seq.active with
    | some a => if a.phase = .sampling then takePair a v i s else s
    | none => s

/-- SAMPLE_TAKEN (R155, R156). -/
def execSampleTaken (v i : BitVec 16) (s : State) : Host.Outcome State Fault Refusal :=
  .next (live (samplePair v.toInt i.toInt) s)

/-- SAMPLE_FRAME_FAULT: the faulty frame is dropped and the sample-fault tally rises (R154). -/
def execSampleFrameFault (s : State) : Host.Outcome State Fault Refusal :=
  .next (live (setMeas fun m => { m with faults := satAdd 65535 m.faults 1 }) s)

end Sys2Proof.Machine
end

