-- ==== Sys2Proof/Machine/Supervision.lean ====
section
/-! DEFINITION. Line supervision: report words, the aligner, de-bounced flags, seconds and windows (chapter 7).
The raising of triggers is in SupervisionEvents.lean, above the test sequencer. -/

namespace Sys2Proof.Machine

/-! ### Report words (R106, R172) -/

def wordMarkerGood (w : BitVec 48) : Bool := w.extractLsb' 40 8 == 0xB2#8
def wordSequence (w : BitVec 48) : Nat := (w.extractLsb' 36 4).toNat
def wordShowtime (w : BitVec 48) : Bool := w.getLsbD 35
def wordSignalLoss (w : BitVec 48) : Bool := w.getLsbD 34
def wordDyingGasp (w : BitVec 48) : Bool := w.getLsbD 33
def wordRemoteDefect (w : BitVec 48) : Bool := w.getLsbD 32
def wordAnomalies (w : BitVec 48) : Nat := (w.extractLsb' 24 8).toNat
def wordRate (w : BitVec 48) : Nat := (w.extractLsb' 8 16).toNat
def wordCheck (w : BitVec 48) : Byte := w.extractLsb' 0 8

/-- The first 40 bits of a report, as five bytes (R106). -/
def wordBytes (w : BitVec 48) : List Byte :=
  [w.extractLsb' 40 8, w.extractLsb' 32 8, w.extractLsb' 24 8, w.extractLsb' 16 8, w.extractLsb' 8 8]

/-- Whether the check field equals the CRC-8 of the first 40 bits (R106). -/
def wordCheckGood (w : BitVec 48) : Bool := crc8 (wordBytes w) == wordCheck w

/-! ### Search (R108, R109) -/

/-- What a marker found in SEARCH does. -/
inductive SearchResult where
  | pending
  | rejected
  | confirmed (mimicked : Bool)
  deriving DecidableEq, Repr

/-- The candidates still pending once a marker at `position` has been taken: the 8 bits 48 after the others have
arrived, so those are settled (R108). -/
def liveCandidates (x : Supervision) (position : Nat) : List Nat :=
  x.candidates.filter fun b => position < b + 48

/-- What becomes of the candidate 48 bits before a marker (R108). -/
def searchResult (mimicCheck : Bool) (x : Supervision) (position : Nat) : SearchResult :=
  if position < 48 ∨ position - 48 ∉ x.candidates then .pending
  else
    let mimicked := x.candidates.any fun c => decide (position - 48 < c) && decide (c < position)
    if mimicCheck && mimicked then .rejected else .confirmed mimicked

/-- The search time at a bit index (R107). -/
def searchTimeAt (x : Supervision) (index : Nat) : Nat := min Config.searchLimit ((index - x.searchFrom) / 48)

/-- The bits of SEARCH up to an index taken: the bit index, and the search time that goes with it (R106, R107). -/
def searchTo (index : Nat) (x : Supervision) : Supervision :=
  { x with bitIndex := index, searchTime := searchTimeAt x index }

/-- A marker recorded in SEARCH without a confirmation: the bits up to its eighth have arrived (R107, R108). -/
def recordMarker (rejected : Bool) (position : Nat) (x : Supervision) : Supervision :=
  { searchTo (max x.bitIndex (position + 8)) x with
    candidates := liveCandidates x position ++ [position]
    mimicRecord := x.mimicRecord || rejected }

/-- The aligner confirms the candidate 48 bits before a marker: aligned at its offset, with a new second (R109). -/
def confirmMarker (mimicked : Bool) (position : Nat) (x : Supervision) : Supervision :=
  { x with
    aligned := true, bitIndex := max x.bitIndex (position + 8), candidates := []
    mimicRecord := x.mimicRecord || mimicked, searchTime := 0, offset := position % 48
    positionEnd := position + 48, cutEnd := none, lastFour := [true, true, true, true], lastOffset := some (position % 48)
    mimic := x.mimicRecord || mimicked, lastGood := none, second := some ⟨0, 0, false⟩ }

/-- One bit sampled for an aligner that takes bits (R106, R107, R118). -/
def sampleBit (x : Supervision) : Supervision :=
  if x.suspended then x
  else if x.aligned then { x with bitIndex := x.bitIndex + 1 }
  else searchTo (x.bitIndex + 1) x

/-! ### Searching the bits of a report position (R111, R112) -/

/-- The bit indices at which marker patterns begin that lie whole within the bits of a word from bit `first` on, counted
from its first bit sent, where the word's 48 bits end at bit index `end_` (R106, R108). -/
def markersIn (first : Nat) (w : BitVec 48) (end_ : Nat) : List Nat :=
  ((List.range 41).filter fun o => decide (first ≤ o) && w.extractLsb' (40 - o) 8 == 0xB2#8).map (end_ - 48 + ·)

/-- The bits of a word from bit `first` on searched: each marker pattern among them becomes a candidate, and the bits up to
the word's end have been taken (R107, R108). A candidate within the word is settled behind it. -/
def searchWord (first : Nat) (w : BitVec 48) (end_ : Nat) (x : Supervision) : Supervision :=
  { searchTo (max x.bitIndex end_) x with
    candidates := x.candidates ++ (markersIn first w end_).filter (· ∉ x.candidates) }

/-- The rest of the position whose marker test has lost the stream searched (R111 step 4): SEARCH has been entered at the
end of its marker test, 40 bits before its end at `end_`, and those bits are the first of the search (deduced, assumption
17). That a pattern which begins within the marker's own 8 bits is none of the search is the model's choice (DESIGN CHOICE,
assumption 17). -/
def searchLost (w : BitVec 48) (end_ : Nat) (x : Supervision) : Supervision :=
  searchWord 8 w end_ { x with searchFrom := end_ - 40 }

/-- The position in progress cut off by a REALIGN in ALIGNED (R112): its bits are searched when they have arrived. -/
def cutPosition (x : Supervision) : Supervision := { x with cutEnd := some x.positionEnd }

/-- The end, in SEARCH, of the position that a REALIGN has cut off: its bits are searched, and it is not counted (R112).
That they are all of its 48 bits, those before the request too, is deduced from R110, by which none has been used before
the 48th (assumption 17). With no such position no report position ends in SEARCH, and nothing happens (assumption 4). -/
def searchCut (w : BitVec 48) (x : Supervision) : Supervision :=
  match x.cutEnd with
  | none => x
  | some e => { searchWord 0 w e x with cutEnd := none }

/-! ### Losing the stream (R111) -/

/-- The wrong markers among the last four that lose the stream (R111). -/
def lossThreshold (s : State) : Nat := if s.settings.strict then 2 else 3

/-- A de-bounce run emptied; the de-bounced value is kept (R111, R113). -/
def emptyRun (d : Debounced) : Debounced := { d with run := 0 }

/-- The four runs of a line emptied. -/
def emptyRuns (x : Supervision) : Supervision :=
  { x with
    showtime := emptyRun x.showtime, signalLoss := emptyRun x.signalLoss, dyingGasp := emptyRun x.dyingGasp
    remoteDefect := emptyRun x.remoteDefect }

/-- An aligner loss: the second in progress closed short as severely errored, the window discarded, the runs
emptied, and SEARCH entered (R111, R116). The rest of the position's bits is searched by `searchLost` where the loss comes at
the end of a position, and by `searchCut` where a REALIGN has cut the position off. -/
def alignerLoss (l : Line) (s : State) : State :=
  setSup l (fun x => enterSearch (emptyRuns { x with second := none, window := ⟨0, 0⟩ }))
    (setLine l (fun r => { r with es := tally r.es, ses := tally r.ses }) s)

/-! ### Flags (R113) -/

/-- A flag of a good report de-bounced (R113). -/
def debounceFlag (count : Nat) (v : Bool) (d : Debounced) : Debounced :=
  let run := if d.run ≠ 0 ∧ v = d.runValue then d.run + 1 else 1
  { value := if count ≤ run then v else d.value, runValue := v, run := run }

/-- An ALARM report for a flag whose de-bounced value has changed (R113). -/
def alarmIfChanged (l : Line) (flag : Alarm) (old new : Bool) (s : State) : State :=
  if old = new then s else queueReport (.alarm l flag new) s

/-- The four flags of a good report de-bounced, with the ALARM reports of loss of signal, dying gasp and remote
defect (R113). The order of the ALARM reports of one good report is the model's choice (assumption 17). -/
def debounceFlags (l : Line) (w : BitVec 48) (s : State) : State :=
  let n := s.settings.debounce
  let x := supOf s l
  let y := { x with
    showtime := debounceFlag n (wordShowtime w) x.showtime
    signalLoss := debounceFlag n (wordSignalLoss w) x.signalLoss
    dyingGasp := debounceFlag n (wordDyingGasp w) x.dyingGasp
    remoteDefect := debounceFlag n (wordRemoteDefect w) x.remoteDefect }
  followTimer l
    (alarmIfChanged l .remoteDefect x.remoteDefect.value y.remoteDefect.value
      (alarmIfChanged l .dyingGasp x.dyingGasp.value y.dyingGasp.value
        (alarmIfChanged l .signalLoss x.signalLoss.value y.signalLoss.value (setSup l (fun _ => y) s))))

/-! ### Report use and the sync decision (R110, R114, R115) -/

/-- The sequence of a good report compared with that of the last good report of the alignment (R110). -/
def checkSequence (w : BitVec 48) (x : Supervision) : Supervision :=
  { x with
    lastGood := some (wordSequence w, 0)
    slips := match x.lastGood with
      | none => x.slips
      | some (q, k) => if (q + k) % 16 = wordSequence w then x.slips else tally x.slips }

/-- The anomaly count of a good report added to the second in progress (R116). -/
def addAnomalies (w : BitVec 48) (x : Supervision) : Supervision :=
  { x with second := x.second.map fun d => { d with anomalies := d.anomalies + wordAnomalies w } }

/-- The sync decision at the end of a good report (R115). -/
def decideSync (l : Line) (s : State) : State :=
  let x := supOf s l
  if !x.showtime.value || x.dyingGasp.value then setSync l .outOfSync s
  else if (lineOf s l).sync = .outOfSync then setSync l .inSync s
  else s

/-- A good report used (R110): sequence, anomalies, rate (R114), flags, sync decision. -/
def useReport (l : Line) (w : BitVec 48) (s : State) : State :=
  decideSync l (debounceFlags l w
    (setLine l (fun r => { r with attainable := some (wordRate w * 8) })
      (setSup l (fun x => addAnomalies w (checkSequence w x)) s)))

/-! ### Seconds and windows (R116, R117) -/

/-- Whether a second is severely errored, and whether it is errored (R116). -/
def isSes (threshold : Nat) (d : Second) : Bool := decide (threshold ≤ d.anomalies) || d.marked
def isEs (threshold : Nat) (d : Second) : Bool := decide (1 ≤ d.anomalies) || isSes threshold d

/-- A second that has ended counted in the totals and added to the window; the next one begins (R116, R117). -/
def closeSecond (l : Line) (d : Second) (s : State) : State :=
  let t := s.settings.sesThreshold
  setSup l (fun x =>
    { x with
      second := some ⟨0, 0, false⟩
      window := ⟨x.window.seconds + 1, x.window.ses + (if isSes t d then 1 else 0)⟩ })
    (setLine l (fun r =>
      { r with
        es := if isEs t d then tally r.es else r.es
        ses := if isSes t d then tally r.ses else r.ses }) s)

/-- One report position counted in the second in progress; `some` with the second if it ends it (R110, R116). -/
def countPosition (x : Supervision) : Supervision × Option Second :=
  match x.second with
  | none => (x, none)
  | some d =>
    let d' := { d with positions := d.positions + 1 }
    ({ x with second := some d' }, if Config.secondPositions ≤ d'.positions then some d' else none)

/-- The sync condition that the end of a window decides (R117). -/
def windowDecision (s : State) (l : Line) : Sync :=
  let n := (supOf s l).window.ses
  match (lineOf s l).sync with
  | .inSync => if s.settings.windowThreshold ≤ n then .errored else .inSync
  | .errored => if n = 0 then .inSync else .errored
  | .outOfSync => .outOfSync

/-- A window of fifteen seconds ends: it is decided, and a new empty window begins (R117). -/
def closeWindow (l : Line) (s : State) : State :=
  let new := windowDecision s l
  setSync l new (setSup l (fun x => { x with window := ⟨0, 0⟩ }) s)

/-- The marker test of a report position: its result enters the last four, and a wrong one counts (R110). -/
def testMarker (good : Bool) (x : Supervision) : Supervision :=
  { x with
    lastFour := x.lastFour.drop 1 ++ [good]
    bitIndex := max x.bitIndex x.positionEnd
    positionEnd := x.positionEnd + 48
    lastGood := x.lastGood.map fun p => (p.1, p.2 + 1)
    markerErrors := if good then x.markerErrors else tally x.markerErrors }

/-- Whether the last four results lose the stream, with auto-realign enabled (R111). -/
def losesStream (s : State) (l : Line) : Bool :=
  s.settings.autoRealign && decide (lossThreshold s ≤ (supOf s l).lastFour.countP (!·))

/-- A check failure counted, and the second in progress marked (R110). -/
def failCheck (x : Supervision) : Supervision :=
  { x with
    checkFailures := tally x.checkFailures
    second := x.second.map fun d => { d with marked := true } }

/-- The use of a report position whose marker has been tested (R110). -/
def usePosition (l : Line) (w : BitVec 48) (s : State) : State :=
  if !wordMarkerGood w then s
  else if !wordCheckGood w then setSup l failCheck s
  else useReport l w s

/-- The end of a second, and of the window that it fills; `true` says that the line went from IN to ERRORED (R116,
R117, R119). -/
def endSecond (l : Line) (d : Second) (s : State) : State × Bool :=
  let s1 := closeSecond l d s
  if Config.windowSeconds ≤ (supOf s1 l).window.seconds then
    (closeWindow l s1, decide ((lineOf s1 l).sync = .inSync) && decide (windowDecision s1 l = .errored))
  else (s1, false)

/-- The count of a position toward the second, and the close of second and window (R110). -/
def closePosition (l : Line) (s : State) : State × Bool :=
  let s1 := setSup l (fun x => (countPosition x).1) s
  match (countPosition (supOf s l)).2 with
  | none => (s1, false)
  | some d => endSecond l d s1

/-- What the end of a report position in an ALIGNED aligner leads to, up to the raising of triggers (R110, R111).
`true` says that the line went from IN to ERRORED at the end of a window (R119). -/
def takePosition (l : Line) (w : BitVec 48) (s : State) : State × Bool :=
  let s1 := setSup l (testMarker (wordMarkerGood w)) s
  if losesStream s1 l then (setSup l (searchLost w (supOf s l).positionEnd) (alignerLoss l s1), false)
  else closePosition l (usePosition l w s1)

end Sys2Proof.Machine
end

