-- ==== Sys2Proof/Machine/Requests.lean ====
section
/-! DEFINITION. The requests that change state: their outcomes, effects and response data (chapter 11, and the rule
of each kind). -/

namespace Sys2Proof.Machine

/-! ### Taking a request (R101, R163, R166) -/

/-- The MGMT frame that carried a request has ended on the uplink port (R101). -/
def endRequestFrame (st : Store) : Store :=
  match st.uplinkRx with
  | .request .. => { st with uplinkRx := .idle }
  | _ => st

/-- A request taken: discarded with no response and no effect in the restart wait, else given its effect (R163,
R166). -/
def request (f : State → State) (s : State) : State :=
  let s1 := setStore endRequestFrame s
  if s1.mgmt.wait = .none then f s1 else s1

/-- A response that carries no data (R164). -/
def answer (code num : Byte) (a : Answer) (s : State) : State := respond code num a [] false s

/-- A DONE response with its data (R164). -/
def done (code num : Byte) (data : List Byte) (s : State) : State := respond code num .done data false s

/-- A REFUSED-STATE response with its data (R164). -/
def refuse (code num : Byte) (data : List Byte) (s : State) : State := respond code num .refusedState data false s

/-- A response after a request that names a line: REFUSED-RANGE for a line above 11 (R163). -/
def onLine (code num line : Byte) (f : Line → State → State) (s : State) : State :=
  match lineOperand line with
  | some l => f l s
  | none => answer code num .refusedRange s

/-! ### BAR LINE and UNBAR LINE (R5) -/

/-- The barred flag of a line takes a value, answered with the service state after it (R5). -/
def barTo (code num : Byte) (b : Bool) (l : Line) (s : State) : State :=
  let s1 := setBarred l b s
  done code num [serviceCode (lineOf s1 l).service] s1

/-! ### SET TAG and CLEAR TAG (R96, R97) -/

/-- The entry at an index in a response: tag, line and class, or absent (R94, R175). -/
def mapEntryBytes : Option MapEntry → List Byte
  | some e => two e.tag ++ [byteOf e.line.val, classCode e.cls]
  | none => absentTwo ++ absentOne ++ absentOne

/-- The entry at an index of the map. -/
def mapAt (s : State) (x : MapIndex) : Option MapEntry := look s.dist.map x

/-- The map with the entry at an index replaced. -/
def putMap (x : MapIndex) (e : Option MapEntry) (s : State) : State := setDist (fun d => { d with map := put d.map x e }) s

/-- SET TAG for an index, tag, line and class in range (R96). That the index which a duplicate tag names stands behind the
entry in the response is the model's choice: R175 places it behind a cause, and there is none (DESIGN CHOICE,
assumption 8). -/
def placeTag (num : Byte) (x : MapIndex) (tag : Nat) (l : Line) (c : FrameClass) (s : State) : State :=
  if tag = s.settings.mgmtTag then refuse 7 num (mapEntryBytes (mapAt s x)) s
  else
    match holderOfTag s.dist.map tag with
    | some (y, _) =>
      if y = x then done 7 num (mapEntryBytes (some ⟨tag, l, c⟩)) (putMap x (some ⟨tag, l, c⟩) s)
      else refuse 7 num (mapEntryBytes (mapAt s x) ++ [byteOf y.val]) s
    | none => done 7 num (mapEntryBytes (some ⟨tag, l, c⟩)) (putMap x (some ⟨tag, l, c⟩) s)

/-- SET TAG (R96). A refusal for range carries the entry of an index that is itself in range. -/
def setTagRequest (num index : Byte) (tag : BitVec 16) (line cls : Byte) (s : State) : State :=
  match indexOperand index with
  | none => answer 7 num .refusedRange s
  | some x =>
    match lineOperand line, classOperand cls with
    | some l, some c =>
      if tag = 0 then respond 7 num .refusedRange (mapEntryBytes (mapAt s x)) false s else placeTag num x tag.toNat l c s
    | _, _ => respond 7 num .refusedRange (mapEntryBytes (mapAt s x)) false s

/-- CLEAR TAG, answered with the entry held before (R97). -/
def clearTagRequest (num index : Byte) (s : State) : State :=
  match indexOperand index with
  | none => answer 8 num .refusedRange s
  | some x => done 8 num (mapEntryBytes (mapAt s x)) (putMap x none s)

/-! ### LOAD STEP (R138) -/

/-- The slots of a run's chain (R138). -/
def chainOf (s : State) (r : Run) : List Slot := (chainFrom s.seq.steps r.start).slots

/-- The run whose chain holds a slot: the active run first, then the run queue in order (R138). -/
def slotUser (s : State) (k : Slot) : Option Run :=
  ((s.seq.active.map (·.run)).toList ++ s.seq.queue).find? fun r => decide (k ∈ chainOf s r)

/-- The slot of step memory. -/
def stepAt (s : State) (k : Slot) : Option Step := look s.seq.steps k

/-- A slot written or emptied unless a run uses it, answered with its record (R138). That the id of the run which uses it
stands behind the record in the response is the model's choice: R175 places it behind a cause, and there is none (DESIGN
CHOICE, assumption 8). -/
def writeStep (num : Byte) (k : Slot) (p : Option Step) (s : State) : State :=
  match slotUser s k with
  | some r => refuse 9 num (stepBytes (stepAt s k) ++ [byteOf r.id]) s
  | none => done 9 num (stepBytes p) (setSeq (fun q => { q with steps := put q.steps k p }) s)

/-- LOAD STEP with a record (R138). A refusal for range carries the record of a slot that is itself in range. -/
def loadStepRequest (num slot : Byte) (rec : RawStep) (s : State) : State :=
  match slotOperand slot with
  | none => answer 9 num .refusedRange s
  | some k =>
    match stepOperand rec with
    | some p => writeStep num k (some p) s
    | none => respond 9 num .refusedRange (stepBytes (stepAt s k)) false s

/-- LOAD STEP that empties a slot (R138). -/
def emptyStepRequest (num slot : Byte) (s : State) : State :=
  match slotOperand slot with
  | none => answer 9 num .refusedRange s
  | some k => writeStep num k none s

/-! ### SUBMIT RUN and CANCEL RUN (R143, R145) -/

/-- The causes of refusals (R175). -/
inductive RefusalCause where
  | queueFull
  | vacant
  | hazard
  | malformed
  deriving DecidableEq, Repr

def refusalByte : RefusalCause → Byte
  | .queueFull => 1 | .vacant => 2 | .hazard => 3 | .malformed => 4

/-- Why a submission in range is refused, if it is (R143). -/
def submitRefusal (s : State) (l : Line) (k : Slot) : Option RefusalCause :=
  if Config.queuedRuns ≤ s.seq.queue.length then some .queueFull
  else if (lineOf s l).service = .vacant then some .vacant
  else if (lineOf s l).hazard then some .hazard
  else if !(chainFrom s.seq.steps k).good then some .malformed
  else none

/-- A run placed at the tail of the queue (R142). -/
def enterTail (r : Run) (s : State) : State :=
  refreshTests (setSeq (fun q => { q with queue := q.queue ++ [r] }) s)

/-- An accepted submission: the run formed, queued and, if none is active, made active; the response carries its id,
its hold estimate and the place it was given (R143, R146). -/
def submitGood (num : Byte) (l : Line) (k : Slot) (report : Bool) (s : State) : State :=
  let r := newRun s l k .operator report none
  let data := byteOf r.id :: four (holdEstimate s.seq.steps (chainFrom s.seq.steps k)) ++ four s.seq.queue.length
  done 10 num data (activate (enterTail r (takeId s)))

/-- SUBMIT RUN (R143). -/
def submitRequest (num line slot option : Byte) (s : State) : State :=
  match lineOperand line, slotOperand slot with
  | some l, some k =>
    match submitRefusal s l k with
    | some c => refuse 10 num [refusalByte c] s
    | none => submitGood num l k (option.getLsbD 0) s
  | _, _ => answer 10 num .refusedRange s

/-- A queued run cancelled (R145). -/
def cancelQueued (r : Run) (s : State) : State :=
  refreshTests (endRecord r .cancelled (firstSlot r) (setSeq (fun q => { q with queue := withoutRun r.id q.queue }) s))

/-- A record discarded from its fault slot (R145). -/
def discardFault (l : Line) (s : State) : State := setSeq (fun q => { q with faults := put q.faults l none }) s

/-- The active run cancelled in WAITING_BUS: the claim is given up and the run ends at once (R145). -/
def cancelWaiting (a : Active) (s : State) : State :=
  activate (refreshTests (endRecord a.run .cancelled a.slot (clearActive (giveUp s))))

/-- The line whose fault slot holds a run id. -/
def faultHolder (q : Sequencer) (id : Nat) : Option Line :=
  (indices 12).find? fun l => (look q.faults l).any fun r => decide (r.id = id)

/-- What cancelling the active run does; `none` where it is refused (R145). -/
def cancelActive (a : Active) (s : State) : Option State :=
  if a.phase = .waitingBus then some (cancelWaiting a s)
  else if a.phase = .ending ∨ a.cancel = true then none
  else some (setActive (fun a => { a with cancel := true }) s)

/-- What cancelling a run id does; `none` where no run holds it or its run cannot be cancelled (R145). -/
def cancelRun (id : Nat) (s : State) : Option State :=
  match s.seq.queue.find? fun r => decide (r.id = id) with
  | some r => some (cancelQueued r s)
  | none =>
    match faultHolder s.seq id with
    | some l => some (discardFault l s)
    | none =>
      match s.seq.active with
      | some a => if a.run.id = id then cancelActive a s else none
      | none => none

/-- CANCEL RUN (R145). -/
def cancelRequest (num id : Byte) (s : State) : State :=
  if id = 0 then answer 11 num .refusedRange s
  else match cancelRun id.toNat s with
    | some s1 => done 11 num [] s1
    | none => refuse 11 num [] s

/-! ### CLEAR FAULT (R6, R151) -/

/-- The run that a cleared fault puts back: NEW, with its counts at 0 (R151). -/
def requeued (r : Run) : Run := { r with status := .new, resume := none, steps := 0, fails := 0 }

/-- CLEAR FAULT for a line whose hazard flag is set (R151). -/
def clearLineFault (num : Byte) (l : Line) (s : State) : State :=
  let s1 := discardFault l (setHazard l false s)
  match look s.seq.faults l with
  | some r =>
    if r.origin = .operator then
      if Config.queuedRuns ≤ s.seq.queue.length then refuse 12 num [] s
      else done 12 num [] (activate (enterTail (requeued r) s1))
    else done 12 num [] s1
  | none => done 12 num [] s1

/-- CLEAR FAULT for a line in range (R6, R151). -/
def clearFaultLine (num : Byte) (l : Line) (s : State) : State :=
  if (lineOf s l).hazard then clearLineFault num l s else refuse 12 num [] s

/-- CLEAR FAULT for the trigger latch (R151). -/
def clearLatch (num : Byte) (s : State) : State :=
  if s.seq.latch then done 12 num [] (setSeq (fun q => { q with latch := false }) s) else refuse 12 num [] s

/-! ### REALIGN (R112) -/

/-- The aligner state as a response shows it (R107): SEARCH, then ALIGNED. -/
def alignerByte (x : Supervision) : Byte := if x.aligned then 1 else 0

/-- A search restarted: candidates and mimic record gone, the search time counting on (R112); a position that an earlier
REALIGN has cut off is still searched at its end. -/
def restartSearch (x : Supervision) : Supervision := { x with candidates := [], mimicRecord := false }

/-- REALIGN for a line in range (R112). That a refusal carries no data, the aligner state neither, is the model's choice
(DESIGN CHOICE, assumption 8). -/
def realignLine (num : Byte) (l : Line) (s : State) : State :=
  if (supOf s l).suspended then refuse 13 num [] s
  else
    let s1 := if (supOf s l).aligned then setSup l cutPosition (alignerLoss l s) else setSup l restartSearch s
    done 13 num [alignerByte (supOf s1 l)] s1

/-! ### RESTART and UNKNOWN (R163, R166) -/

/-- RESTART: the DONE response is built, and the restart wait entered (R166). -/
def restartRequest (num : Byte) (s : State) : State :=
  setMgmt (fun m => { m with wait := .waiting (s.time + Config.restartTime) }) (respond 14 num .done [] true s)

/-- UNKNOWN, with the kind and number as received, or 0 for a request too short to carry both (R163, R164). -/
def unknownRequest (contents : List Byte) (s : State) : State :=
  match contents with
  | code :: num :: _ => answer code num .unknown s
  | _ => answer 0 0 .unknown s

end Sys2Proof.Machine
end

