-- ==== Sys2Proof/Machine/ReadResponses.lean ====
section
/-! DEFINITION. The READ requests and the data of their responses, item by item (R165, R175). -/

namespace Sys2Proof.Machine

/-! ### Items shared by several responses -/

/-- A list of entries: a one-byte count, then the entries (R175). -/
def listed {α : Type} (f : α → List Byte) (xs : List α) : List Byte := byteOf xs.length :: xs.flatMap f

/-- A bucket level or another signed item, in four bytes. -/
def levelBytes (i : Int) : List Byte := fourSigned i

/-- A counter's run state, rate and N (R77, R92): RUNNING, then STOPPED. -/
def counterBytes (c : Counter) : List Byte := (if c.running then 0 else 1) :: four c.rate ++ four c.reload

/-- IDLE or BUSY, in that order (R91, R102). -/
def busyByte (b : Bool) : Byte := if b then 1 else 0

/-- A timer: running or stopped, in that order, with a time if it runs. That the elapsed and left times are in ms, for
which the rules give no unit, is the model's choice (DESIGN CHOICE, assumption 8). -/
def timerBytes (t : Option Nat) : List Byte := (if t.isSome then 0 else 1) :: fourOr t

/-- The time from now to a station time. -/
def leftUntil (s : State) (t : Option Nat) : Option Nat := t.map (· - s.time)

/-- The time from a station time to now. -/
def sinceTime (s : State) (t : Option Nat) : Option Nat := t.map (s.time - ·)

/-! ### READ LINE (R2, R92, R94, R104, R121, R152, R64) -/

/-- The record of a line (R2, R3). That an unknown attainable rate is sent as an absent one, all ones, is the model's
choice (DESIGN CHOICE, assumption 8). -/
def recordBytes (r : LineRec) : List Byte :=
  [flagByte r.equipped] ++ four r.profile.weight ++ four r.profile.peak ++ four r.profile.burst ++
    four r.profile.degraded ++ four r.profile.upLimit ++ four r.profile.downLimit ++
    [flagByte r.barred, flagByte r.hazard, syncCode r.sync, testCode r.test, serviceCode r.service] ++
    four r.demand ++ four r.offered ++ fourOr r.attainable ++ four r.es ++ four r.ses ++ four r.admissionDrop ++
    four r.ageDiscard ++ four r.flush ++ four r.unmapped ++ oneOr (r.continueSlot.map (·.val))

/-- The scheduler's items of a line (R92). -/
def schedulerBytes (s : State) (l : Line) : List Byte :=
  let e := entryOf l
  levelBytes (look s.sched.levels e) ++ four (look s.sched.deficits e) ++ counterBytes (look s.sched.counters e) ++
    four (lineOf s l).unmapped

/-- The map entries of a line and its primary tag (R94). -/
def lineMapBytes (s : State) (l : Line) : List Byte :=
  listed (fun p : MapIndex × MapEntry => byteOf p.1.val :: two p.2.tag ++ [classCode p.2.cls])
    (entriesOf s.dist.map l) ++ twoOr (primaryTag s.dist.map l)

/-- The line-port transmitter and the level of LP_RDY as last read (R104). -/
def portBytes (s : State) (l : Line) : List Byte :=
  [busyByte (look s.dist.sending l).isSome, flagByte (look s.dist.lastReady l)]

/-- The supervision of a line (R121). -/
def supervisionBytes (s : State) (l : Line) : List Byte :=
  let x := supOf s l
  let r := lineOf s l
  [alignerByte x] ++ four (if x.aligned then x.offset else x.searchTime) ++ fourOr x.lastOffset ++ [flagByte x.mimic] ++
    four x.markerErrors ++ four x.checkFailures ++ four x.slips ++
    [bitByte x.showtime.value, bitByte x.signalLoss.value, bitByte x.dyingGasp.value, bitByte x.remoteDefect.value,
      syncCode r.sync] ++
    fourOr (x.second.map (·.positions)) ++ fourOr (x.second.map (·.anomalies)) ++ four x.window.seconds ++
    four x.window.ses ++ timerBytes (sinceTime s x.timerFrom) ++ fourOr r.attainable ++ four r.es ++ four r.ses

/-- The holdoff of a line, with the time it has left (R152). -/
def holdoffBytes (s : State) (l : Line) : List Byte := timerBytes (leftUntil s (look s.seq.holdoffs l))

/-- The frames and cells of a line's queues (R64). -/
def queueBytes (s : State) (l : Line) : List Byte :=
  four (look s.store.up l).length ++ four (upCells s.store l) ++ four (look s.store.down l).length ++
    four (downCells s.store l)

/-- The data of READ LINE (R165). -/
def lineData (s : State) (l : Line) : List Byte :=
  recordBytes (lineOf s l) ++ schedulerBytes s l ++ lineMapBytes s l ++ portBytes s l ++ supervisionBytes s l ++
    holdoffBytes s l ++ queueBytes s l

/-! ### READ STATION (R165) -/

/-- The holder view (R123). -/
def viewBytes (s : State) : List Byte :=
  let cl := s.claims
  fourOr (cl.holder.map (·.val)) ++ fourOr cl.expiry ++
    listed (fun c : Claimant => four c.station.val ++ [priorityCode c.priority] ++ four c.hold) cl.queue ++
    fourOr (leftUntil s (cl.turnFrom.map (· + Config.turnTime)))

/-- The own claim state, the claim in force and the own hold limit (R129). -/
def ownBytes (s : State) : List Byte :=
  ownCode s.claims.own :: claimBytes s.claims.inForce ++ fourOr s.claims.ownLimit

/-- The test-head outputs and OCC_SNS (R133). -/
def headBytes (s : State) : List Byte :=
  oneOr (s.claims.relay.map (·.val)) ++
    [stimulusCode s.claims.stimulus, flagByte s.claims.occDriven, flagByte s.claims.occSensed]

/-- A run's id, line, origin and status (R141). -/
def runBytes (r : Run) : List Byte := [byteOf r.id, byteOf r.line.val, originCode r.origin, statusCode r.status]

/-- The active run with its phase, current slot and pending cancel (R141); a pending cancel is coded 0, none 1
(assumption 7). -/
def activeBytes : Option Active → List Byte
  | some a => runBytes a.run ++ [phaseCode a.phase, byteOf a.slot.val, flagByte a.cancel]
  | none => List.replicate 7 255

/-- A fault slot (R141). -/
def faultBytes : Option Run → List Byte
  | some r => runBytes r
  | none => List.replicate 4 255

/-- The run queue, the active run, the fault slots, the trigger latch and the run-id counter (R141). -/
def sequencerBytes (s : State) : List Byte :=
  listed runBytes s.seq.queue ++ activeBytes s.seq.active ++
    ((indices 12).flatMap fun l => faultBytes (look s.seq.faults l)) ++ [flagByte s.seq.latch] ++ four s.seq.counter

/-- The scheduler's station items (R92). The round pointer takes one byte, as a line does, with 12 for M
(DESIGN CHOICE, assumption 8). -/
def stationSchedulerBytes (s : State) : List Byte :=
  let sc := s.sched
  levelBytes sc.stationLevel ++ four sc.stationDepth ++ counterBytes sc.stationCounter ++
    levelBytes (look sc.levels 12) ++ four (look sc.deficits 12) ++
    [byteOf sc.pointer.val, turnCode sc.turn, busyByte sc.inFlight.isSome]

/-- Whether a measurement is in progress: the active run is in SAMPLING (R147, R155). -/
def measuring (s : State) : Bool := s.seq.active.any fun a => decide (a.phase = .sampling)

/-- The measurement in progress: n, quantity and wires, each absent while there is none (R155, R175; that one is in
progress in SAMPLING alone is assumption 8). -/
def measurementBytes (s : State) : List Byte :=
  if measuring s then
    four s.meas.acc.n ++ oneOr (s.meas.quantity.map fun q => (quantityCode q).toNat) ++
      oneOr (s.meas.wires.map fun w => (wiresCode w).toNat)
  else absentFour ++ absentOne ++ absentOne

/-- The capacity view (R46). -/
def capacityBytes (c : CapacityView) : List Byte := capacityCode c.state :: fourOr c.last ++ fourOr c.time

/-- The non-empty slots of step memory (R137). -/
def usedSlots (s : State) : List Slot := (indices 128).filter fun k => (look s.seq.steps k).isSome

/-- The items of rules that R165 does not name, in ascending order of rule: R46, R47, R48, R64, R70, R100, R137 and
R154. That the non-empty slots (R137) are sent as a list of slot numbers is the model's choice (DESIGN CHOICE,
assumption 8). -/
def furtherBytes (s : State) : List Byte :=
  capacityBytes s.share.capacity ++ four (rawCapacity s) ++ four s.share.effective ++ four s.store.um.length ++
    four s.store.floodDrop ++ four s.dist.unmapped ++ four s.dist.malformed ++
    listed (fun k : Slot => [byteOf k.val]) (usedSlots s) ++ four s.meas.faults

/-- The items that R165 itself lists; a defaulted image is coded 0, another 1 (assumption 7). -/
def startBytes (s : State) : List Byte :=
  four s.station.val ++ [startCode s.start, flagByte s.loader.defaulted.isSome] ++ four s.loader.clamped ++
    four s.mgmt.reports.length ++ [flagByte s.mgmt.missed]

/-- The data of READ STATION: the items of R32, R38, R55, R60, R62, R92, R123, R129, R133, R141 and R155, then the
further items. -/
def stationData (s : State) : List Byte :=
  four s.notices.badNotices ++ [conditionCode s.notices.condition] ++ four s.share.share ++ four s.share.allowance ++
    four s.share.share ++ four s.store.free.length ++ four s.store.lowMark ++ stationSchedulerBytes s ++ viewBytes s ++
    ownBytes s ++ headBytes s ++ sequencerBytes s ++ measurementBytes s ++ furtherBytes s ++ startBytes s

/-! ### READ PEERS (R41) and READ RESULTS (R162) -/

/-- A peer entry, field by field (R41). -/
def peerBytes (p : Peer) : List Byte :=
  [presenceCode p.presence] ++ fourOr p.lastSequence ++ four p.missed ++ four p.demand ++ four p.weight ++
    [flagByte p.holding] ++ four p.allowance ++ fourOr p.lastStatus ++ fourOr p.joinedAt

/-- The data of READ PEERS: entries 0 to 8 (R41, R46). As they are always nine, no count stands in front
(DESIGN CHOICE, assumption 8). -/
def peersData (s : State) : List Byte :=
  ((indices 8).flatMap fun k => peerBytes (peerOf s k)) ++ capacityBytes s.share.capacity

/-- A results-table entry, or an empty one (R162). -/
def entryBytes : Option Result → List Byte
  | some r => resultBytes r
  | none => List.replicate 21 255

/-- A last run outcome, or none (R162). -/
def lastRunBytes : Option LastRun → List Byte
  | some r => [byteOf r.runId, originCode r.origin, outcomeCode r.outcome] ++ four r.time
  | none => List.replicate 7 255

/-- The data of READ RESULTS: five entries and the last run outcome (R162). -/
def resultsData (s : State) (l : Line) : List Byte :=
  ((indices 5).flatMap fun q => entryBytes (look (look s.meas.results l) q)) ++ lastRunBytes (look s.meas.lastRuns l)

end Sys2Proof.Machine
end

