-- ==== Sys2Proof/Machine/RequestFrames.lean ====
section
/-! DEFINITION. The taking of requests: the MGMT frame on record, its decoding, and the effect of each request (R101,
R163), with the commands that take one. -/

namespace Sys2Proof.Machine

/-! ### From frames to requests -/

/-- The contents bytes that a request command stands for (R175, R176). -/
def contentsOf (c : Instr) : List Byte :=
  match c with
  | .unknown contents => contents
  | c => (encodeRequest c).getD []

/-- The request that an MGMT frame carries at its end: `length` is its header's length field, `kept` and `received`
what has arrived before, and `rest` its last bytes (R101, R163). -/
def carried (length : Nat) (kept : List Byte) (received : Nat) (rest : List Byte) : Instr :=
  decodeRequest length (received + rest.length) ((kept ++ rest).take 64)

/-- A request command as the management agent takes it. Where the header of an MGMT frame is on record, the command
says that the frame has ended with the request's bytes: it is UNKNOWN unless they are all of the frame's contents and
as many as its length field says (R163). With no such header on record it is taken as it is (assumption 17). -/
def asReceived (s : State) (c : Instr) : Instr :=
  match s.store.uplinkRx with
  | .request length kept received =>
    if received = 0 ∧ length = (contentsOf c).length then c else .unknown ((kept ++ contentsOf c).take 64)
  | _ => c

/-- The effect of each request and its response (R163, R164); a command that is no request has none. -/
def requestEffect (c : Instr) (s : State) : State :=
  match c with
  | .readLine num line => onLine 1 num line (fun l s => done 1 num (lineData s l) s) s
  | .readStation num => done 2 num (stationData s) s
  | .readPeers num => done 3 num (peersData s) s
  | .readResults num line => onLine 4 num line (fun l s => done 4 num (resultsData s l) s) s
  | .barLine num line => onLine 5 num line (barTo 5 num true) s
  | .unbarLine num line => onLine 6 num line (barTo 6 num false) s
  | .setTag num index tag line cls => setTagRequest num index tag line cls s
  | .clearTag num index => clearTagRequest num index s
  | .loadStep num slot rec => loadStepRequest num slot rec s
  | .loadStepEmpty num slot => emptyStepRequest num slot s
  | .submitRun num line slot option => submitRequest num line slot option s
  | .cancelRun num id => cancelRequest num id s
  | .clearFault num line => onLine 12 num line (clearFaultLine num) s
  | .clearFaultLatch num => clearLatch num s
  | .realign num line => onLine 13 num line (realignLine num) s
  | .restart num => restartRequest num s
  | .unknown contents => unknownRequest contents s
  | _ => s

/-- A request command taken by the management agent (R101, R163, R166). -/
def takeRequest (c : Instr) (s : State) : State := request (requestEffect (asReceived s c)) s

/-- The end of a frame at a port; the end of an MGMT frame hands its request to the management agent (R69, R101). -/
def takeFrameEnd (port : Port) (rest : List Byte) (s : State) : State :=
  match port, s.store.uplinkRx with
  | .uplink, .request length kept received =>
    request (requestEffect (carried length kept received (rest.take 255))) s
  | _, _ => endFrame port rest s

/-! ### The commands -/

/-- FRAME_RECEPTION_END (R69, R101). -/
def execFrameReceptionEnd (port : Port) (rest : List Byte) (s : State) : Host.Outcome State Fault Refusal :=
  .next (live (takeFrameEnd port rest) s)

/-- READ_LINE (R2). -/
def execReadLine (num line : Byte) (s : State) : Host.Outcome State Fault Refusal :=
  .next (live (takeRequest (.readLine num line)) s)

/-- READ_STATION (R165). -/
def execReadStation (num : Byte) (s : State) : Host.Outcome State Fault Refusal :=
  .next (live (takeRequest (.readStation num)) s)

/-- READ_PEERS (R41). -/
def execReadPeers (num : Byte) (s : State) : Host.Outcome State Fault Refusal :=
  .next (live (takeRequest (.readPeers num)) s)

/-- READ_RESULTS (R162). -/
def execReadResults (num line : Byte) (s : State) : Host.Outcome State Fault Refusal :=
  .next (live (takeRequest (.readResults num line)) s)

/-- BAR_LINE (R5). -/
def execBarLine (num line : Byte) (s : State) : Host.Outcome State Fault Refusal :=
  .next (live (takeRequest (.barLine num line)) s)

/-- UNBAR_LINE (R5). -/
def execUnbarLine (num line : Byte) (s : State) : Host.Outcome State Fault Refusal :=
  .next (live (takeRequest (.unbarLine num line)) s)

/-- SET_TAG (R96). -/
def execSetTag (num index : Byte) (tag : BitVec 16) (line cls : Byte) (s : State) :
    Host.Outcome State Fault Refusal :=
  .next (live (takeRequest (.setTag num index tag line cls)) s)

/-- CLEAR_TAG (R97). -/
def execClearTag (num index : Byte) (s : State) : Host.Outcome State Fault Refusal :=
  .next (live (takeRequest (.clearTag num index)) s)

/-- LOAD_STEP (R138). -/
def execLoadStep (num slot : Byte) (rec : RawStep) (s : State) : Host.Outcome State Fault Refusal :=
  .next (live (takeRequest (.loadStep num slot rec)) s)

/-- LOAD_STEP_EMPTY (R138). -/
def execLoadStepEmpty (num slot : Byte) (s : State) : Host.Outcome State Fault Refusal :=
  .next (live (takeRequest (.loadStepEmpty num slot)) s)

/-- SUBMIT_RUN (R143). -/
def execSubmitRun (num line slot option : Byte) (s : State) : Host.Outcome State Fault Refusal :=
  .next (live (takeRequest (.submitRun num line slot option)) s)

/-- CANCEL_RUN (R145). -/
def execCancelRun (num id : Byte) (s : State) : Host.Outcome State Fault Refusal :=
  .next (live (takeRequest (.cancelRun num id)) s)

/-- CLEAR_FAULT (R151) for a line. -/
def execClearFault (num line : Byte) (s : State) : Host.Outcome State Fault Refusal :=
  .next (live (takeRequest (.clearFault num line)) s)

/-- CLEAR_FAULT_LATCH (R151). -/
def execClearFaultLatch (num : Byte) (s : State) : Host.Outcome State Fault Refusal :=
  .next (live (takeRequest (.clearFaultLatch num)) s)

/-- REALIGN (R112). -/
def execRealign (num line : Byte) (s : State) : Host.Outcome State Fault Refusal :=
  .next (live (takeRequest (.realign num line)) s)

/-- RESTART (R166). -/
def execRestart (num : Byte) (s : State) : Host.Outcome State Fault Refusal :=
  .next (live (takeRequest (.restart num)) s)

/-- UNKNOWN (R163). -/
def execUnknown (contents : List Byte) (s : State) : Host.Outcome State Fault Refusal :=
  .next (live (takeRequest (.unknown contents)) s)

end Sys2Proof.Machine
end

