-- ==== Sys2Proof/Machine/SequencerEvents.lean ====
section
/-! DEFINITION. The timed events of the test sequencer (R147, R148, R152). -/

namespace Sys2Proof.Machine

/-- The relay operate time ends: a pending cancel, else SETTLING of the current step (R147). -/
def takeOperateEnd (s : State) : State :=
  match s.seq.active with
  | some a => if a.cancel then beginEnding .cancelled a s else startSettling true a s
  | none => s

/-- The settle time ends: a pending cancel, else SAMPLING (R147). -/
def takeSettleEnd (s : State) : State :=
  match s.seq.active with
  | some a => if a.cancel then beginEnding .cancelled a s else startSampling s
  | none => s

/-- DISCHARGING ends: a pending cancel, else NEXT if the step's result is final, else SETTLING again (R147). -/
def takeDischargeEnd (s : State) : State :=
  match s.seq.active with
  | some a =>
    if a.cancel then beginEnding .cancelled a s
    else if s.meas.verdict.isSome then nextPhase a s
    else startSettling false a s
  | none => s

/-- The discharge of ENDING ends: of the active run, or of an OPERATOR run whose record has returned to the queue
(R148, R150). -/
def takeEndingEnd (s : State) : State :=
  match s.seq.closing, s.seq.active with
  | some _, _ => activate (giveUp (disconnect (setSeq (fun q => { q with closing := none }) s)))
  | none, some a => finishEnding a s
  | none, none => s

/-- A line's holdoff timer stops (R152). -/
def endHoldoff (l : Line) (s : State) : State := setSeq (fun q => { q with holdoffs := put q.holdoffs l none }) s

/-- OPERATE_TIME_END (R147). -/
def execOperateTimeEnd (s : State) : Host.Outcome State Fault Refusal :=
  .next (live (whenDue (phaseDue · .connecting) takeOperateEnd) s)

/-- SETTLE_TIME_END (R147). -/
def execSettleTimeEnd (s : State) : Host.Outcome State Fault Refusal :=
  .next (live (whenDue (phaseDue · .settling) takeSettleEnd) s)

/-- DISCHARGE_TIME_END (R147). -/
def execDischargeTimeEnd (s : State) : Host.Outcome State Fault Refusal :=
  .next (live (whenDue (phaseDue · .discharging) takeDischargeEnd) s)

/-- ENDING_DISCHARGE_END (R148). -/
def execEndingDischargeEnd (s : State) : Host.Outcome State Fault Refusal :=
  .next (live (whenDue endingDue takeEndingEnd) s)

/-- HOLDOFF_EXPIRY (R152). -/
def execHoldoffExpiry (l : Line) (s : State) : Host.Outcome State Fault Refusal :=
  .next (live (whenDue (holdoffDue · l) (endHoldoff l)) s)

end Sys2Proof.Machine
end

