-- ==== Sys2Proof/Machine/SupervisionEvents.lean ====
section
/-! DEFINITION. The events of line supervision (chapter 7). -/

namespace Sys2Proof.Machine

/-- The confirmation of a candidate, with an ALIGNMENT CHANGE report if the offset moved (R109). -/
def confirm (l : Line) (mimicked : Bool) (position : Nat) (s : State) : State :=
  let old := (supOf s l).lastOffset
  let s1 := setSup l (confirmMarker mimicked position) s
  match old with
  | none => s1
  | some o =>
    if o = position % 48 then s1 else queueReport (.alignmentChange l o (position % 48) (supOf s1 l).mimic) s1

/-- A marker pattern found in SEARCH (R108). -/
def takeMarker (l : Line) (position : Nat) (s : State) : State :=
  if searching s l then
    match searchResult s.settings.mimicCheck (supOf s l) position with
    | .pending => setSup l (recordMarker false position) s
    | .rejected => setSup l (recordMarker true position) s
    | .confirmed mimicked => confirm l mimicked position s
  else s

/-- The search time reaches 20 report times: the line goes OUT (R107, R115). -/
def takeSearchTime (l : Line) (s : State) : State := setSync l .outOfSync s

/-- The end of a report position, with the ERRORED cause where a window ends so (R110, R119); in SEARCH, that of the
position that a REALIGN has cut off (R112). A suspended line drops it (R118). -/
def takeReport (l : Line) (w : BitVec 48) (s : State) : State :=
  if alignedNow s l then
    let (s1, errored) := takePosition l w s
    if errored then raiseTrigger l .errored s1 else s1
  else if searching s l then setSup l (searchCut w) s
  else s

/-- The expiry of the loss-of-signal trigger timer: it starts again, and the cause is raised (R119). -/
def takeLosTimer (l : Line) (s : State) : State :=
  raiseTrigger l .lossOfSignal (setSup l (fun x => { x with timerFrom := some s.time }) s)

/-- SEARCH_MARKER_FOUND (R108). -/
def execSearchMarkerFound (l : Line) (position : Nat) (s : State) : Host.Outcome State Fault Refusal :=
  .next (live (takeMarker l position) s)

/-- SEARCH_TIME_EXPIRY (R115). -/
def execSearchTimeExpiry (l : Line) (s : State) : Host.Outcome State Fault Refusal :=
  .next (live (whenDue (searchTimeDue · l) (takeSearchTime l)) s)

/-- REPORT_POSITION_END (R110). -/
def execReportPositionEnd (l : Line) (word : BitVec 48) (s : State) : Host.Outcome State Fault Refusal :=
  .next (live (takeReport l word) s)

/-- LOS_TRIGGER_TIMER_EXPIRY (R119). -/
def execLosTriggerTimerExpiry (l : Line) (s : State) : Host.Outcome State Fault Refusal :=
  .next (live (whenDue (losTimerDue · l) (takeLosTimer l)) s)

end Sys2Proof.Machine
end

