-- ==== Sys2Proof/Machine/Dispatch.lean ====
section
/-! DEFINITION. The meaning of each command: one arm per constructor of Instr. -/

namespace Sys2Proof.Machine

/-- The effect of a command on everything but the queue of commands that wait. -/
def exec (i : Instr) (s : State) : Host.Outcome State Fault Refusal :=
  match i with
  | .powerOn => Sys2Proof.Machine.execPowerOn s
  | .pwrgoodFall => Sys2Proof.Machine.execPwrgoodFall s
  | .restartStart => Sys2Proof.Machine.execRestartStart s
  | .configurationReadEnd straps image => Sys2Proof.Machine.execConfigurationReadEnd straps image s
  | .firstRecessiveRun => Sys2Proof.Machine.execFirstRecessiveRun s
  | .noticeEnd levels recessive => Sys2Proof.Machine.execNoticeEnd levels recessive s
  | .duplicateNumberHoldoffExpiry => Sys2Proof.Machine.execDuplicateNumberHoldoffExpiry s
  | .noticeCompletion => Sys2Proof.Machine.execNoticeCompletion s
  | .contentionLoss => Sys2Proof.Machine.execContentionLoss s
  | .accessGapExpiry => Sys2Proof.Machine.execAccessGapExpiry s
  | .busQuietTimeout => Sys2Proof.Machine.execBusQuietTimeout s
  | .isolationTimerExpiry => Sys2Proof.Machine.execIsolationTimerExpiry s
  | .noticePeriodExpiry => Sys2Proof.Machine.execNoticePeriodExpiry s
  | .presenceTimerExpiry station => Sys2Proof.Machine.execPresenceTimerExpiry station s
  | .capacityViewExpiry => Sys2Proof.Machine.execCapacityViewExpiry s
  | .riseCheck => Sys2Proof.Machine.execRiseCheck s
  | .firstCellAdmission port byte => Sys2Proof.Machine.execFirstCellAdmission port byte s
  | .furtherCellNeeded port bytes => Sys2Proof.Machine.execFurtherCellNeeded port bytes s
  | .frameReceptionEnd port rest => Sys2Proof.Machine.execFrameReceptionEnd port rest s
  | .frameAbortReceived port => Sys2Proof.Machine.execFrameAbortReceived port s
  | .uplinkHeaderEnd tag kind length => Sys2Proof.Machine.execUplinkHeaderEnd tag kind length s
  | .pacingUnderflow pacer => Sys2Proof.Machine.execPacingUnderflow pacer s
  | .uplinkTransmissionComplete => Sys2Proof.Machine.execUplinkTransmissionComplete s
  | .lpRdyAsserted l => Sys2Proof.Machine.execLpRdyAsserted l s
  | .lpRdyWithdrawn l => Sys2Proof.Machine.execLpRdyWithdrawn l s
  | .linePortTransmissionComplete l => Sys2Proof.Machine.execLinePortTransmissionComplete l s
  | .searchMarkerFound l position => Sys2Proof.Machine.execSearchMarkerFound l position s
  | .searchTimeExpiry l => Sys2Proof.Machine.execSearchTimeExpiry l s
  | .reportPositionEnd l word => Sys2Proof.Machine.execReportPositionEnd l word s
  | .losTriggerTimerExpiry l => Sys2Proof.Machine.execLosTriggerTimerExpiry l s
  | .holdExpiry => Sys2Proof.Machine.execHoldExpiry s
  | .turnLapse => Sys2Proof.Machine.execTurnLapse s
  | .confirmWindowEnd occupied => Sys2Proof.Machine.execConfirmWindowEnd occupied s
  | .relayReleaseTimeEnd => Sys2Proof.Machine.execRelayReleaseTimeEnd s
  | .ownHoldLimit => Sys2Proof.Machine.execOwnHoldLimit s
  | .occupancyLoss => Sys2Proof.Machine.execOccupancyLoss s
  | .operateTimeEnd => Sys2Proof.Machine.execOperateTimeEnd s
  | .settleTimeEnd => Sys2Proof.Machine.execSettleTimeEnd s
  | .dischargeTimeEnd => Sys2Proof.Machine.execDischargeTimeEnd s
  | .endingDischargeEnd => Sys2Proof.Machine.execEndingDischargeEnd s
  | .holdoffExpiry l => Sys2Proof.Machine.execHoldoffExpiry l s
  | .sampleTaken voltage current => Sys2Proof.Machine.execSampleTaken voltage current s
  | .sampleFrameFault => Sys2Proof.Machine.execSampleFrameFault s
  | .readLine num line => Sys2Proof.Machine.execReadLine num line s
  | .readStation num => Sys2Proof.Machine.execReadStation num s
  | .readPeers num => Sys2Proof.Machine.execReadPeers num s
  | .readResults num line => Sys2Proof.Machine.execReadResults num line s
  | .barLine num line => Sys2Proof.Machine.execBarLine num line s
  | .unbarLine num line => Sys2Proof.Machine.execUnbarLine num line s
  | .setTag num index tag line cls => Sys2Proof.Machine.execSetTag num index tag line cls s
  | .clearTag num index => Sys2Proof.Machine.execClearTag num index s
  | .loadStep num slot rec => Sys2Proof.Machine.execLoadStep num slot rec s
  | .loadStepEmpty num slot => Sys2Proof.Machine.execLoadStepEmpty num slot s
  | .submitRun num line slot option => Sys2Proof.Machine.execSubmitRun num line slot option s
  | .cancelRun num id => Sys2Proof.Machine.execCancelRun num id s
  | .clearFault num line => Sys2Proof.Machine.execClearFault num line s
  | .clearFaultLatch num => Sys2Proof.Machine.execClearFaultLatch num s
  | .realign num line => Sys2Proof.Machine.execRealign num line s
  | .restart num => Sys2Proof.Machine.execRestart num s
  | .unknown contents => Sys2Proof.Machine.execUnknown contents s
  | .restartWaitTimeout => Sys2Proof.Machine.execRestartWaitTimeout s
  | .startBitRead => Sys2Proof.Machine.execStartBitRead s
  | .upstreamByteArrival l => Sys2Proof.Machine.execUpstreamByteArrival l s

end Sys2Proof.Machine
end

