-- ==== Sys2Proof/Machine/Tick.lean ====
section
/-! DEFINITION. What the part does while no command waits (assumption 3): the next expiry that is due is put into the
queue as its command, and if none is due, one microsecond passes. What only the outside can tell (bus and port
events, samples, report bits, the level of OCC_SNS, the configuration read) comes as a command alone. -/

namespace Sys2Proof.Machine

/-- A command, if its timer is due. -/
def dueIf (c : Instr) (b : Bool) : Option Instr := if b then some c else none

/-- The command of the first due timer of a table. -/
def dueAmong {n : Nat} (c : Fin n → Instr) (b : Fin n → Bool) : Option Instr := ((indices n).find? b).map c

/-! ### The timers -/

/-- The restart wait (R166). -/
def dueManagement (s : State) : List (Option Instr) :=
  [dueIf .restartWaitTimeout (restartDue s), dueIf .restartStart (decide (s.mgmt.wait = .ended))]

/-- The notice interface (R22, R23, R35, R38). The quiet timeout comes before the gap, so that attempts lost on their
first start bit, after each of which the gap expires at once, do not keep it back (assumption 27). -/
def dueNotices (s : State) : List (Option Instr) :=
  [dueIf .busQuietTimeout (quietDue s), dueIf .accessGapExpiry (gapDue s),
    dueIf .duplicateNumberHoldoffExpiry (duplicateDue s), dueIf .isolationTimerExpiry (isolationDue s)]

/-- The peer table and share unit (R36, R43, R46, R59). -/
def dueShare (s : State) : List (Option Instr) :=
  [dueAmong .presenceTimerExpiry (presenceDue s), dueIf .capacityViewExpiry (capacityDue s),
    dueIf .riseCheck (riseDue s), dueIf .noticePeriodExpiry (periodDue s)]

/-- Line supervision: the search time and the loss-of-signal trigger timer (R107, R115, R119). -/
def dueSupervision (s : State) : List (Option Instr) :=
  [dueAmong .searchTimeExpiry (searchTimeDue s), dueAmong .losTriggerTimerExpiry (losTimerDue s)]

/-- The claim unit (R127, R128, R133, R134); the end of the confirm window needs the level of OCC_SNS. -/
def dueClaims (s : State) : List (Option Instr) :=
  [dueIf .holdExpiry (holdDue s), dueIf .turnLapse (turnDue s), dueIf .relayReleaseTimeEnd (releaseDue s),
    dueIf .ownHoldLimit (ownLimitDue s)]

/-- The test sequencer (R147, R148, R152). -/
def dueSequencer (s : State) : List (Option Instr) :=
  [dueIf .operateTimeEnd (phaseDue s .connecting), dueIf .settleTimeEnd (phaseDue s .settling),
    dueIf .dischargeTimeEnd (phaseDue s .discharging), dueIf .endingDischargeEnd (endingDue s),
    dueAmong .holdoffExpiry (holdoffDue s)]

/-- The command of the first timer that is due. -/
def dueCommand (s : State) : Option Instr :=
  (dueManagement s ++ dueNotices s ++ dueShare s ++ dueSupervision s ++ dueClaims s ++ dueSequencer s).findSome? id

/-! ### One microsecond -/

/-- Whether a counter's clock ticks now (R77). -/
def ticks (slow : Bool) (c : Counter) : Bool :=
  c.running && match c.clock with
    | .fast => true
    | .slow => slow

/-- A counter at a tick of its clock (R77); a count of 0 waits for its underflow to be taken. -/
def tickCounter (slow : Bool) (c : Counter) : Counter := if ticks slow c then { c with count := c.count - 1 } else c

/-- Whether a tick is an underflow (R77). -/
def underflows (slow : Bool) (c : Counter) : Bool := ticks slow c && decide (c.count = 0)

/-- The underflows of one tick. The rules give no order for those that one tick makes of several counters; that they are
taken in the order of the round, with the station counter last, is the model's choice (DESIGN CHOICE, assumption 3). -/
def underflowCommands (slow : Bool) (sc : Scheduler) : List Instr :=
  (((indices 13).filter fun e => underflows slow (look sc.counters e)).map fun e => .pacingUnderflow (.entry e)) ++
    if underflows slow sc.stationCounter then [.pacingUnderflow .station] else []

/-- Every counter at a tick. -/
def tickScheduler (slow : Bool) (sc : Scheduler) : Scheduler :=
  { sc with
    counters := tabulate 13 fun e => tickCounter slow (look sc.counters e)
    stationCounter := tickCounter slow sc.stationCounter }

/-- The clocks of the part one microsecond on. -/
def tickClocks (s : State) : State :=
  if s.micros + 1 < 1000 then { s with micros := s.micros + 1, prescale := (s.prescale + 1) % 64 }
  else { s with micros := 0, time := s.time + 1, prescale := (s.prescale + 1) % 64 }

/-- A microsecond of the bus: the quiet of a free one (R22), or the attempt in flight (R18). -/
def tickNotices (n : Notices) : Notices :=
  { n with
    quiet := if busFree n then n.quiet + 1 else n.quiet
    attempt := n.attempt.map fun a => { a with elapsed := a.elapsed + 1 } }

/-- Whether a bit of every LP_REP input is sampled in the microsecond that begins `micros` after a full millisecond: 48
in each millisecond, evenly spread (R106). -/
def bitSampled (micros : Nat) : Bool := decide (48 * micros / 1000 < 48 * (micros + 1) / 1000)

/-- The aligners in a microsecond. -/
def tickAligners (s : State) : State :=
  if bitSampled s.micros then { s with sup := tabulate 12 fun l => sampleBit (look s.sup l) } else s

/-- One microsecond of a part that runs. -/
def tickRunning (s : State) : State :=
  let slow := decide (s.prescale = 63)
  let due := underflowCommands slow s.sched
  let s1 := tickClocks (tickAligners (setNotices tickNotices (setSched (tickScheduler slow) s)))
  { s1 with pending := s1.pending ++ due }

/-- What the part does while no command waits. -/
def idleStep (s : State) : State :=
  match s.power with
  | .held => s
  | .reading => tickClocks s
  | .running =>
    match dueCommand s with
    | some c => { s with pending := s.pending ++ [c] }
    | none => tickRunning s

end Sys2Proof.Machine
end

