-- ==== Sys2Proof/Safety.lean ====
section
/-! DEFINITION. What counts as a safe state and a safe run: the laws that the rules say the blocks keep, as
decidable conditions on a state. -/

namespace Sys2Proof.Machine

/-- The bytes of the cells are in canonical form. -/
def MemoryCanonical (s : State) : Prop := memWf s.store.memory = true

/-- Every bucket level lies between −2,048 and its depth (R81). -/
def BucketsBounded (s : State) : Prop :=
  (∀ e : RoundEntry, Config.bucketFloor ≤ look s.sched.levels e ∧ look s.sched.levels e ≤ entryDepth s e) ∧
    Config.bucketFloor ≤ s.sched.stationLevel ∧ s.sched.stationLevel ≤ s.sched.stationDepth

/-- The allowance in effect, and the target of a pending rise, do not exceed the computed share (R58). -/
def AllowanceBounded (s : State) : Prop :=
  s.share.allowance ≤ s.share.share ∧ ∀ r ∈ s.share.rise, r.target ≤ s.share.share

/-- The service state of every line is the one derived from its inputs (R7). -/
def ServiceDerived (s : State) : Prop := ∀ l : Line, (lineOf s l).service = deriveService (lineOf s l)

/-- The report queue holds at most 16 reports (R167) and UM at most 32 frames (R71). -/
def QueuesBounded (s : State) : Prop :=
  s.mgmt.reports.length ≤ Config.reportFrames ∧ s.store.um.length ≤ Config.umFrames

/-- A run queue holds at most 16 runs, and all TRIGGERED runs ahead of all OPERATOR runs (R142). -/
def SoundRuns (q : List Run) : Prop :=
  q.length ≤ Config.queuedRuns ∧ q.Pairwise fun a b => isTriggered b = true → isTriggered a = true

/-- The run queue is sound (R142). -/
def RunsSound (s : State) : Prop := SoundRuns s.seq.queue

/-- Every stored result lies within the clamp of its quantity (10.4). -/
def ResultsClamped (s : State) : Prop :=
  ∀ (l : Line) (q : Quantity), ∀ r ∈ look (look s.meas.results l) (quantityIndex q),
    (quantityRange q).1 ≤ r.value ∧ r.value ≤ (quantityRange q).2

/-- The line map holds each tag at most once, and neither tag 0 nor the management tag (R94, R95). -/
def MapSound (s : State) : Prop :=
  ∀ i : MapIndex, ∀ e ∈ look s.dist.map i, e.tag ≠ 0 ∧ e.tag ≠ s.settings.mgmtTag ∧
    ∀ j : MapIndex, j ≠ i → ∀ f ∈ look s.dist.map j, f.tag ≠ e.tag

/-- The law of a holder view (R123, R128): the queue holds each station at most once, never the holder, and no
ABSENT station, with all TRIGGERED entries first; no ABSENT station is holder; the own station counts as present; the
expiry stands while there is a holder, and the turn timer runs while there is none and the queue is not empty. -/
structure SoundView (own : StationNo) (cl : Claims) : Prop where
  once : (cl.queue.map (·.station)).Nodup
  notHolder : ∀ c ∈ cl.queue, cl.holder ≠ some c.station
  present : ∀ c ∈ cl.queue, look cl.present c.station = true
  holderPresent : ∀ k ∈ cl.holder, look cl.present k = true
  ownPresent : look cl.present own = true
  ordered : cl.queue.Pairwise fun a b => b.priority = .triggered → a.priority = .triggered
  expiry : cl.expiry.isSome = cl.holder.isSome
  turn : cl.turnFrom.isSome = (cl.holder.isNone && !cl.queue.isEmpty)

/-- The holder view is sound (R123, R128). -/
def ViewSound (s : State) : Prop := SoundView s.station s.claims

/-- The chains of cells that are held: of the frames in the queues, in UM, in reception and in transmission (R63). -/
def allChains (s : State) : List (List CellNo) :=
  (indices 12).flatMap (fun l => (look s.store.up l ++ look s.store.down l).map (·.cells)) ++ s.store.um.map (·.cells) ++
    heldChains s

/-- Every cell is free, or counted by its holders (R63): the free list holds a cell once, and those whose reference count
is 0; the count of a cell is the number of times that it stands in a chain that is held. A FLOOD frame in reception has
a target (R70), and while a start reads its configuration no port transmits (R171). -/
structure CellsAccounted (s : State) : Prop where
  once : s.store.free.Nodup
  counted : ∀ c : CellNo, look s.store.refs c = ((allChains s).map (·.count c)).sum
  free : ∀ c : CellNo, c ∈ s.store.free ↔ look s.store.refs c = 0
  targets : ∀ targets length cells count, s.store.uplinkRx = .flood targets length cells count → targets ≠ []
  reading : s.power = .reading → s.sched.inFlight = none ∧ ∀ l, look s.dist.sending l = none

/-- While the part is not held, the one line that is CONNECTED is the line whose relay is closed; a relay is closed, or a
Connect waits for one, only in HOLDING (R133). -/
def RelaySound (s : State) : Prop :=
  s.power ≠ .held →
    (∀ l : Line, (lineOf s l).test = .connected ↔ s.claims.relay = some l) ∧
    (s.claims.relay ≠ none ∨ s.claims.connectWaits ≠ none → s.claims.own = .holding)

/-- An aligner is ALIGNED exactly while its line has a second in progress, and a suspended one is in SEARCH (R107, R116,
R118). -/
def AlignersSound (s : State) : Prop :=
  ∀ l : Line, ((supOf s l).aligned = true ↔ (supOf s l).second ≠ none) ∧
    ((supOf s l).suspended = true → (supOf s l).aligned = false)

/-- No two of the runs in the run queue, the active run and the fault slots have the same id, and each id lies in 1 to
255 (R141). -/
def IdsSound (s : State) : Prop := (idsInUse s.seq).Nodup ∧ ∀ id ∈ idsInUse s.seq, 1 ≤ id ∧ id ≤ 255

/-- While the part is not held, no two notices that wait are of one kind (R28). -/
def NoticesSound (s : State) : Prop :=
  s.power ≠ .held → ((waitingNotices s.notices).map fun e => askKind e.ask).Nodup

/-- What the offers of reports and the searches of the scheduler leave as it stands from `s` to `t`: everything but
the cells and the upstream queues, the levels and turns of the scheduler, two tallies of each line, the report queue
and its flag. -/
structure Undisturbed (s t : State) : Prop where
  pending : t.pending = s.pending
  power : t.power = s.power
  start : t.start = s.start
  clocks : t.time = s.time ∧ t.micros = s.micros ∧ t.prescale = s.prescale
  loader : t.loader = s.loader
  notices : t.notices = s.notices
  share : t.share = s.share
  dist : t.dist = s.dist
  sup : t.sup = s.sup
  claims : t.claims = s.claims
  seq : t.seq = s.seq
  meas : t.meas = s.meas
  wait : t.mgmt.wait = s.mgmt.wait
  lines : ∀ l, { lineOf t l with ageDiscard := 0, unmapped := 0 } = { lineOf s l with ageDiscard := 0, unmapped := 0 }
  down : t.store.down = s.store.down
  lineRx : t.store.lineRx = s.store.lineRx
  uplinkRx : t.store.uplinkRx = s.store.uplinkRx
  floodDrop : t.store.floodDrop = s.store.floodDrop
  counters : t.sched.counters = s.sched.counters
  stationCounter : t.sched.stationCounter = s.sched.stationCounter
  stationDepth : t.sched.stationDepth = s.sched.stationDepth

/-- No MGMT frame is in reception on the uplink port. -/
def NoRequestInReception (s : State) : Prop := ∀ length kept received, s.store.uplinkRx ≠ .request length kept received

/-- The part runs, and no restart wait stands, so that a request is given its effect (R163, R166); no MGMT frame is in
reception, so that the request is taken as the command gives it. -/
def TakesRequests (s : State) : Prop := s.power = .running ∧ s.mgmt.wait = .none ∧ NoRequestInReception s

/-- The command that a command acts as: the end of an MGMT frame on the uplink port acts as the request that the frame
carries (R101, R163), every other command as itself. -/
def acting (s : State) (c : Instr) : Instr :=
  match c, s.store.uplinkRx with
  | .frameReceptionEnd .uplink rest, .request length kept received => carried length kept received (rest.take 255)
  | c, _ => c

/-- A station time is given and has been reached. -/
def Elapsed (s : State) (at_ : Option Nat) : Prop := ∃ t, at_ = some t ∧ t ≤ s.time

/-- When the event of a timed command happens (R22, R23, R35, R36, R38, R43, R46, R59, R115, R119, R127, R128, R131, R133
to R135, R147, R148, R150, R152, R166): its timer runs and has reached its end. It is never so of a command that no
timer brings. -/
def Due (s : State) (c : Instr) : Prop :=
  let period := 10 * s.settings.periodUnits
  let phase (p : Phase) : Prop := ∃ a, s.seq.active = some a ∧ a.phase = p ∧ Elapsed s a.until_
  let free : Prop := s.notices.framing = true ∧ s.notices.receiving = false ∧ s.notices.attempt = none
  match c with
  | .restartWaitTimeout => ∃ t, s.mgmt.wait = .waiting t ∧ t ≤ s.time
  | .accessGapExpiry => free ∧ s.notices.gapPassed = false ∧
      2 * (12 + 4 * ((s.station.val + 17 - s.notices.lastSender.val) % 9)) ≤ s.notices.quiet
  | .busQuietTimeout => free ∧ s.notices.quietTaken = false ∧ 2 * 2000 ≤ s.notices.quiet
  | .duplicateNumberHoldoffExpiry => Elapsed s s.notices.duplicateUntil
  | .isolationTimerExpiry => Elapsed s s.notices.isolationAt
  | .presenceTimerExpiry k => k ≠ s.station ∧
      match (look s.share.peers k).presence with
      | .absent => False
      | .joining => Elapsed s ((look s.share.peers k).joinedAt.map (· + 2 * period))
      | .present => Elapsed s ((look s.share.peers k).lastStatus.map (· + 2 * period))
      | .stale => Elapsed s ((look s.share.peers k).lastStatus.map (· + 5 * period))
  | .capacityViewExpiry =>
      match s.share.capacity.state with
      | .current => Elapsed s (s.share.capacity.time.map (· + 3 * period))
      | .stale => Elapsed s (s.share.capacity.time.map (· + 10 * period))
      | .none => False
  | .riseCheck => ∃ r, s.share.rise = some r ∧ r.due ≤ s.time
  | .noticePeriodExpiry => Elapsed s s.share.periodAt
  | .searchTimeExpiry l => (supOf s l).suspended = false ∧ (supOf s l).aligned = false ∧ 20 ≤ (supOf s l).searchTime ∧
      (lineOf s l).sync ≠ .outOfSync
  | .losTriggerTimerExpiry l => Elapsed s ((supOf s l).timerFrom.map (· + 1000 * s.settings.triggerDelay))
  | .holdExpiry => s.claims.holder ≠ none ∧ Elapsed s s.claims.expiry
  | .turnLapse => Elapsed s (s.claims.turnFrom.map (· + 500))
  | .confirmWindowEnd _ => s.claims.own = .taking ∧ Elapsed s s.claims.confirmAt
  | .relayReleaseTimeEnd => Elapsed s s.claims.releaseAt
  | .ownHoldLimit => s.claims.own = .holding ∧ s.claims.limitReached = false ∧ Elapsed s s.claims.ownLimit
  | .operateTimeEnd => phase .connecting
  | .settleTimeEnd => phase .settling
  | .dischargeTimeEnd => phase .discharging
  | .endingDischargeEnd =>
      match s.seq.closing with
      | some d => d.until_ ≤ s.time
      | none => phase .ending
  | .holdoffExpiry l => Elapsed s (look s.seq.holdoffs l)
  | _ => False

/-- The commands that a timer brings: the ends of times that the part itself counts. -/
def isTimed (c : Instr) : Bool :=
  match c with
  | .restartWaitTimeout | .accessGapExpiry | .busQuietTimeout | .duplicateNumberHoldoffExpiry | .isolationTimerExpiry
  | .presenceTimerExpiry _ | .capacityViewExpiry | .riseCheck | .noticePeriodExpiry | .searchTimeExpiry _
  | .losTriggerTimerExpiry _ | .holdExpiry | .turnLapse | .confirmWindowEnd _ | .relayReleaseTimeEnd | .ownHoldLimit
  | .operateTimeEnd | .settleTimeEnd | .dischargeTimeEnd | .endingDischargeEnd | .holdoffExpiry _ => true
  | _ => false

/-- What a receiver takes from a notice: the fields asked for, and those fixed at the start of the attempt (R21,
R172). -/
def heardOf (restart holding : Bool) (remaining : Nat) : Ask → Heard
  | .status weight demand allowance => .status restart holding weight demand allowance
  | .claim p hold => .claim p hold
  | .take hold => .take hold
  | .held => .held remaining
  | .release => .release

/-- The ranges of the fields of a notice (R172, R173). -/
def askInRange : Ask → Prop
  | .status weight demand allowance => 1 ≤ weight ∧ weight ≤ 15 ∧ demand < 65536 ∧ allowance < 65536
  | .claim _ hold => 1 ≤ hold ∧ hold ≤ 600
  | .take hold => 1 ≤ hold ∧ hold ≤ 600
  | .held => True
  | .release => True

/-- An outcome with its next state, if it has one. -/
def nextOf (o : Host.Outcome State Fault Refusal) : Option State :=
  match o with
  | .next s => some s
  | _ => none

/-- A run of `k` steps that ends neither in a fault nor in a refusal. -/
def SafeRun (k : Nat) (s : State) : Prop := ∃ t, Sys2Proof.core.run k s = .next t

end Sys2Proof.Machine
end

