-- ==== Sys2Proof/Certificates/Slice0/Obligations.lean ====
section
/-! DEFINITION. The statements about the model, for the provers: starts and the queue of commands, the line map,
reports and responses, invariants, the cabinet bus, the share, frames, scheduling, supervision, claims, runs,
measurement and requests. -/

open Sys2Proof Sys2Proof.Machine

/-! ### Steps and starts -/

/-- A step with a command at the front of the queue runs that command with the queue's rest. -/
def Obligations.StepTakesTheFrontCommand : Prop :=
  ∀ (c : Instr) (rest : List Instr) (s : State),
    step { s with pending := c :: rest } = exec c { s with pending := rest }

/-- What a step does on an empty queue, and when a timer ends (the queueing of its command, and that an expiry whose
timer has not ended does nothing, are the model's choices, assumptions 3 and 4). A held part stands still, and one that
reads its configuration counts time alone. A running part queues the command of a timer that has ended, or else lets one
microsecond pass: station time counts a millisecond in a thousand; each running counter counts one tick of its clock
down, and one at 0 underflows; a free bus has been quiet for a microsecond more; the attempt in flight is a microsecond
older; and in 48 microseconds of each millisecond every aligner that is not suspended takes a bit (R1, R22, R18, R77,
R106, R107). -/
def Obligations.IdleStepQueuesADueExpiryOrTicks : Prop :=
  (∀ s : State, s.pending = [] →
    let full := s.micros + 1 < 1000
    let clock : State := { s with
      time := s.time + (if full then 0 else 1), micros := (if full then s.micros + 1 else 0)
      prescale := (s.prescale + 1) % 64 }
    let runs (c : Counter) : Prop := c.running = true ∧ (c.clock = .slow → s.prescale = 63)
    let counted (c t : Counter) : Prop := t = if runs c then { c with count := c.count - 1 } else c
    let sampled := 48 * s.micros / 1000 < 48 * (s.micros + 1) / 1000
    let aligner (x : Supervision) : Supervision :=
      if ¬ sampled ∨ x.suspended = true then x
      else if x.aligned = true then { x with bitIndex := x.bitIndex + 1 }
      else { x with bitIndex := x.bitIndex + 1, searchTime := min 20 ((x.bitIndex + 1 - x.searchFrom) / 48) }
    ∃ t, step s = .next t ∧
      (s.power = .held → t = s) ∧
      (s.power = .reading → t = clock) ∧
      (∀ c, s.power = .running → dueCommand s = some c → t = { s with pending := [c] }) ∧
      (s.power = .running → dueCommand s = none →
        t = { clock with
          pending := t.pending
          notices := { s.notices with
            quiet := s.notices.quiet +
              (if s.notices.framing = true ∧ s.notices.receiving = false ∧ s.notices.attempt = none then 1 else 0)
            attempt := s.notices.attempt.map fun a => { a with elapsed := a.elapsed + 1 } }
          sched := { s.sched with counters := t.sched.counters, stationCounter := t.sched.stationCounter }
          sup := t.sup } ∧
        (∀ e, counted (look s.sched.counters e) (look t.sched.counters e)) ∧
        counted s.sched.stationCounter t.sched.stationCounter ∧
        (∀ l, supOf t l = aligner (supOf s l)) ∧
        t.pending.Nodup ∧
        (∀ c, c ∈ t.pending ↔
          (∃ e, c = .pacingUnderflow (.entry e) ∧ runs (look s.sched.counters e) ∧ (look s.sched.counters e).count = 0) ∨
          (c = .pacingUnderflow .station ∧ runs s.sched.stationCounter ∧ s.sched.stationCounter.count = 0)))) ∧
  (∀ s : State,
    (∀ c, dueCommand s = some c → Due s c ∨ (c = .restartStart ∧ s.mgmt.wait = .ended)) ∧
    (∀ c, Due s c → (∀ b, c ≠ .confirmWindowEnd b) → dueCommand s ≠ none) ∧
    (s.mgmt.wait = .ended → dueCommand s = some .restartStart)) ∧
  (∀ (c : Instr) (s : State), s.power = .running → isTimed c = true → ¬ Due s c → exec c s = .next (settle s))

/-- Every command answers a next state, in every state and with every operand, and leaves the queue of waiting
commands as it is. -/
def Obligations.EveryCommandAnswersAndKeepsTheQueue : Prop :=
  ∀ (c : Instr) (s : State), ∃ t, exec c s = .next t ∧ t.pending = s.pending

/-- A part that is held or reads its configuration takes no command but the edges of PWRGOOD and the end of the read; a
fall of PWRGOOD holds the part: its outputs go inactive, and the notice, frames and receptions in progress are cut off
(R171). That the rest of the state stands until the next start is the model's choice (assumption 22). -/
def Obligations.PwrgoodHoldsThePart : Prop :=
  (∀ (c : Instr) (s : State), s.power ≠ .running → c ≠ .powerOn → c ≠ .pwrgoodFall →
     (∀ straps image, c ≠ .configurationReadEnd straps image) → exec c s = .next s) ∧
  (∀ s : State, ∃ t, exec .pwrgoodFall s = .next t ∧ t.power = .held ∧ t.claims.relay = none ∧
     t.claims.stimulus = .none ∧ t.claims.occDriven = false ∧ t.notices.attempt = none ∧ t.sched.inFlight = none ∧
     (∀ l, look t.dist.sending l = none ∧ look t.store.lineRx l = .idle) ∧ t.store.uplinkRx = .idle ∧
     t.lines = s.lines ∧ t.share = s.share ∧ t.sup = s.sup ∧ t.seq = s.seq ∧ t.meas = s.meas ∧ t.mgmt = s.mgmt ∧
     t.loader = s.loader ∧ t.dist.map = s.dist.map ∧ t.notices.queue = s.notices.queue ∧
     t.claims.holder = s.claims.holder ∧ t.claims.queue = s.claims.queue)

/-- A POWER-ON start gives every block its POWER-ON values (R17, R40, R61, R76, R93, R105, R122, R136, R153, R162,
R171), and the end of its configuration read those that the image gives: the bus condition and its timer, the own entry
of the peer table, the service states, the line buckets. What the part holds as settings, equipped bits and profiles
before the read has ended (assumption 1), and the values of the working fields of the notice interface that R40 does not
name, its quiet, marks and reception mark (assumption 20), are the model's choice. -/
def Obligations.PowerOnGivesStartingValues : Prop :=
  ∀ s : State, ∃ t, exec .powerOn s = .next t ∧ t.pending = s.pending ∧ t.power = .reading ∧ t.start = .powerOn ∧
    t.time = 0 ∧ t.micros = 0 ∧
    (∀ l, let r := lineOf t l
      r.barred = false ∧ r.hazard = false ∧ r.sync = .outOfSync ∧ r.test = .none ∧ r.demand = 0 ∧ r.offered = 0 ∧
      r.attainable = none ∧ r.es = 0 ∧ r.ses = 0 ∧ r.admissionDrop = 0 ∧ r.ageDiscard = 0 ∧ r.flush = 0 ∧
      r.unmapped = 0 ∧ r.continueSlot = none ∧ r.service = if r.equipped then .down else .vacant) ∧
    t.notices = ⟨[], none, 8, false, false, false, false, 0, false, 255, 0, 0, .listening, none, none⟩ ∧
    cbTx t = true ∧
    (∀ k, look t.share.peers k =
      if k = t.station then ⟨.present, none, 0, 0, t.settings.weight, false, 0, none, none⟩
      else ⟨.absent, none, 0, 0, 1, false, 0, none, none⟩) ∧
    t.share.share = 0 ∧ t.share.allowance = 0 ∧ t.share.rise = none ∧ t.share.capacity = ⟨.none, none, none⟩ ∧
    t.share.periodAt = none ∧
    t.store.free.map (·.val) = List.range 2048 ∧ (∀ c, look t.store.refs c = 0) ∧ t.store.um = [] ∧
    (∀ l, look t.store.up l = [] ∧ look t.store.down l = [] ∧ look t.store.lineRx l = .idle) ∧
    t.store.uplinkRx = .idle ∧ t.store.lowMark = 2048 ∧ t.store.floodDrop = 0 ∧
    (∀ e, (look t.sched.counters e).running = false ∧ (look t.sched.counters e).pending = none ∧
      look t.sched.deficits e = 0) ∧
    t.sched.stationCounter.running = false ∧ t.sched.stationCounter.pending = none ∧
    (∀ l, look t.sched.levels (entryOf l) = (lineOf t l).profile.burst) ∧ look t.sched.levels 12 = 8192 ∧
    t.sched.stationLevel = 4096 ∧ t.sched.stationDepth = 4096 ∧ t.sched.pointer.val = 0 ∧ t.sched.turn = .idle ∧
    t.sched.inFlight = none ∧
    (∀ i, look t.dist.map i = none) ∧ (∀ l, look t.dist.sending l = none) ∧ t.dist.unmapped = 0 ∧ t.dist.malformed = 0 ∧
    (∀ l, let x := supOf t l
      x.aligned = false ∧ x.suspended = false ∧ x.bitIndex = 0 ∧ x.candidates = [] ∧ x.mimicRecord = false ∧
      x.searchTime = 0 ∧ x.cutEnd = none ∧ x.lastOffset = none ∧ x.mimic = false ∧ x.markerErrors = 0 ∧ x.checkFailures = 0 ∧
      x.slips = 0 ∧ x.showtime = ⟨false, false, 0⟩ ∧ x.signalLoss = ⟨false, false, 0⟩ ∧
      x.dyingGasp = ⟨false, false, 0⟩ ∧ x.remoteDefect = ⟨false, false, 0⟩ ∧ x.second = none ∧ x.window = ⟨0, 0⟩ ∧
      x.timerFrom = none) ∧
    t.claims.holder = none ∧ t.claims.expiry = none ∧ t.claims.queue = [] ∧ t.claims.turnFrom = none ∧
    (∀ k, look t.claims.present k = decide (k = t.station)) ∧ t.claims.own = .none ∧ t.claims.inForce = none ∧
    t.claims.ownLimit = none ∧ t.claims.releaseAt = none ∧ t.claims.relay = none ∧ t.claims.stimulus = .none ∧
    t.claims.occDriven = false ∧
    (∀ k, look t.seq.steps k = none) ∧ t.seq.queue = [] ∧ t.seq.active = none ∧ (∀ l, look t.seq.faults l = none) ∧
    t.seq.counter = 0 ∧ t.seq.latch = false ∧ (∀ l, look t.seq.holdoffs l = none) ∧
    (∀ l q, look (look t.meas.results l) q = none) ∧ (∀ l, look t.meas.lastRuns l = none) ∧ t.meas.faults = 0 ∧
    t.mgmt.reports = [] ∧ t.mgmt.missed = false ∧ t.mgmt.wait = .none ∧
    ∀ (straps : BitVec 3) (image : Vector Byte 256),
      let img := takeImage image.toList
      ∃ u, exec (.configurationReadEnd straps image) t = .next u ∧ u.power = .running ∧ u.station.val = straps.toNat ∧
        u.notices.lastSender = 8 ∧ u.notices.permitted = false ∧
        u.notices.condition = (if img.settings.cabinet ≤ 1 then .joined else .listening) ∧
        u.notices.isolationAt = (if img.settings.cabinet ≤ 1 then none else some (4 * (10 * img.settings.periodUnits))) ∧
        (∀ k, look u.share.peers k =
          if k = u.station then ⟨.present, none, 0, 0, img.settings.weight, false, 0, none, none⟩
          else ⟨.absent, none, 0, 0, 1, false, 0, none, none⟩) ∧
        u.share.capacity = ⟨.none, none, none⟩ ∧ rawCapacity u = img.settings.floor ∧ u.share.allowance = 0 ∧
        (∀ k, look u.claims.present k = decide (k = u.station)) ∧
        (∀ l, (lineOf u l).service = (if look img.equipped l = true then .down else .vacant) ∧
          look u.sched.levels (entryOf l) = (look img.profiles l).burst ∧ look u.sched.deficits (entryOf l) = 0 ∧
          (look u.sched.counters (entryOf l)).running = false)

/-- A RESTART start ends the restart wait and keeps step memory, the line map, the results, the last run outcomes and
the barred and hazard flags; every line's service state is derived from its starting inputs (R17, R166, R171). That the
loader and the equipped bits stand until the new image is delivered (assumption 22), that the command takes effect in any
restart wait (assumption 23), and that it does nothing outside one (assumption 4), is the model's choice. -/
def Obligations.RestartStartKeepsWhatItMust : Prop :=
  ∀ s : State,
    (s.power = .running → s.mgmt.wait ≠ .none →
      ∃ t, exec .restartStart s = .next t ∧ t.pending = s.pending ∧ t.power = .reading ∧ t.start = .restart ∧
        t.time = 0 ∧ t.loader = s.loader ∧ t.seq.steps = s.seq.steps ∧ t.dist.map = s.dist.map ∧
        t.meas.results = s.meas.results ∧ t.meas.lastRuns = s.meas.lastRuns ∧
        (∀ l, (lineOf t l).barred = (lineOf s l).barred ∧ (lineOf t l).hazard = (lineOf s l).hazard ∧
          (lineOf t l).sync = .outOfSync ∧ (lineOf t l).test = .none ∧ (lineOf t l).demand = 0 ∧
          (lineOf t l).service = (if (lineOf s l).equipped = false then .vacant
            else if (lineOf s l).barred then .barred else .down)) ∧
        t.notices.queue = [] ∧ t.notices.attempt = none ∧ t.notices.lastSequence = 255 ∧ t.share.allowance = 0 ∧
        t.store.um = [] ∧ (∀ l, look t.store.up l = [] ∧ look t.store.down l = []) ∧ t.sched.inFlight = none ∧
        t.claims.holder = none ∧ t.claims.queue = [] ∧ t.claims.relay = none ∧ t.claims.occDriven = false ∧
        t.seq.queue = [] ∧ t.seq.active = none ∧ (∀ l, look t.seq.faults l = none) ∧ t.seq.latch = false ∧
        t.mgmt.reports = [] ∧ t.mgmt.missed = false ∧ t.mgmt.wait = .none) ∧
    (s.power ≠ .running ∨ s.mgmt.wait = .none → exec .restartStart s = .next s)

/-- The end of the configuration read opens the part: station number and settings are taken, the line table loads
equipped bits and profiles and keeps its flags, the bus condition and the timers take their starting values, and the
line map is loaded or checked (R17, R38, R39, R36, R95, R169, R171). -/
def Obligations.ConfigurationReadEndOpensThePart : Prop :=
  ∀ (straps : BitVec 3) (image : Vector Byte 256) (s : State), s.power = .reading →
    let img := takeImage image.toList
    ∃ t, exec (.configurationReadEnd straps image) s = .next t ∧ t.power = .running ∧
      t.station.val = straps.toNat ∧ t.settings = img.settings ∧ t.loader.defaulted = imageFault image.toList ∧
      t.loader.clamped = img.clamped ∧
      (∀ l, (lineOf t l).equipped = look img.equipped l ∧ (lineOf t l).profile = look img.profiles l ∧
        (lineOf t l).barred = (lineOf s l).barred ∧ (lineOf t l).hazard = (lineOf s l).hazard ∧
        (lineOf t l).sync = .outOfSync ∧ (lineOf t l).test = .none ∧
        (lineOf t l).service = (if look img.equipped l = false then .vacant
          else if (lineOf s l).barred then .barred else .down)) ∧
      t.notices.condition = (if img.settings.cabinet ≤ 1 then .joined else .listening) ∧
      t.notices.isolationAt = (if img.settings.cabinet ≤ 1 then none else some (s.time + 4 * (10 * img.settings.periodUnits))) ∧
      t.notices.permitted = false ∧ t.share.periodAt = some (s.time + 10 * img.settings.periodUnits) ∧
      (look t.sched.counters 12).running = true ∧ (look t.sched.counters 12).rate = 256 ∧
      t.dist.map = startMap s.start img.settings.mgmtTag s.dist.map img.map ∧ t.claims.relay = none

/-- The STARTED report, and behind it the CONFIG DEFAULTED report of a defaulted image, are the first frames to enter
UM after a start; their bytes are those of the report layouts (R171 steps 3 and 5, R175). -/
def Obligations.StartReportsAreTheFirstFrames : Prop :=
  ∀ (straps : BitVec 3) (image : Vector Byte 256) (s : State), s.power = .reading → s.store = startStore →
    s.mgmt = startManagement →
    let img := takeImage image.toList
    let cause := imageFault image.toList
    ∃ s1, exec (.configurationReadEnd straps image) s = .next (settle s1) ∧ s1.mgmt = startManagement ∧
      s1.store.um.map (fun e => readFrame e.cells s1.store.memory e.length) =
        reportFrame false ⟨s.time, .started s.start ⟨straps.toNat, straps.isLt⟩ cause.isSome img.clamped⟩ ::
          (cause.toList.map fun c => reportFrame false ⟨s.time, .configDefaulted c⟩)

/-- What is taken from the bytes of the configuration memory (R3, R47, R73, R121, R157, R159, R169, R170, R177). An image
that is not valid is taken as the built-in one, value by value. Of a valid one each setting is its bytes' number brought
into its range, the ceiling raised to the floor, and the values that this changes are counted. So every setting lies in
the range that the rules give it, whatever bytes were read. That a ceiling which its range and the floor both change
counts once is deduced (assumption 18). -/
def Obligations.ImageTakenLiesInItsRanges : Prop :=
  ∀ b : List Byte,
    let img := takeImage b
    let x := img.settings
    let f (i n : Nat) : Nat := fieldAt b i n
    let within (low high n : Nat) : Nat := min high (max low n)
    let p (l : Line) : Profile := look img.profiles l
    let o (l : Line) : Nat := 36 + 10 * l.val
    (byteAt b 0 ≠ 1 → imageFault b = some .badFormat) ∧
    (byteAt b 0 = 1 → (b.foldl (fun n x => n + x.toNat) 0) % 256 ≠ 0x5A → imageFault b = some .badSum) ∧
    (byteAt b 0 = 1 → (b.foldl (fun n x => n + x.toNat) 0) % 256 = 0x5A → imageFault b = none) ∧
    (imageFault b ≠ none →
      x = { mimicCheck := true, strict := false, autoRealign := true, mgmtTag := 65535, periodUnits := 10, weight := 1,
            cabinet := 8, headroom := 10, floor := 8192, ceiling := 1000000, sojourn := 250, debounce := 2,
            sesThreshold := 18, windowThreshold := 5, triggerDelay := 30, triggerSlot := 0, holdoff := 15,
            dcHazard := 60000, acHazard := 50000, capPerMetre := 50 } ∧
      (∀ l, look img.equipped l = true ∧
        p l = { weight := 4, peak := 100000, burst := 16384, degraded := 50, upLimit := 64, downLimit := 64 }) ∧
      img.map = [] ∧ img.clamped = 0) ∧
    (imageFault b = none →
      x.mimicCheck = (byteAt b 1).getLsbD 0 ∧ x.strict = (byteAt b 1).getLsbD 1 ∧
      x.autoRealign = (byteAt b 1).getLsbD 2 ∧ x.mgmtTag = within 1 65535 (f 2 2) ∧ x.periodUnits = within 5 100 (f 4 1) ∧
      x.weight = within 1 15 (f 5 1) ∧ x.cabinet = within 1 8 (f 6 1) ∧ x.headroom = within 0 25 (f 7 1) ∧
      x.floor = within 1024 4000000 (f 8 4) ∧ x.ceiling = max x.floor (within 1024 4000000 (f 12 4)) ∧
      x.sojourn = within 10 2000 (f 16 2) ∧ x.debounce = (if 4 ≤ f 18 1 then 4 else 2) ∧
      x.sesThreshold = within 1 255 (f 19 1) ∧ x.windowThreshold = within 1 15 (f 20 1) ∧ x.triggerDelay = f 21 1 ∧
      x.triggerSlot.val = within 0 127 (f 22 1) ∧ x.holdoff = within 1 255 (f 23 1) ∧
      x.dcHazard = within 1000 327670 (f 24 4) ∧ x.acHazard = within 1000 327670 (f 28 4) ∧
      x.capPerMetre = within 30 70 (f 32 1) ∧
      (∀ l, look img.equipped l = (f 33 2).testBit l.val ∧
        (p l).peak = within 64 1000000 (f (o l) 3) ∧ (p l).burst = within 2048 65535 (f (o l + 3) 2) ∧
        (p l).weight = within 1 8 (f (o l + 5) 1) ∧ (p l).degraded = within 10 100 (f (o l + 6) 1) ∧
        (p l).upLimit = within 16 1024 (f (o l + 7) 3 / 4096) ∧
        (p l).downLimit = within 16 1024 (f (o l + 7) 3 % 4096)) ∧
      img.map.length = min 32 (f 35 1) ∧
      (∀ k, k < min 32 (f 35 1) → img.map[k]? = some (f (156 + 3 * k) 2, (byteAt b (158 + 3 * k)).toNat % 16,
        if (byteAt b (158 + 3 * k)).getLsbD 7 then .high else .normal)) ∧
      img.clamped = min 255 (([(f 2 2, x.mgmtTag), (f 4 1, x.periodUnits), (f 5 1, x.weight), (f 6 1, x.cabinet),
          (f 7 1, x.headroom), (f 8 4, x.floor), (f 12 4, x.ceiling), (f 16 2, x.sojourn), (f 18 1, x.debounce),
          (f 19 1, x.sesThreshold), (f 20 1, x.windowThreshold), (f 22 1, x.triggerSlot.val), (f 23 1, x.holdoff),
          (f 24 4, x.dcHazard), (f 28 4, x.acHazard), (f 32 1, x.capPerMetre), (f 35 1, min 32 (f 35 1))] ++
        (indices 12).flatMap fun l => [(f (o l) 3, (p l).peak), (f (o l + 3) 2, (p l).burst),
          (f (o l + 5) 1, (p l).weight), (f (o l + 6) 1, (p l).degraded), (f (o l + 7) 3 / 4096, (p l).upLimit),
          (f (o l + 7) 3 % 4096, (p l).downLimit)]).countP fun v => decide (v.1 ≠ v.2))) ∧
    (1 ≤ x.mgmtTag ∧ x.mgmtTag ≤ 65535) ∧ (5 ≤ x.periodUnits ∧ x.periodUnits ≤ 100) ∧
    (1 ≤ x.weight ∧ x.weight ≤ 15) ∧ (1 ≤ x.cabinet ∧ x.cabinet ≤ 8) ∧ x.headroom ≤ 25 ∧
    (1024 ≤ x.floor ∧ x.floor ≤ x.ceiling ∧ x.ceiling ≤ 4000000) ∧ (10 ≤ x.sojourn ∧ x.sojourn ≤ 2000) ∧
    (x.debounce = 2 ∨ x.debounce = 4) ∧ (1 ≤ x.sesThreshold ∧ x.sesThreshold ≤ 255) ∧
    (1 ≤ x.windowThreshold ∧ x.windowThreshold ≤ 15) ∧ x.triggerDelay ≤ 255 ∧ (1 ≤ x.holdoff ∧ x.holdoff ≤ 255) ∧
    (1000 ≤ x.dcHazard ∧ x.dcHazard ≤ 327670) ∧ (1000 ≤ x.acHazard ∧ x.acHazard ≤ 327670) ∧
    (30 ≤ x.capPerMetre ∧ x.capPerMetre ≤ 70) ∧ img.map.length ≤ 32 ∧ img.clamped ≤ 255 ∧
    (∀ l, (1 ≤ (p l).weight ∧ (p l).weight ≤ 8) ∧ (64 ≤ (p l).peak ∧ (p l).peak ≤ 1000000) ∧
      (2048 ≤ (p l).burst ∧ (p l).burst ≤ 65535) ∧ (10 ≤ (p l).degraded ∧ (p l).degraded ≤ 100) ∧
      (16 ≤ (p l).upLimit ∧ (p l).upLimit ≤ 1024) ∧ (16 ≤ (p l).downLimit ∧ (p l).downLimit ≤ 1024))

/-! ### The line map -/

/-- The check of the map at a start (R94, R95): what POWER-ON loads is sound. Of the entries below the valid count, exactly
those are kept, at their index, whose tag is not 0, not the management tag and not that of an entry kept at a lower index,
and whose line is not above 11; every other index is empty, those from the valid count on among them. RESTART keeps every
entry but one that holds the newly loaded management tag. -/
def Obligations.StartMapIsSound : Prop :=
  ∀ (mgmtTag : Nat) (kept : Table (Option MapEntry) 32) (image : List (Nat × Nat × FrameClass)),
    (let m := startMap .powerOn mgmtTag kept image
     (∀ i, ∀ e ∈ look m i, e.tag ≠ 0 ∧ e.tag ≠ mgmtTag ∧ ∀ j, j ≠ i → ∀ f ∈ look m j, f.tag ≠ e.tag) ∧
     (∀ (i : MapIndex) (e : MapEntry), look m i = some e ↔ image[i.val]? = some (e.tag, e.line.val, e.cls) ∧
        e.tag ≠ 0 ∧ e.tag ≠ mgmtTag ∧ ∀ j : MapIndex, j < i → ∀ f ∈ look m j, f.tag ≠ e.tag) ∧
     (∀ i : MapIndex, image.length ≤ i.val → look m i = none)) ∧
    (∀ i, look (startMap .restart mgmtTag kept image) i =
      (match look kept i with
        | some e => if e.tag = mgmtTag then none else some e
        | none => none))

/-- SET TAG and CLEAR TAG (R96, R97), by the first row that applies: a number, tag or class out of range is answered
REFUSED-RANGE and the management tag or a tag held at another index REFUSED-STATE, with the map unchanged; otherwise
the index holds the entry. CLEAR TAG empties its index and answers with the entry it held. That a refusal for range carries
the entry of an index in range, and that the index of the tag's other entry stands behind the entry in the response, is the
model's choice (assumption 8), and so is the code of a class in these data (assumption 7). -/
def Obligations.SetTagAndClearTagWriteOneIndex : Prop :=
  ∀ (num index line cls : Byte) (tag : BitVec 16) (s : State), TakesRequests s → MapSound s →
    (index.toNat > 31 → exec (.setTag num index tag line cls) s = .next (settle (respond 7 num .refusedRange [] false s)) ∧
      exec (.clearTag num index) s = .next (settle (respond 8 num .refusedRange [] false s))) ∧
    (∀ x : MapIndex, index.toNat = x.val →
      let before := mapEntryBytes (look s.dist.map x)
      let after (e : Option MapEntry) : State := setDist (fun d => { d with map := put d.map x e }) s
      exec (.clearTag num index) s = .next (settle (respond 8 num .done before false (after none))) ∧
      (line.toNat > 11 ∨ tag = 0 ∨ classOperand cls = none →
        exec (.setTag num index tag line cls) s = .next (settle (respond 7 num .refusedRange before false s))) ∧
      (∀ (l : Line) (c : FrameClass), line.toNat = l.val → classOperand cls = some c → tag ≠ 0 →
        (tag.toNat = s.settings.mgmtTag →
          exec (.setTag num index tag line cls) s = .next (settle (respond 7 num .refusedState before false s))) ∧
        (tag.toNat ≠ s.settings.mgmtTag → ∀ y, y ≠ x → ∀ e ∈ look s.dist.map y, e.tag = tag.toNat →
          exec (.setTag num index tag line cls) s =
            .next (settle (respond 7 num .refusedState (before ++ [byteOf y.val]) false s))) ∧
        (tag.toNat ≠ s.settings.mgmtTag → (∀ y, y ≠ x → ∀ e ∈ look s.dist.map y, e.tag ≠ tag.toNat) →
          exec (.setTag num index tag line cls) s =
            .next (settle (respond 7 num .done (mapEntryBytes (some ⟨tag.toNat, l, c⟩)) false
              (after (some ⟨tag.toNat, l, c⟩)))))))

/-! ### Reports and responses -/

/-- A report queued with the management agent (R167, R168): lost at a full queue, which sets the reports-missed flag;
behind the reports that wait, if some do; and from an empty queue into UM at once if it fits there, carrying the flag
and clearing it. The frame of a report (R175): its code, the flag, the station time modulo 2^32, then its fields, a state,
kind or flag as its place in the list where it is defined. The codes of the flags, 0 for one that is set, of the value
of an alarm, of priorities and of the causes of OCCUPIED are deduced or chosen (assumption 7); that a station number or
another count takes four bytes, as the items of responses do, and that a result's flags are five bytes, is the model's
choice (assumption 8). -/
def Obligations.ReportIsQueuedOfferedOrLost : Prop :=
  ∀ (body : ReportBody) (s : State),
    (16 ≤ s.mgmt.reports.length → queueReport body s = setMgmt (fun m => { m with missed := true }) s) ∧
    (s.mgmt.reports ≠ [] → s.mgmt.reports.length < 16 →
      queueReport body s = setMgmt (fun m => { m with reports := m.reports ++ [⟨s.time, body⟩] }) s) ∧
    (s.mgmt.reports = [] → s.store.free.Nodup → memWf s.store.memory = true →
      let frame := reportFrame s.mgmt.missed ⟨s.time, body⟩
      let t := queueReport body s
      (s.store.um.length < 32 → 256 * s.store.free.length ≥ frame.length →
        t.mgmt.reports = [] ∧ t.mgmt.missed = false ∧
        ∃ e, t.store.um = s.store.um ++ [e] ∧ e.length = frame.length ∧ e.stamp = s.time ∧ e.endsWait = false ∧
          readFrame e.cells t.store.memory e.length = frame) ∧
      (32 ≤ s.store.um.length ∨ 256 * s.store.free.length < frame.length →
        t.mgmt.reports = [⟨s.time, body⟩] ∧ t.mgmt.missed = s.mgmt.missed ∧ t.store = s.store)) ∧
    (∀ missed : Bool,
      let b (n : Nat) : Byte := BitVec.ofNat 8 n
      let word (n : Nat) : List Byte := bytes32 (BitVec.ofNat 32 n)
      let signed (n : Int) : List Byte := bytes32 (BitVec.ofInt 32 n)
      let flag (x : Bool) : Byte := if x then 0 else 1
      let bit (x : Bool) : Byte := if x then 1 else 0
      let head (code : Nat) : List Byte := [b code, flag missed] ++ word s.time
      let frame := match body with
        | .lineState l old new sync test barred hazard =>
          head 128 ++ [b l.val, serviceCode old, serviceCode new, syncCode sync, testCode test, flag barred, flag hazard]
        | .alarm l which value => head 129 ++ [b l.val, alarmCode which, bit value]
        | .alignmentChange l old new mimic => head 130 ++ [b l.val] ++ word old ++ word new ++ [flag mimic]
        | .peer k old new => head 131 ++ word k.val ++ [presenceCode old, presenceCode new]
        | .busCondition old new => head 132 ++ [conditionCode old, conditionCode new]
        | .noticeDropped kind losses => head 133 ++ [noticePlace kind] ++ word losses
        | .duplicateNumber kind sequence => head 134 ++ [noticePlace kind] ++ word sequence
        | .occupied .busyAtConfirm (some c) => head 135 ++ [0, priorityCode c.priority] ++ word c.hold
        | .occupied .busyAtConfirm none => head 135 ++ [0, 255, 255, 255, 255, 255]
        | .occupied .lostWhileHolding _ => head 135 ++ [1]
        | .runEnded r outcome slot =>
          head 136 ++ [b r.id, b r.line.val, originCode r.origin, (match r.cause with | some c => causeCode c | none => 255),
            outcomeCode outcome, statusCode r.status] ++ word r.steps ++ word r.fails ++ [b slot.val]
        | .result l q r =>
          head 137 ++ [b l.val, quantityCode q] ++ signed r.value ++
            [flag r.flags.open_, flag r.flags.noStep, flag r.flags.overRange, flag r.flags.unstable, flag r.flags.hazard,
              verdictCode r.verdict, wiresCode r.wires, b r.slot.val] ++ word r.count ++ word r.time ++ [b r.runId]
        | .started kind k defaulted clamped => head 138 ++ [startCode kind] ++ word k.val ++ [flag defaulted] ++ word clamped
        | .configDefaulted cause => head 139 ++ [defaultCode cause]
      reportFrame missed ⟨s.time, body⟩ = frame ++ List.replicate (64 - frame.length) 0) ∧
    ([.vacant, .testing, .barred, .down, .degraded, .up].map serviceCode = [0, 1, 2, 3, 4, 5] ∧
      [.outOfSync, .inSync, .errored].map syncCode = [0, 1, 2] ∧ [.none, .pending, .connected].map testCode = [0, 1, 2] ∧
      [.showtime, .signalLoss, .dyingGasp, .remoteDefect].map alarmCode = [0, 1, 2, 3] ∧
      [.absent, .joining, .present, .stale].map presenceCode = [0, 1, 2, 3] ∧
      [.listening, .joined, .isolated].map conditionCode = [0, 1, 2] ∧
      [.status, .capacity, .claim, .take, .held, .release].map noticePlace = [0, 1, 2, 3, 4, 5] ∧
      [.scheduled, .triggered].map priorityCode = [0, 1] ∧ [.operator, .triggered].map originCode = [0, 1] ∧
      [.errored, .lossOfSignal].map causeCode = [0, 1] ∧
      [.passed, .failed, .aborted, .cancelled, .timeout, .hazard, .recovered, .malformed, .busLost].map outcomeCode =
        [0, 1, 2, 3, 4, 5, 6, 7, 8] ∧
      [.new, .suspended, .faultedHazard, .faultedBus].map statusCode = [0, 1, 2, 3] ∧
      [.foreignDc, .foreignAc, .resistance, .capacitance, .length].map quantityCode = [0, 1, 2, 3, 4] ∧
      [.pass, .fail].map verdictCode = [0, 1] ∧ [.tipRing, .tipGround, .ringGround].map wiresCode = [0, 1, 2] ∧
      [.powerOn, .restart].map startCode = [0, 1] ∧ [.badFormat, .badSum].map defaultCode = [0, 1])

/-- A response (R164): a frame of at least 64 bytes that carries the code, the request number and the outcome in its
first bytes, the data length behind them, and the data; it enters UM at the tail, or is lost and sets the
reports-missed flag if it does not fit. -/
def Obligations.ResponseEntersUmOrIsLost : Prop :=
  ∀ (code num : Byte) (a : Answer) (data : List Byte) (w : Bool) (s : State), s.mgmt.reports = [] →
    s.store.free.Nodup → memWf s.store.memory = true → data.length < 65536 →
    let frame := responseFrame code num a data
    let t := respond code num a data w s
    64 ≤ frame.length ∧ frame.take 3 = [code, num, answerCode a] ∧ fieldAt frame 3 2 = data.length ∧
    (frame.drop 5).take data.length = data ∧
    (s.store.um.length < 32 → 256 * s.store.free.length ≥ frame.length →
      ∃ e, t.store.um = s.store.um ++ [e] ∧ e.length = frame.length ∧ e.stamp = s.time ∧ e.endsWait = w ∧
        readFrame e.cells t.store.memory e.length = frame) ∧
    (32 ≤ s.store.um.length ∨ 256 * s.store.free.length < frame.length → t.mgmt.missed = true ∧ t.store = s.store)

/-! ### Invariants -/

/-- The laws of the blocks hold at reset (R7, R28, R58, R63, R71, R81, R94, R107, R123, R133, R141, R142,
R167, 10.4). -/
def Obligations.LawsHoldAtReset : Prop :=
  MemoryCanonical State.reset ∧ QueuesBounded State.reset ∧ BucketsBounded State.reset ∧
    AllowanceBounded State.reset ∧ ServiceDerived State.reset ∧ RunsSound State.reset ∧ ResultsClamped State.reset ∧
    MapSound State.reset ∧ ViewSound State.reset ∧ CellsAccounted State.reset ∧ RelaySound State.reset ∧
    AlignersSound State.reset ∧ IdsSound State.reset ∧ NoticesSound State.reset

/-- Every step keeps the bytes of the cells in canonical form, at most 16 reports in the report queue and at most 32
frames in UM (R71, R167), and every cell free or counted by the frames that hold it (R63). -/
def Obligations.EveryStepKeepsStoreAndReportBounds : Prop :=
  (∀ s t : State, MemoryCanonical s → QueuesBounded s → step s = .next t → MemoryCanonical t ∧ QueuesBounded t) ∧
  (∀ s t : State, CellsAccounted s → step s = .next t → CellsAccounted t)

/-- Every step keeps every bucket level between −2,048 and its depth (R81), and the allowance in effect and the target
of a pending rise at or below the computed share (R58). -/
def Obligations.EveryStepKeepsLevelsAndAllowanceInRange : Prop :=
  (∀ s t : State, BucketsBounded s → step s = .next t → BucketsBounded t) ∧
  (∀ s t : State, AllowanceBounded s → step s = .next t → AllowanceBounded t)

/-- Every step leaves every line in the service state that the table of R7 derives from its inputs; at most one line
CONNECTED, the one whose relay is closed, and that only in HOLDING, while the part is not held by PWRGOOD (R133); and an
aligner ALIGNED exactly while its line has a second in progress, never while the line is suspended (R107, R116, R118). -/
def Obligations.EveryStepKeepsServiceStatesDerived : Prop :=
  (∀ s t : State, ServiceDerived s → step s = .next t → ServiceDerived t) ∧
  (∀ s t : State, RelaySound s → step s = .next t → RelaySound t) ∧
  (∀ s t : State, AlignersSound s → step s = .next t → AlignersSound t)

/-- Every step keeps at most 16 runs queued, with all TRIGGERED runs ahead of all OPERATOR runs (R142), no run id twice
among the queued runs, the active run and the fault slots (R141), and every stored result within the clamp of its
quantity (10.4). -/
def Obligations.EveryStepKeepsRunQueueAndResultsInBounds : Prop :=
  (∀ s t : State, RunsSound s → step s = .next t → RunsSound t) ∧
  (∀ s t : State, RunsSound s → IdsSound s → step s = .next t → IdsSound t) ∧
  (∀ s t : State, ResultsClamped s → step s = .next t → ResultsClamped t)

/-- Every step keeps each tag in at most one entry of the line map, and no entry with tag 0 or the management tag
(R94, R95, R96). -/
def Obligations.EveryStepKeepsTheLineMapSound : Prop :=
  ∀ s t : State, MapSound s → step s = .next t → MapSound t

/-- Every step keeps the law of the holder view (R123, R128). -/
def Obligations.EveryStepKeepsTheHolderViewSound : Prop :=
  ∀ s t : State, ViewSound s → step s = .next t → ViewSound t

/-- Who may change what, over all commands of a part that runs, the end of an MGMT frame counted as the request that the
frame carries: the line map only SET TAG and CLEAR TAG; step memory only LOAD STEP; the results table only a sample; a
barred flag only BAR LINE and UNBAR LINE; the restart wait only RESTART, its timeout and a completed frame; the holder
view only notices, their loss, and the claim timers and presence; the equipped bits, profiles, station number and
settings no command at all (R2, R3, R96, R97, R101, R138, R162, R5, R166, R123, R169). -/
def Obligations.OnlyTheNamedCommandsChangeEachPart : Prop :=
  ∀ (c : Instr) (s t : State), s.power = .running → exec c s = .next t → c ≠ .powerOn → c ≠ .pwrgoodFall →
    c ≠ .restartStart →
    let d := acting s c
    t.loader = s.loader ∧
    (∀ l, (lineOf t l).equipped = (lineOf s l).equipped ∧ (lineOf t l).profile = (lineOf s l).profile) ∧
    ((∀ n x g l k, d ≠ .setTag n x g l k) → (∀ n x, d ≠ .clearTag n x) → t.dist.map = s.dist.map) ∧
    ((∀ n k r, d ≠ .loadStep n k r) → (∀ n k, d ≠ .loadStepEmpty n k) → t.seq.steps = s.seq.steps) ∧
    ((∀ v i, d ≠ .sampleTaken v i) → t.meas.results = s.meas.results) ∧
    ((∀ n l, d ≠ .barLine n l) → (∀ n l, d ≠ .unbarLine n l) →
      ∀ l, (lineOf t l).barred = (lineOf s l).barred) ∧
    ((∀ n, d ≠ .restart n) → d ≠ .restartWaitTimeout → d ≠ .uplinkTransmissionComplete →
      t.mgmt.wait = s.mgmt.wait) ∧
    ((∀ b e, d ≠ .noticeEnd b e) → d ≠ .noticeCompletion → d ≠ .contentionLoss → d ≠ .holdExpiry → d ≠ .turnLapse →
      d ≠ .relayReleaseTimeEnd → (∀ k, d ≠ .presenceTimerExpiry k) →
      t.claims.holder = s.claims.holder ∧ t.claims.queue = s.claims.queue ∧ t.claims.expiry = s.claims.expiry)

/-! ### The cabinet bus -/

/-- Reading of the bus (R24, R25), the end of the DUPLICATE NUMBER holdoff (R35), and the isolation timer (R38): ten
recessive bit times let framing begin, once; a start bit of another party holds the station back; an expired isolation
timer makes the condition ISOLATED, reports it, and recomputes the share from the isolated capacity (R56). That a run of
recessive bits or a start bit which cannot occur does nothing is the model's choice (assumption 4). -/
def Obligations.BusReadingAndItsTimers : Prop :=
  (∀ s : State, s.power = .running →
     exec .firstRecessiveRun s = .next (settle (if s.notices.framing then s
       else { s with notices := { s.notices with framing := true, quiet := 20 } })) ∧
     exec .startBitRead s = .next (settle (if s.notices.framing = true ∧ s.notices.attempt = none then
       { s with notices := { s.notices with receiving := true, gapPassed := false, quiet := 0 } } else s)) ∧
     (Due s .duplicateNumberHoldoffExpiry → exec .duplicateNumberHoldoffExpiry s =
       .next (settle { s with notices := { s.notices with duplicateUntil := none } }))) ∧
  (∀ s : State, s.power = .running → Due s .isolationTimerExpiry →
     let s1 : State := { s with notices := { s.notices with isolationAt := none } }
     (s.notices.condition = .isolated → exec .isolationTimerExpiry s = .next (settle s1)) ∧
     (s.notices.condition ≠ .isolated → ∃ t, exec .isolationTimerExpiry s = .next t ∧
       t = settle (recompute (queueReport (.busCondition s.notices.condition .isolated)
         { s1 with notices := { s1.notices with condition := .isolated } })) ∧
       t.notices = { s.notices with isolationAt := none, condition := .isolated } ∧
       t.share.share = min 1000000 (min (look s.share.peers s.station).demand
         (s.settings.floor * (100 - s.settings.headroom) / 100 / s.settings.cabinet))))

/-- The gap of the station's rank passes on a free bus, or the bus has been quiet for 2,000 bit times: with
permission to start, the head notice is sent at once, with the next sequence number, the restart flag of the first two
STATUS notices, the holding flag of the station's own view and the hold that is left; without permission or with an
empty queue it is remembered that the gap has passed (R20, R21, R22, R23, R25, R37). -/
def Obligations.GapAndQuietTimeoutStartTheHeadNotice : Prop :=
  ∀ s : State, s.power = .running →
    let sequence := (s.notices.lastSequence + 1) % 256
    let restart := decide (s.notices.statusDone < 2)
    let holding := decide (s.claims.holder = some s.station)
    let remaining := match s.claims.ownLimit with
      | none => 0
      | some t => min 600 ((t - s.time) / 100)
    let started (a : Ask) : Option Attempt :=
      some ⟨sequence, restart, holding, remaining, noticeBytes s.station sequence restart holding remaining a, 0⟩
    let quiet : Notices := { s.notices with lastSender := 8, permitted := true, gapPassed := true, quietTaken := true }
    (Due s .accessGapExpiry →
      (s.notices.permitted = false ∨ s.notices.queue = [] →
        exec .accessGapExpiry s = .next (settle { s with notices := { s.notices with gapPassed := true } })) ∧
      (∀ e rest, s.notices.permitted = true → s.notices.queue = e :: rest →
        exec .accessGapExpiry s = .next (settle { s with notices := { s.notices with
          attempt := started e.ask, gapPassed := false } }))) ∧
    (Due s .busQuietTimeout →
      (s.notices.queue = [] → exec .busQuietTimeout s = .next (settle { s with notices := quiet })) ∧
      (∀ e rest, s.notices.queue = e :: rest →
        exec .busQuietTimeout s = .next (settle { s with notices := { quiet with
          attempt := started e.ask, gapPassed := false } })))

/-- What a station sends a receiver takes: the bytes of a notice with fields in range have the length of its kind,
pass every check, and read back as its kind, sender, sequence number and fields (R20, R21, R32, R172, R173), also from
the levels of the bus. While an attempt is in flight CB_TX gives, two half bit times to a bit, each byte's dominant start
bit, its eight bits from the highest on and its recessive stop bit, and else it is recessive (R18). A receiver frames
such levels into the first 16 bytes, marks more as bad, and finds the end after 10 recessive bit times; a stop bit read
dominant marks the notice bad (R19). -/
def Obligations.EverySentNoticeReadsBackAsItWasAskedFor : Prop :=
  (∀ (k : StationNo) (sequence : Nat) (restart holding : Bool) (remaining : Nat) (a : Ask), askInRange a →
    sequence < 256 → remaining ≤ 600 →
    let b := noticeBytes k sequence restart holding remaining a
    let good : GoodNotice := ⟨⟨k.val, by omega⟩, sequence, heardOf restart holding remaining a⟩
    b.length = noticeLength (askKind a) ∧ checkNotice b false = some good ∧
      ∀ recessive, 10 ≤ recessive → heardNotice (busLevels (noticeLevels b) recessive) = some good) ∧
  (∀ s : State,
    (s.notices.attempt = none → cbTx s = true) ∧
    (∀ a i b, s.notices.attempt = some a → a.bytes[i]? = some b →
      (a.elapsed / 2 = 10 * i → cbTx s = false) ∧
      (∀ j, j < 8 → a.elapsed / 2 = 10 * i + 1 + j → cbTx s = b.getLsbD (7 - j)) ∧
      (a.elapsed / 2 = 10 * i + 9 → cbTx s = true)) ∧
    (∀ a, s.notices.attempt = some a → 10 * a.bytes.length ≤ a.elapsed / 2 → cbTx s = true)) ∧
  (∀ (bytes : List Byte) (recessive : Nat), bytes ≠ [] →
    let f := frameLevels (busLevels (noticeLevels bytes) recessive)
    f.bytes = bytes.take 16 ∧ f.bad = decide (16 < bytes.length) ∧ f.ended = decide (10 ≤ recessive)) ∧
  (∀ (before : List Byte) (x : Byte) (recessive : Nat), before.length < 16 →
    let f := frameLevels (busLevels (noticeLevels before ++ false :: byteBits x ++ [false]) recessive)
    f.bytes = before ++ [x] ∧ f.bad = true ∧ f.ended = decide (10 ≤ recessive))

/-- A notice is good exactly when its kind is defined, its length field and its number of bytes are those of its kind,
no framing error occurred, its check agrees, and its kind fits its sender (R32, R172). The six kinds have the codes 1 to 6
in the order of R172, and no other code is a kind. -/
def Obligations.ANoticeIsGoodWhenEveryCheckPasses : Prop :=
  (∀ (code : Byte) (kind : NoticeKind), kindOfCode code = some kind ↔ code = noticeCode kind) ∧
  [.status, .capacity, .claim, .take, .held, .release].map noticeCode = [1, 2, 3, 4, 5, 6] ∧
  ∀ (b : List Byte) (framingError : Bool),
    (∃ g, checkNotice b framingError = some g) ↔
      ∃ kind, kindOfCode (byteAt b 0) = some kind ∧ framingError = false ∧ b.length = noticeLength kind ∧
        (byteAt b 2).toNat = noticeLength kind ∧
        crc16 (b.take (b.length - 2)) = BitVec.ofNat 16 (fieldAt b (b.length - 2) 2) ∧
        (if kind = .capacity then (byteAt b 1).toNat = 8 else (byteAt b 1).toNat < 8)

/-- The end of a notice of another party (R19, R22, R32, R33, R35, R38). A bad one counts in the bad-notice tally and
does nothing else but end; a good one sets the last sender, joins the bus and starts the isolation timer afresh (not in a
cabinet of one station), and one with the station's own number starts the DUPLICATE NUMBER holdoff. That a NOTICE_END in
which no notice has ended does nothing, or one before framing has begun or during the own attempt, is the model's choice
(assumption 4). -/
def Obligations.NoticeEndCountsABadNoticeAndFollowsAGoodOne : Prop :=
  ∀ (levels : List Bool) (recessive : Nat) (s : State), s.power = .running →
    let all := busLevels levels recessive
    let ends := s.notices.framing = true ∧ s.notices.attempt = none ∧ (frameLevels all).ended = true
    (¬ ends → exec (.noticeEnd levels recessive) s = .next (settle s)) ∧
    (ends → heardNotice all = none → exec (.noticeEnd levels recessive) s =
      .next (settle { s with notices := { s.notices with
        receiving := false, gapPassed := false, quiet := 0, quietTaken := false, permitted := true
        badNotices := min 65535 (s.notices.badNotices + 1) } })) ∧
    (∀ g, ends → heardNotice all = some g → ∃ t, exec (.noticeEnd levels recessive) s = .next t ∧
      t.notices.lastSender = g.sender ∧ t.notices.badNotices = s.notices.badNotices ∧ t.notices.receiving = false ∧
      t.notices.attempt = none ∧ t.notices.permitted = true ∧ t.notices.quiet = 0 ∧
      (2 ≤ s.settings.cabinet → t.notices.condition = .joined ∧
        t.notices.isolationAt = some (s.time + 4 * (10 * s.settings.periodUnits))) ∧
      (s.settings.cabinet ≤ 1 → t.notices.condition = s.notices.condition ∧
        t.notices.isolationAt = s.notices.isolationAt) ∧
      t.notices.duplicateUntil =
        (if g.sender.val = s.station.val ∧ s.notices.duplicateUntil = none then
          some (s.time + 10 * s.settings.periodUnits) else s.notices.duplicateUntil))

/-- The end of a peer's STATUS (R42 to R44): its entry takes the fields, the time and the sequence number, with the
numbers skipped since the last one counted as missed unless it was ABSENT or restarted; an ABSENT peer becomes JOINING
and any other PRESENT; the other entries stand. A CAPACITY notice makes the capacity view CURRENT (R46). -/
def Obligations.StatusAndCapacityNoticesUpdateTheirEntry : Prop :=
  ∀ (levels : List Bool) (recessive : Nat) (s : State), s.power = .running → s.notices.framing = true →
    s.notices.attempt = none → (frameLevels (busLevels levels recessive)).ended = true →
    let heard := heardNotice (busLevels levels recessive)
    (∀ (k : StationNo) (sequence : Nat) (restart holding : Bool) (weight demand allowance : Nat), k ≠ s.station →
      heard = some ⟨⟨k.val, by omega⟩, sequence, .status restart holding weight demand allowance⟩ →
      let p := look s.share.peers k
      let skipped := match p.lastSequence with
        | none => 0
        | some m => if p.presence = .absent ∨ restart = true then 0 else (sequence + 256 - m) % 256 - 1
      ∃ t, exec (.noticeEnd levels recessive) s = .next t ∧
        look t.share.peers k = { p with
          presence := (if p.presence = .absent then .joining else .present)
          joinedAt := (if p.presence = .absent then some s.time else p.joinedAt)
          lastSequence := some sequence
          missed := (if skipped = 0 then p.missed else min 255 (p.missed + skipped))
          demand := 8 * demand, weight := weight, holding := holding, allowance := 8 * allowance
          lastStatus := some s.time } ∧
        (∀ j, j ≠ k → look t.share.peers j = look s.share.peers j) ∧ t.share.capacity = s.share.capacity) ∧
    (∀ (sequence value : Nat), heard = some ⟨8, sequence, .capacity value⟩ →
      ∃ t, exec (.noticeEnd levels recessive) s = .next t ∧ t.share.capacity = ⟨.current, some value, some s.time⟩ ∧
        t.share.peers = s.share.peers)

/-- What the notices of a PRESENT peer do to the holder view (R124 to R127). CLAIM: a new entry is placed behind the
TRIGGERED ones or at the tail by its priority, and one that stands takes the new hold, raised behind the TRIGGERED ones
if it was SCHEDULED and the CLAIM is TRIGGERED; TAKE: holder if there is none; HELD: holder; RELEASE: its hold ends
or its entry leaves the queue; a STATUS with a clear holding flag ends its hold, and one with the restart flag its hold
and its entry. The expiry is the hold and 1 s. A TAKE that leaves this station as holder is answered with a HELD (R134);
a HELD in TAKING makes the station claim again, and in HOLDING loses it the hold (R131, R134). That TAKING left so clears
the own hold limit is deduced (assumption 10). -/
def Obligations.PeerNoticesMoveTheHolderView : Prop :=
  ∀ (levels : List Bool) (recessive : Nat) (k : StationNo) (sequence : Nat) (s : State), s.power = .running →
    s.notices.framing = true → s.notices.attempt = none → (frameLevels (busLevels levels recessive)).ended = true →
    k ≠ s.station → look s.claims.present k = true → (look s.share.peers k).presence ≠ .absent →
    let heard (h : Heard) : Prop := heardNotice (busLevels levels recessive) = some ⟨⟨k.val, by omega⟩, sequence, h⟩
    let leads (holder : Option StationNo) (expiry : Option Nat) (queue : List Claimant) : Prop :=
      ∃ t, exec (.noticeEnd levels recessive) s = .next t ∧ t.claims.holder = holder ∧ t.claims.expiry = expiry ∧
        t.claims.queue = queue
    let cl := s.claims
    let others := cl.queue.filter fun c => decide (c.station ≠ k)
    let behindTriggered (q : List Claimant) (c : Claimant) : List Claimant :=
      q.takeWhile (fun d => d.priority = .triggered) ++ c :: q.dropWhile (fun d => d.priority = .triggered)
    (∀ p hold, heard (.claim p hold) →
      (cl.holder = some k → leads cl.holder cl.expiry cl.queue) ∧
      (cl.holder ≠ some k → (∀ c ∈ cl.queue, c.station ≠ k) →
        leads cl.holder cl.expiry (match p with
          | .scheduled => cl.queue ++ [⟨k, p, hold⟩]
          | .triggered => behindTriggered cl.queue ⟨k, p, hold⟩)) ∧
      (∀ before c behind, cl.holder ≠ some k → cl.queue = before ++ c :: behind → c.station = k →
        (∀ d ∈ before ++ behind, d.station ≠ k) →
        leads cl.holder cl.expiry (if p = .triggered ∧ c.priority = .scheduled
          then behindTriggered (before ++ behind) ⟨k, .triggered, hold⟩
          else before ++ ⟨k, c.priority, hold⟩ :: behind))) ∧
    (∀ hold, heard (.take hold) →
      (cl.holder ≠ none → leads cl.holder cl.expiry cl.queue) ∧
      (cl.holder = none → leads (some k) (some (s.time + 100 * hold + 1000)) others) ∧
      (cl.holder = some s.station → (∀ e ∈ s.notices.queue, askKind e.ask ≠ .held) →
        ∃ t, exec (.noticeEnd levels recessive) s = .next t ∧ t.notices.queue = ⟨.held, 0⟩ :: s.notices.queue ∧
          t.claims = { cl with turnFrom := none })) ∧
    (∀ remaining, heard (.held remaining) →
      leads (some k) (some (s.time + 100 * remaining + 1000)) others ∧
      (∀ c, cl.own = .taking → cl.inForce = some c → ∃ t, exec (.noticeEnd levels recessive) s = .next t ∧
        t.claims.own = .queued ∧ t.claims.confirmAt = none ∧ t.claims.ownLimit = none ∧ t.claims.inForce = some c ∧
        ∃ e ∈ t.notices.queue, e.ask = .claim c.priority c.hold) ∧
      (cl.own = .holding → ∃ t, exec (.noticeEnd levels recessive) s = .next t ∧ t.claims.own = .releasing ∧
        t.claims.relay = none ∧ t.claims.ownLimit = none ∧ t.claims.occDriven = cl.occDriven ∧
        t.claims.releaseAt = some (s.time + 10))) ∧
    (heard .release → if cl.holder = some k then leads none none cl.queue else leads cl.holder cl.expiry others) ∧
    (∀ holding weight demand allowance, heard (.status false holding weight demand allowance) →
      if cl.holder = some k ∧ holding = false then leads none none cl.queue
      else leads cl.holder cl.expiry cl.queue) ∧
    (∀ holding weight demand allowance, heard (.status true holding weight demand allowance) →
      if cl.holder = some k then leads none none others else leads cl.holder cl.expiry others)

/-- The station's own notice completes (R20, R22, R31, R34, R45): it leaves the queue, in which only a CLAIM or a TAKE may
be placed anew, the station is the last sender, and its sequence number is the last completed one. A STATUS is counted,
up to two, and stamps the own entry. The other kinds move the station's own view (R124 to R126): CLAIM enters it, HELD
sets its hold afresh, RELEASE ends its hold, and RELEASING with it, a recorded claim being asked for then (R135). That a
RELEASE left from an earlier give-up moves the view alone and leaves RELEASING standing is deduced (assumption 11), and
that the claim in force ends where RELEASING does is the model's choice (assumption 10). A TAKE in TURN makes the station holder under no holder, with the confirm window and the own hold limit started (R131);
under another holder the station is QUEUED again, and claims afresh if its entry has left the queue (R130). -/
def Obligations.OwnNoticeCompletes : Prop :=
  ∀ (s : State) (a : Attempt) (e : OutNotice) (rest : List OutNotice), s.power = .running →
    s.notices.attempt = some a → s.notices.queue = e :: rest → ∃ t, exec .noticeCompletion s = .next t ∧
      let own := s.station
      let cl := s.claims
      let others := cl.queue.filter fun c => decide (c.station ≠ own)
      let lasting (q : List OutNotice) : List OutNotice :=
        q.filter fun x => decide (askKind x.ask ≠ .claim ∧ askKind x.ask ≠ .take)
      let behindTriggered (q : List Claimant) (c : Claimant) : List Claimant :=
        q.takeWhile (fun d => d.priority = .triggered) ++ c :: q.dropWhile (fun d => d.priority = .triggered)
      t.notices.attempt = none ∧ t.notices.lastSender.val = own.val ∧ t.notices.lastSequence = a.sequence ∧
      t.notices.permitted = true ∧ t.notices.receiving = false ∧ t.notices.quiet = 0 ∧
      lasting t.notices.queue = lasting rest ∧ (cl.own = .none → cl.waiting = false → t.notices.queue = rest) ∧
      t.notices.statusDone = (if askKind e.ask = .status then min 2 (s.notices.statusDone + 1) else s.notices.statusDone) ∧
      (look t.share.peers own = (if askKind e.ask = .status then { look s.share.peers own with
          lastStatus := some s.time, holding := a.holding, lastSequence := some a.sequence }
        else look s.share.peers own)) ∧
      (∀ j, j ≠ own → look t.share.peers j = look s.share.peers j) ∧
      (look cl.present own = true →
        (∀ p hold, e.ask = .claim p hold →
          t.claims.holder = cl.holder ∧ t.claims.expiry = cl.expiry ∧
          (cl.holder = some own → t.claims.queue = cl.queue) ∧
          (cl.holder ≠ some own → (∀ c ∈ cl.queue, c.station ≠ own) → t.claims.queue = match p with
            | .scheduled => cl.queue ++ [⟨own, p, hold⟩]
            | .triggered => behindTriggered cl.queue ⟨own, p, hold⟩) ∧
          (cl.own = .queued → t.claims.own =
            (if cl.holder = none ∧ t.claims.queue.head?.map (·.station) = some own then .turn else .queued)) ∧
          (∀ c, t.claims.own = .turn → cl.own = .queued → cl.inForce = some c →
            ∃ x ∈ t.notices.queue, x.ask = .take c.hold)) ∧
        (∀ hold, e.ask = .take hold → cl.own = .turn →
          (cl.holder = none → t.claims.holder = some own ∧ t.claims.expiry = some (s.time + 100 * hold + 1000) ∧
            t.claims.queue = others ∧ t.claims.own = .taking ∧ t.claims.ownLimit = some (s.time + 100 * hold) ∧
            t.claims.confirmAt = some (s.time + 20) ∧ t.claims.limitReached = false ∧ t.notices.queue = rest) ∧
          (∀ k, cl.holder = some k → k ≠ own →
            t.claims.holder = cl.holder ∧ t.claims.expiry = cl.expiry ∧ t.claims.queue = cl.queue ∧
            t.claims.own = .queued ∧ t.claims.inForce = cl.inForce ∧
            ((∃ c ∈ cl.queue, c.station = own) → t.notices.queue = rest) ∧
            (∀ c, (∀ d ∈ cl.queue, d.station ≠ own) → cl.inForce = some c →
              ∃ x ∈ t.notices.queue, x.ask = .claim c.priority c.hold))) ∧
        (e.ask = .held → t.claims.holder = some own ∧ t.claims.expiry = some (s.time + 100 * a.remaining + 1000) ∧
          t.claims.queue = others ∧ t.claims.own = cl.own)) ∧
      (e.ask = .release →
        (cl.holder = some own → t.claims.holder = none ∧ t.claims.expiry = none ∧ t.claims.queue = cl.queue) ∧
        (cl.holder ≠ some own → t.claims.holder = cl.holder ∧ t.claims.expiry = cl.expiry ∧ t.claims.queue = others) ∧
        (let ends := cl.own = .releasing ∧ cl.releaseAt = none ∧ ∀ x ∈ rest, x.ask ≠ .release
        (cl.own = .releasing → ¬ ends → t.notices.queue = rest ∧ t.claims = { cl with
          holder := t.claims.holder, expiry := t.claims.expiry, queue := t.claims.queue
          turnFrom := t.claims.turnFrom }) ∧
        (ends → cl.recorded = none → t.claims.own = .none ∧ t.claims.inForce = none ∧ t.notices.queue = rest) ∧
        (∀ c, ends → cl.recorded = some c → 2 ≤ s.notices.statusDone →
          t.claims.inForce = some c ∧ t.claims.recorded = none ∧ (t.claims.own = .queued ∨ t.claims.own = .turn) ∧
          ∃ x ∈ t.notices.queue, x.ask = .claim c.priority c.hold)))

/-- Contention lost (R26, R27, R31). Below 16 losses the notice returns to the head with its loss counted, or gives
its place and count to a newer one of its kind, a waiting HELD going first; a CLAIM or TAKE that meets a waiting
RELEASE leaves the queue with it; at 16 losses the notice is discarded and NOTICE DROPPED is reported, and the claim unit
asks for its CLAIM or TAKE anew or ends RELEASING (R132). That with the RELEASE of RELEASING still to come a discarded one
ends the hold alone, and one that leaves with a CLAIM or TAKE nothing, that a newer RELEASE replaces a lost one, and that
the notices that wait stand when the lost one is discarded, is deduced (assumption 11). A loss behind the first start bit
leaves a notice on the bus, which is received; one on it leaves the bus quiet on, and a gap that had passed expires again at
once (deduced, assumption 27). That the attempt's age says which bit it is, the first two half bit times being the first
start bit's (assumption 27), that the claim in force ends where RELEASING does (assumption 10), that a RELEASE absorbed in a
state with no row in R132 has no effect, and that a TAKE asked for anew carries the hold of the claim in force as it then
stands (assumption 11), is the model's choice. -/
def Obligations.ContentionLossReturnsOrDiscardsTheNotice : Prop :=
  ∀ (s : State) (a : Attempt) (e : OutNotice) (waiting : List OutNotice), s.power = .running →
    s.notices.attempt = some a → s.notices.queue = e :: waiting →
    let kind := askKind e.ask
    let onFirstBit := a.elapsed < 2
    let after (q : List OutNotice) : State := { s with notices := { s.notices with
      queue := q, attempt := none, receiving := decide (¬ onFirstBit), gapPassed := false
      quiet := s.notices.quiet + (if onFirstBit then a.elapsed else 0) } }
    let heldFirst (q : List OutNotice) : List OutNotice :=
      q.filter (fun x => askKind x.ask = .held) ++ q.filter (fun x => askKind x.ask ≠ .held)
    let meetsRelease := (kind = .claim ∨ kind = .take) ∧ ∃ x ∈ waiting, askKind x.ask = .release
    (e.losses + 1 < 16 → ¬ meetsRelease →
      ((∀ x ∈ waiting, askKind x.ask ≠ kind) →
        exec .contentionLoss s = .next (settle (after (heldFirst ({ e with losses := e.losses + 1 } :: waiting))))) ∧
      (∀ before x behind, waiting = before ++ x :: behind → askKind x.ask = kind →
        (∀ y ∈ before ++ behind, askKind y.ask ≠ kind) →
        exec .contentionLoss s =
          .next (settle (after (heldFirst ({ x with losses := e.losses + 1 } :: before ++ behind)))))) ∧
    (e.losses + 1 < 16 → meetsRelease → (∀ x ∈ waiting, askKind x.ask ≠ kind) → s.claims.own ≠ .releasing →
      exec .contentionLoss s = .next (settle (after (heldFirst (waiting.filter fun x => askKind x.ask ≠ .release))))) ∧
    (∀ before x behind, e.losses + 1 < 16 → meetsRelease → waiting = before ++ x :: behind → askKind x.ask = kind →
      (∀ y ∈ before ++ behind, askKind y.ask ≠ kind) → s.claims.own ≠ .releasing →
      exec .contentionLoss s = .next (settle (after (heldFirst ({ x with losses := e.losses + 1 } ::
        (before ++ behind).filter fun y => askKind y.ask ≠ .release))))) ∧
    (16 ≤ e.losses + 1 → meetsRelease → s.claims.own = .none →
      exec .contentionLoss s = .next (settle (queueReport (.noticeDropped kind (e.losses + 1))
        (after (heldFirst (waiting.filter fun x => askKind x.ask ≠ .release)))))) ∧
    (16 ≤ e.losses + 1 → ¬ meetsRelease →
      (kind = .status ∨ kind = .held ∨ (s.claims.own = .none ∧ s.claims.holder ≠ some s.station)) →
      exec .contentionLoss s =
        .next (settle (queueReport (.noticeDropped kind (e.losses + 1)) (after (heldFirst waiting))))) ∧
    (∀ c, 16 ≤ e.losses + 1 → ¬ meetsRelease → s.claims.inForce = some c →
      (kind = .claim → s.claims.own = .queued → ∃ t, exec .contentionLoss s = .next t ∧ t.claims.inForce = some c ∧
        ∃ x ∈ t.notices.queue, x.ask = .claim c.priority c.hold) ∧
      (kind = .take → s.claims.own = .turn → s.claims.holder = none →
        s.claims.queue.head?.map (·.station) = some s.station → ∃ t, exec .contentionLoss s = .next t ∧
          t.claims = s.claims ∧ ∃ x ∈ t.notices.queue, x.ask = .take c.hold)) ∧
    (16 ≤ e.losses + 1 → kind = .release → s.claims.own = .releasing → s.claims.recorded = none →
      let ends := s.claims.releaseAt = none ∧ ∀ x ∈ waiting, askKind x.ask ≠ .release
      ∃ t, exec .contentionLoss s = .next t ∧ t.claims.own = (if ends then .none else .releasing) ∧
        t.claims.inForce = (if ends then none else s.claims.inForce) ∧ t.claims.releaseAt = s.claims.releaseAt ∧
        t.claims.occDriven = s.claims.occDriven ∧
        (s.claims.holder = some s.station → t.claims.holder = none ∧ t.claims.expiry = none)) ∧
    (meetsRelease → s.claims.own = .releasing → s.claims.releaseAt ≠ none →
      ∃ t, exec .contentionLoss s = .next t ∧ t.claims = s.claims) ∧
    (∃ t, exec .contentionLoss s = .next t ∧ t.notices.attempt = none ∧
      (¬ onFirstBit → t.notices.receiving = true ∧ ¬ Due t .accessGapExpiry ∧ ¬ Due t .busQuietTimeout) ∧
      (onFirstBit → t.notices.receiving = false ∧ t.notices.quiet = s.notices.quiet + a.elapsed ∧
        (s.notices.framing = true → 2 * (12 + 4 * ((s.station.val + 17 - s.notices.lastSender.val) % 9)) ≤ s.notices.quiet →
          Due t .accessGapExpiry)))

/-- A notice asked for (R28 to R30): it takes the place and the loss count of a waiting one of its kind; a HELD stands
before all that wait, any other kind behind them; the notice in flight keeps the head. A RELEASE asked for while a
CLAIM or TAKE waits removes both. So no kind waits twice, though one may wait while one of its kind is in flight, and every
step keeps it so while the part is not held. -/
def Obligations.NoKindOfNoticeWaitsTwice : Prop :=
  (∀ (a : Ask) (n : Notices),
    let waiting := if n.attempt = none then n.queue else n.queue.drop 1
    let flying := if n.attempt = none then [] else n.queue.take 1
    let after := queueNotice a n
    let absorbed := askKind a = .release ∧ ∃ x ∈ waiting, askKind x.ask = .claim ∨ askKind x.ask = .take
    after = { n with queue := after.queue } ∧
    (absorbed → after.queue = flying ++ waiting.filter fun x => askKind x.ask ≠ .claim ∧ askKind x.ask ≠ .take) ∧
    (¬ absorbed → (∀ x ∈ waiting, askKind x.ask ≠ askKind a) →
      after.queue = (if askKind a = .held then flying ++ ⟨a, 0⟩ :: waiting else flying ++ waiting ++ [⟨a, 0⟩])) ∧
    (¬ absorbed → ∀ before x behind, waiting = before ++ x :: behind → askKind x.ask = askKind a →
      (∀ y ∈ before ++ behind, askKind y.ask ≠ askKind a) → after.queue = flying ++ before ++ ⟨a, x.losses⟩ :: behind) ∧
    ((waiting.map fun x => askKind x.ask).Nodup →
      ((if n.attempt = none then after.queue else after.queue.drop 1).map fun x => askKind x.ask).Nodup)) ∧
  (∀ s t : State, NoticesSound s → step s = .next t → NoticesSound t)

/-! ### Peers and the share -/

/-- The presence timer of a peer (R43): JOINING falls to ABSENT, PRESENT to STALE, STALE to ABSENT, and an ABSENT
station's hold and claim end in the holder view (R127). The capacity view's timer (R46): CURRENT falls to STALE and
STALE to NONE. That nothing happens of a timer that has not ended or does not run, the own entry's and an ABSENT
station's included, is the model's choice (assumption 4). -/
def Obligations.PresenceAndCapacityTimersMoveOneStateOn : Prop :=
  ∀ s : State, s.power = .running →
    (∀ k : StationNo, (¬ Due s (.presenceTimerExpiry k) → exec (.presenceTimerExpiry k) s = .next (settle s)) ∧
      (Due s (.presenceTimerExpiry k) → ∃ t, exec (.presenceTimerExpiry k) s = .next t ∧
        k ≠ s.station ∧ (look s.share.peers k).presence ≠ .absent ∧
        (∀ j, look t.share.peers j = if j = k then { look s.share.peers k with
            presence := (if (look s.share.peers k).presence = .present then .stale else .absent) }
          else look s.share.peers j) ∧
        ((look s.share.peers k).presence ≠ .present → look t.claims.present k = false ∧ t.claims.holder ≠ some k ∧
          ∀ c ∈ t.claims.queue, c.station ≠ k) ∧
        ((look s.share.peers k).presence = .present → t.claims = s.claims))) ∧
    (¬ Due s .capacityViewExpiry → exec .capacityViewExpiry s = .next (settle s)) ∧
    (Due s .capacityViewExpiry → s.share.capacity.state ≠ .none ∧ exec .capacityViewExpiry s =
      .next (settle { s with share := { s.share with capacity := { s.share.capacity with
        state := (if s.share.capacity.state = .current then .stale else .none) } } }))

/-- An expiry of the notice period (R36, R45, R49 to R51): the timer runs on; every line's offered bytes are counted
again from 0 and its demand moves a quarter of the way, rounded up, toward its sample, clamped to the line's cap, or is
0 out of service; the own entry takes the advertised demand, the weight and the allowance of the STATUS asked for. -/
def Obligations.NoticePeriodExpiryUpdatesDemandsAndAsksForStatus : Prop :=
  ∀ s : State, s.power = .running → Due s .noticePeriodExpiry → ∃ t, exec .noticePeriodExpiry s = .next t ∧
    t.share.periodAt = s.share.periodAt.map (· + 10 * s.settings.periodUnits) ∧
    (∀ l, let r := lineOf s l
      let rate := match r.service with
        | .up => r.profile.peak
        | .degraded => max 1 (r.profile.peak * r.profile.degraded / 100)
        | _ => 0
      let sample := min (match r.attainable with | some a => min rate a | none => rate)
        (r.offered * 8 / (10 * s.settings.periodUnits))
      (lineOf t l).offered = 0 ∧
      (lineOf t l).demand = (if r.service = .up ∨ r.service = .degraded then
          (if r.demand ≤ sample then r.demand + (sample - r.demand + 3) / 4
            else r.demand - (r.demand - sample + 3) / 4)
        else 0)) ∧
    (look t.share.peers s.station).demand = (min 524280 (((indices 12).map fun l => (lineOf t l).demand).sum +
      (if s.store.um = [] ∧ s.mgmt.reports = [] then 0 else 256)) + 7) / 8 * 8 ∧
    (look t.share.peers s.station).weight = s.settings.weight ∧
    (look t.share.peers s.station).allowance = (t.share.allowance + 7) / 8 * 8 ∧
    (∀ j, j ≠ s.station → look t.share.peers j = look s.share.peers j) ∧
    (∃ e ∈ t.notices.queue, e.ask = .status s.settings.weight ((look t.share.peers s.station).demand / 8)
      ((t.share.allowance + 7) / 8))

/-- A recomputed share and its application (R47, R48, R55, R58, R60): a share not above the allowance in effect becomes it
at once and removes a pending rise; a share above it waits a notice period from the last rise of the target. The rise
check (R59), made at the due time of the rise, raises the allowance to the target or to the room that the peers leave,
whichever is less. -/
def Obligations.ShareIsAppliedAndRisesAreChecked : Prop :=
  (∀ s : State,
     let t := recompute s
     let c := match s.share.capacity.state, s.share.capacity.last with
       | .none, _ => s.settings.floor
       | _, none => s.settings.floor
       | _, some n => min s.settings.ceiling (max s.settings.floor (64 * n))
     let old := s.share.allowance
     t.share.usedC = c ∧ t.share.effective = c * (100 - s.settings.headroom) / 100 ∧
     t.share.share = min 1000000 (shareOf s) ∧
     (t.share.share ≤ old → t.share.allowance = t.share.share ∧ t.share.rise = none) ∧
     (old < t.share.share → t.share.allowance = old ∧
       t.share.rise = some ⟨t.share.share, match s.share.rise with
         | some r => if t.share.share ≤ r.target then r.due else s.time + 10 * s.settings.periodUnits
         | none => s.time + 10 * s.settings.periodUnits⟩) ∧
     t = { s with share := t.share, sched := t.sched } ∧
     (t.share.allowance = old → t.sched = s.sched) ∧
     (t.share.allowance ≠ old →
       t.sched.stationDepth = min 65535 (max 4096 (t.share.allowance * 10 / 8)) ∧
       t.sched.stationLevel = min s.sched.stationLevel t.sched.stationDepth ∧
       (s.sched.stationCounter.running = true → t.sched.stationCounter =
         { s.sched.stationCounter with pending := some t.share.allowance, rate := t.share.allowance }))) ∧
  (∀ (s : State) (r : Rise), s.power = .running → s.share.rise = some r → r.due ≤ s.time →
     let isolated := s.notices.condition = .isolated
     let c := if isolated then s.settings.floor * (100 - s.settings.headroom) / 100 / s.settings.cabinet
       else rawCapacity s
     let p := if isolated then 0 else ((indices 8).map fun k =>
       let e := look s.share.peers k
       if k ≠ s.station ∧ (e.presence = .present ∨ e.presence = .stale) then e.allowance else 0).sum
     ∃ t, exec .riseCheck s = .next t ∧ t.share = { s.share with
       rise := none
       allowance := (if p < c then max s.share.allowance (min r.target (c - p)) else s.share.allowance) })

/-- The order of the participants of a water-fill (R53): by demand over weight, compared by cross products, and by
station number where they are equal; the list formed holds the same participants, each before the next. -/
def Obligations.ParticipantsAreOrderedByDemandPerWeight : Prop :=
  (∀ i j : Participant, comesBefore i j = true ↔
    i.demand * j.weight < j.demand * i.weight ∨ (i.demand * j.weight = j.demand * i.weight ∧ i.station < j.station)) ∧
  ∀ ps : List Participant, (∀ p ∈ ps, 0 < p.weight) → (ps.map (·.station)).Nodup →
    (orderParticipants ps).Perm ps ∧ ((orderParticipants ps).Pairwise fun i j => comesBefore i j = true) ∧
    (∀ qs, qs.Perm ps → orderParticipants qs = orderParticipants ps) ∧
    (∀ i ∈ ps, ∀ j ∈ ps, i.demand ≤ 524280 → j.weight ≤ 15 → i.demand * j.weight ≤ 7864200) ∧
    ∀ i ∈ ps, ∀ j ∈ ps, i ≠ j → (comesBefore i j = true ↔ comesBefore j i = false)

/-- The water-fill (R54): a walk of the order with the remaining capacity R and weight S. A participant whose demand
fits its part of R is given its demand; the first that does not fit stops the walk, and it and all behind it are
given their parts of R. So the values given never exceed the capacity together, none exceeds the demand of its
participant, those of the stopping step are less than the demands, and where the demands fit together each is met; the
computed share is the value of the own entry and does not exceed its demand. -/
def Obligations.WaterFillNeverExceedsTheCapacityOrADemand : Prop :=
  (∀ (capacity : Nat) (ps : List Participant), (∀ p ∈ ps, 0 < p.weight) →
    let given := waterFill capacity ps
    given = walk capacity ((ps.map (·.weight)).sum) (orderParticipants ps) ∧
    given.map (·.1) = orderParticipants ps ∧ (given.map (·.2)).sum ≤ capacity ∧
    (∀ g ∈ given, g.2 ≤ g.1.demand) ∧
    (∃ k, (∀ g ∈ given.take k, g.2 = g.1.demand) ∧ ∀ g ∈ given.drop k, g.2 < g.1.demand) ∧
    ((ps.map (·.demand)).sum ≤ capacity → ∀ g ∈ given, g.2 = g.1.demand)) ∧
  (∀ (r : Nat) (i : Participant) (rest : List Participant), 0 < i.weight →
    let s := ((i :: rest).map (·.weight)).sum
    let f := r * i.weight / s
    i.weight ≤ s ∧ 0 < s ∧ s - i.weight = (rest.map (·.weight)).sum ∧
    (i.demand ≤ f → walk r s (i :: rest) = (i, i.demand) :: walk (r - i.demand) (s - i.weight) rest) ∧
    (f < i.demand → walk r s (i :: rest) = (i :: rest).map fun j => (j, r * j.weight / s)) ∧
    (r ≤ 4000000 → ∀ j ∈ i :: rest, j.weight ≤ 15 → r * j.weight ≤ 60000000)) ∧
  (∀ s : State, s.notices.condition ≠ .isolated →
    (∀ k, takesPart s.station k (look s.share.peers k) = true → 0 < (look s.share.peers k).weight) →
    let ps := participants s.station s.share.peers
    shareOf s ≤ (look s.share.peers s.station).demand ∧
    (0 < (look s.share.peers s.station).demand → ∃ g ∈ waterFill (lessHeadroom s (rawCapacity s)) ps,
      g.1.station = s.station.val ∧ g.2 = shareOf s))

/-! ### Frames -/

/-- The bytes of a frame written into a chain of its own cells read back as they were, and the bytes of every other cell
stand (R62). A holder given up lowers every count of the chain by one; a cell whose count reaches 0 goes to the tail of
the free list in chain order, and nothing else of the store changes (R63). -/
def Obligations.CellsHoldTheirFrameAndReturnToTheFreeList : Prop :=
  (∀ (cells : List CellNo) (m : List Host.Cell) (bytes : List Byte), cells.Nodup → memWf m = true →
     bytes.length ≤ 256 * cells.length →
     readFrame cells (writeFrame cells m 0 bytes) bytes.length = bytes ∧
     (∀ (c : CellNo) (o : Nat), c ∉ cells → o < 256 →
       memRead (writeFrame cells m 0 bytes) (256 * c.val + o) = memRead m (256 * c.val + o))) ∧
  (∀ (cells : List CellNo) (st : Store), cells.Nodup →
     dropHolder cells st = { st with
       free := st.free ++ cells.filter fun c => decide (look st.refs c ≤ 1)
       refs := tabulate 2048 fun c => if c ∈ cells then look st.refs c - 1 else look st.refs c })

/-- An upstream frame on a line port (R13, R67 to R69). Its first byte takes the head of the free list if the line is
in service, its queue below its limit and 64 cells are free, and else the frame is counted as dropped; each further
cell holds 256 bytes, up to 2,048; at its end a frame of 64 bytes or more enters the tail of its queue. That a first byte
while the rest of a dropped frame is being discarded begins a new frame is the model's choice (assumption 12). -/
def Obligations.UpstreamFrameIsAdmittedGrownAndQueued : Prop :=
  ∀ (l : Line) (s : State), s.power = .running →
    let r := lineOf s l
    let st := s.store
    let counted : LineRec := { r with admissionDrop := min 4294967295 (r.admissionDrop + 1) }
    let admits := (r.service = .up ∨ r.service = .degraded) ∧ upCells st l < r.profile.upLimit ∧ 64 ≤ st.free.length
    (∀ b, (∀ cells count, look st.lineRx l ≠ .receiving cells count) →
      (∀ c rest, admits → st.free = c :: rest → exec (.firstCellAdmission (.line l) b) s =
        .next (settle { s with store := { st with
          free := rest, refs := put st.refs c 1, lowMark := min st.lowMark rest.length
          memory := memWrite st.memory (256 * c.val) b, lineRx := put st.lineRx l (.receiving [c] 1) } })) ∧
      (¬ admits → exec (.firstCellAdmission (.line l) b) s =
        .next (settle { s with
          lines := put s.lines l counted, store := { st with lineRx := put st.lineRx l .discarding } }))) ∧
    (∀ (bytes : Vector Byte 256) cells count, look st.lineRx l = .receiving cells count →
      (∀ c rest, st.free = c :: rest → count + 256 ≤ 2048 → exec (.furtherCellNeeded (.line l) bytes) s =
        .next (settle { s with store := { st with
          free := rest, refs := put st.refs c 1, lowMark := min st.lowMark rest.length
          memory := writeFrame (cells ++ [c]) st.memory count bytes.toList
          lineRx := put st.lineRx l (.receiving (cells ++ [c]) (count + 256)) } })) ∧
      (st.free = [] ∨ 2048 < count + 256 → exec (.furtherCellNeeded (.line l) bytes) s =
        .next (settle (releaseChain cells { s with
          lines := put s.lines l counted, store := { st with lineRx := put st.lineRx l .discarding } })))) ∧
    (∀ (rest : List Byte) cells count, look st.lineRx l = .receiving cells count → rest.length ≤ 255 →
      (64 ≤ count + rest.length → exec (.frameReceptionEnd (.line l) rest) s =
        .next (settle { s with store := { st with
          memory := writeFrame cells st.memory count rest, lineRx := put st.lineRx l .idle
          up := put st.up l (look st.up l ++ [⟨cells, count + rest.length, s.time, .normal, false⟩]) } })) ∧
      (count + rest.length < 64 → exec (.frameReceptionEnd (.line l) rest) s =
        .next (settle (releaseChain cells { s with
          lines := put s.lines l counted, store := { st with lineRx := put st.lineRx l .idle } }))))

/-- The end of a frame's header on the uplink port (R1, R99, R100), its tag and length read most significant byte first:
DATA for the line of the map entry that holds its tag, unmapped if none does; FLOOD for every line; MGMT with the
management tag a request. A DATA or FLOOD length outside 64 to 2,048, an MGMT frame with another tag and every other kind
count as malformed. That the length of a DATA frame is tested before its tag, and that a header may end while the rest of
a dropped frame is being discarded, is the model's choice (assumption 12). -/
def Obligations.UplinkHeaderClassifiesTheFrame : Prop :=
  ∀ (tag : Vector Byte 2) (kind : Byte) (length : Vector Byte 2) (s : State), s.power = .running → MapSound s →
    s.store.uplinkRx = .idle ∨ s.store.uplinkRx = .discarding →
    let t := 256 * tag[0].toNat + tag[1].toNat
    let n := 256 * length[0].toNat + length[1].toNat
    let good := 64 ≤ n ∧ n ≤ 2048
    let becomes (r : UplinkRx) : Prop := exec (.uplinkHeaderEnd tag kind length) s =
      .next (settle { s with store := { s.store with uplinkRx := r } })
    let malformed : Prop := exec (.uplinkHeaderEnd tag kind length) s =
      .next (settle { s with
        store := { s.store with uplinkRx := .discarding }
        dist := { s.dist with malformed := min 4294967295 (s.dist.malformed + 1) } })
    (kind = 1 → good →
      (∀ i, ∀ e ∈ look s.dist.map i, e.tag = t → becomes (.dataHeader e.line e.cls n)) ∧
      ((∀ i, ∀ e ∈ look s.dist.map i, e.tag ≠ t) → exec (.uplinkHeaderEnd tag kind length) s =
        .next (settle { s with
          store := { s.store with uplinkRx := .discarding }
          dist := { s.dist with unmapped := min 4294967295 (s.dist.unmapped + 1) } }))) ∧
    (kind = 2 → good → becomes (.floodHeader n)) ∧
    (kind = 1 ∨ kind = 2 → ¬ good → malformed) ∧
    (kind = 3 → t = s.settings.mgmtTag → becomes (.request n [] 0)) ∧
    (kind = 3 → t ≠ s.settings.mgmtTag → malformed) ∧
    (kind ≠ 1 → kind ≠ 2 → kind ≠ 3 → malformed)

/-- A downstream frame on the uplink port (R66 to R70, R100, R102). DATA takes a cell if its line is in service, under its
limit, and 64 cells are free; FLOOD for every line in service and under its limit. A frame of its header's length
enters the queue of its line, HIGH behind the last HIGH, or of every target with a reference each; a transmitter that
waits with LP_RDY asserted takes it at once, and one that is IDLE reads LP_RDY for it (R103, R104; deduced, assumption
16). A line that leaves service during the reception drops its DATA frame, or
leaves the targets of a FLOOD frame, which goes on for the others; the last target to leave drops it. -/
def Obligations.DownstreamFrameIsAdmittedGrownAndQueued : Prop :=
  (∀ s : State, s.power = .running →
     let st := s.store
     let takes (c : CellNo) (rest : List CellNo) (m : List Host.Cell) (r : UplinkRx) : State := { s with store := { st with
       free := rest, refs := put st.refs c 1, lowMark := min st.lowMark rest.length, memory := m, uplinkRx := r } }
     let isOpen (l : Line) := ((lineOf s l).service = .up ∨ (lineOf s l).service = .degraded) ∧
       downCells st l < (lineOf s l).profile.downLimit
     let dropped (l : Line) : State := { s with
       lines := alter s.lines l (fun r => { r with admissionDrop := min 4294967295 (r.admissionDrop + 1) })
       store := { st with uplinkRx := .discarding } }
     let lost : State := { s with store := { st with
       uplinkRx := .discarding, floodDrop := min 4294967295 (st.floodDrop + 1) } }
     (∀ b l cls length, st.uplinkRx = .dataHeader l cls length →
       (∀ c rest, isOpen l → 64 ≤ st.free.length → st.free = c :: rest → exec (.firstCellAdmission .uplink b) s =
         .next (settle (takes c rest (memWrite st.memory (256 * c.val) b) (.data l cls length [c] 1)))) ∧
       (¬ isOpen l ∨ st.free.length < 64 → exec (.firstCellAdmission .uplink b) s = .next (settle (dropped l)))) ∧
     (∀ b length, st.uplinkRx = .floodHeader length →
       (∀ c rest targets, targets = (indices 12).filter (fun l => isOpen l) → targets ≠ [] → 64 ≤ st.free.length →
         st.free = c :: rest → exec (.firstCellAdmission .uplink b) s =
           .next (settle (takes c rest (memWrite st.memory (256 * c.val) b) (.flood targets length [c] 1)))) ∧
       ((∀ l, ¬ isOpen l) ∨ st.free.length < 64 → exec (.firstCellAdmission .uplink b) s = .next (settle lost))) ∧
     (∀ (bytes : Vector Byte 256) l cls length cells count, st.uplinkRx = .data l cls length cells count →
       (∀ c rest, st.free = c :: rest → count + 256 ≤ 2048 → exec (.furtherCellNeeded .uplink bytes) s =
         .next (settle (takes c rest (writeFrame (cells ++ [c]) st.memory count bytes.toList)
           (.data l cls length (cells ++ [c]) (count + 256))))) ∧
       (st.free = [] ∨ 2048 < count + 256 →
         exec (.furtherCellNeeded .uplink bytes) s = .next (settle (releaseChain cells (dropped l))))) ∧
     (∀ (bytes : Vector Byte 256) targets length cells count, st.uplinkRx = .flood targets length cells count →
       (∀ c rest, st.free = c :: rest → count + 256 ≤ 2048 → exec (.furtherCellNeeded .uplink bytes) s =
         .next (settle (takes c rest (writeFrame (cells ++ [c]) st.memory count bytes.toList)
           (.flood targets length (cells ++ [c]) (count + 256))))) ∧
       (st.free = [] ∨ 2048 < count + 256 →
         exec (.furtherCellNeeded .uplink bytes) s = .next (settle (releaseChain cells lost))))) ∧
  (∀ (rest : List Byte) (s : State), s.power = .running → rest.length ≤ 255 →
     let st := s.store
     (∀ l cls length cells count, st.uplinkRx = .data l cls length cells count →
       let e : Entry := ⟨cells, count + rest.length, s.time, cls, false⟩
       let q := look st.down l
       let placed := match cls with
         | .normal => q ++ [e]
         | .high => q.takeWhile (fun x => x.cls = .high) ++ e :: q.dropWhile (fun x => x.cls = .high)
       let stored : Store := { st with uplinkRx := .idle, memory := writeFrame cells st.memory count rest }
       (count + rest.length = length → 64 ≤ length →
         (look s.dist.ready l = false ∨ look s.dist.sending l ≠ none → exec (.frameReceptionEnd .uplink rest) s =
           .next (settle { s with
             store := { stored with down := put st.down l placed }
             dist := if look s.dist.sending l = none then
               { s.dist with lastReady := put s.dist.lastReady l false } else s.dist })) ∧
         (look s.dist.ready l = true → look s.dist.sending l = none → q = [] →
           ∃ t, exec (.frameReceptionEnd .uplink rest) s = .next t ∧
             t.dist = { s.dist with
               sending := put s.dist.sending l (some e), lastReady := put s.dist.lastReady l true } ∧
             t.store.down = st.down ∧ t.store.uplinkRx = .idle)) ∧
       (count + rest.length ≠ length ∨ length < 64 → exec (.frameReceptionEnd .uplink rest) s =
         .next (settle (releaseChain cells { s with
           lines := alter s.lines l (fun r => { r with admissionDrop := min 4294967295 (r.admissionDrop + 1) })
           store := { st with uplinkRx := .idle } })))) ∧
     (∀ targets length cells count, st.uplinkRx = .flood targets length cells count →
       let e : Entry := ⟨cells, count + rest.length, s.time, .normal, false⟩
       (count + rest.length = length → 64 ≤ length → targets.Nodup → cells.Nodup → targets ≠ [] →
         (∀ l, look s.dist.ready l = false) → ∃ s1, exec (.frameReceptionEnd .uplink rest) s = .next (settle s1) ∧
           (∀ l, look s1.store.down l = if l ∈ targets then look st.down l ++ [e] else look st.down l) ∧
           (∀ c, look s1.store.refs c = if c ∈ cells then look st.refs c + targets.length - 1 else look st.refs c) ∧
           (∀ l, look s1.dist.lastReady l =
             if l ∈ targets ∧ look s.dist.sending l = none then false else look s.dist.lastReady l) ∧
           s1 = { s with
             store := { st with
               uplinkRx := .idle, memory := writeFrame cells st.memory count rest
               down := s1.store.down, refs := s1.store.refs }
             dist := { s.dist with lastReady := s1.dist.lastReady } }) ∧
       (count + rest.length = length → 64 ≤ length → targets.Nodup → targets ≠ [] →
         (∀ l ∈ targets, look s.dist.ready l = true → look s.dist.sending l = none → look st.down l = []) →
         ∃ s1, exec (.frameReceptionEnd .uplink rest) s = .next (settle s1) ∧ s1.store.uplinkRx = .idle ∧
           ∀ l, let takes := l ∈ targets ∧ look s.dist.ready l = true ∧ look s.dist.sending l = none
             look s1.dist.sending l = (if takes then some e else look s.dist.sending l) ∧
             look s1.store.down l = (if l ∈ targets ∧ ¬ takes then look st.down l ++ [e] else look st.down l) ∧
             look s1.dist.lastReady l = (if l ∈ targets ∧ look s.dist.sending l = none then look s.dist.ready l
               else look s.dist.lastReady l)) ∧
       (count + rest.length ≠ length ∨ length < 64 → exec (.frameReceptionEnd .uplink rest) s =
         .next (settle (releaseChain cells { s with store := { st with
           uplinkRx := .idle, floodDrop := min 4294967295 (st.floodDrop + 1) } }))))) ∧
  (∀ (l : Line) (s : State), inService (lineOf s l).service = true → inService (deriveService (lineOf s l)) = false →
     (∀ cells count, look s.store.lineRx l ≠ .receiving cells count) →
     let t := rederive l s
     (∀ cls length cells count, s.store.uplinkRx = .data l cls length cells count →
       t.store.uplinkRx = .discarding ∧
       (lineOf t l).admissionDrop = min 4294967295 ((lineOf s l).admissionDrop + 1)) ∧
     (∀ targets length cells count, s.store.uplinkRx = .flood targets length cells count → l ∈ targets →
       let left := targets.filter (· ≠ l)
       (lineOf t l).admissionDrop = min 4294967295 ((lineOf s l).admissionDrop + 1) ∧
       (left ≠ [] → t.store.uplinkRx = .flood left length cells count ∧ t.store.floodDrop = s.store.floodDrop) ∧
       (left = [] → t.store.uplinkRx = .discarding ∧
         t.store.floodDrop = min 4294967295 (s.store.floodDrop + 1))))

/-- A frame that ends with ABORT is dropped, counted, and its cells return (R174); every upstream byte counts toward
the offered bytes of a line that is not VACANT (R13). -/
def Obligations.AbortedFramesAreDroppedAndBytesOffered : Prop :=
  ∀ s : State, s.power = .running →
    let counted (l : Line) (st : Store) : State := { s with
      lines := alter s.lines l (fun r => { r with admissionDrop := min 4294967295 (r.admissionDrop + 1) }), store := st }
    (∀ (l : Line) cells count, look s.store.lineRx l = .receiving cells count →
      exec (.frameAbortReceived (.line l)) s =
        .next (settle (releaseChain cells (counted l { s.store with lineRx := put s.store.lineRx l .idle })))) ∧
    (∀ l : Line, look s.store.lineRx l = .discarding → exec (.frameAbortReceived (.line l)) s =
      .next (settle { s with store := { s.store with lineRx := put s.store.lineRx l .idle } })) ∧
    (∀ (l : Line) cls length cells count, s.store.uplinkRx = .data l cls length cells count →
      exec (.frameAbortReceived .uplink) s =
        .next (settle (releaseChain cells (counted l { s.store with uplinkRx := .idle })))) ∧
    (∀ targets length cells count, s.store.uplinkRx = .flood targets length cells count →
      exec (.frameAbortReceived .uplink) s = .next (settle (releaseChain cells { s with store := { s.store with
        uplinkRx := .idle, floodDrop := min 4294967295 (s.store.floodDrop + 1) } }))) ∧
    (∀ length kept received, s.store.uplinkRx = .request length kept received → exec (.frameAbortReceived .uplink) s =
      .next (settle { s with
        store := { s.store with uplinkRx := .idle }
        dist := { s.dist with malformed := min 4294967295 (s.dist.malformed + 1) } })) ∧
    (∀ l : Line, exec (.upstreamByteArrival l) s = .next (settle { s with lines := alter s.lines l fun r =>
      if r.service = .vacant then r else { r with offered := min 4294967295 (r.offered + 1) } }))

/-- A line-port transmitter takes a frame when it is idle, LP_RDY is asserted and its queue is not empty, at the
assertion and at the end of a frame (R72, R73, R102, R103): heads older than the sojourn are discarded and counted,
and the first fresh frame is taken; a withdrawal stops nothing. The end of a frame gives up its cells. LP_RDY is read only
when a frame is to be taken, so that an edge which comes at another time leaves the level as last read (R103, R104); that
this is at each check of an IDLE transmitter whose queue holds a frame is deduced (assumption 16). -/
def Obligations.LinePortTakesTheFirstFreshFrame : Prop :=
  ∀ (l : Line) (s : State), s.power = .running →
    let ready (b : Bool) : State := { s with dist := { s.dist with ready := put s.dist.ready l b } }
    let finished (e : Entry) : State := releaseChain e.cells { s with dist := { s.dist with
      sending := put s.dist.sending l none, lastEnd := put s.dist.lastEnd l (some .close) } }
    exec (.lpRdyWithdrawn l) s = .next (settle (ready false)) ∧
    (look s.dist.sending l ≠ none ∨ look s.store.down l = [] →
      exec (.lpRdyAsserted l) s = .next (settle (ready true))) ∧
    (∀ e, look s.dist.sending l = some e → look s.store.down l = [] →
      exec (.linePortTransmissionComplete l) s = .next (settle (finished e))) ∧
    (∀ e, look s.dist.sending l = some e → look s.dist.ready l = false → look s.store.down l ≠ [] →
      exec (.linePortTransmissionComplete l) s = .next (settle { finished e with
        dist := { (finished e).dist with lastReady := put s.dist.lastReady l false } })) ∧
    (∀ old fresh, look s.store.down l = old ++ fresh → old ++ fresh ≠ [] →
      (∀ e ∈ old, s.settings.sojourn < s.time - e.stamp) →
      (∀ e ∈ fresh.head?, s.time - e.stamp ≤ s.settings.sojourn) →
      let after (s1 : State) : Prop := look s1.store.down l = fresh.drop 1 ∧ look s1.dist.sending l = fresh.head? ∧
        s1.dist.lastReady = put s.dist.lastReady l true ∧
        (lineOf s1 l).ageDiscard = min 4294967295 ((lineOf s l).ageDiscard + old.length)
      (look s.dist.sending l = none → ∃ s1, exec (.lpRdyAsserted l) s = .next (settle s1) ∧ after s1) ∧
      (∀ e, look s.dist.sending l = some e → look s.dist.ready l = true →
        ∃ s1, exec (.linePortTransmissionComplete l) s = .next (settle s1) ∧ after s1))

/-! ### Pacing and scheduling -/

/-- The depth of the station bucket (R82): formed afresh at each change of the allowance, as soon as it is handed to the
scheduler; a level above the new depth is cut to it, the pace of a running counter stands until its next underflow,
and a deeper bucket fills further from the next refill on. -/
def Obligations.StationBucketDepthFollowsTheAllowance : Prop :=
  ∀ (a : Nat) (sc : Scheduler),
    let t := takeAllowance a sc
    t.stationDepth = min 65535 (max 4096 (a * 10 / 8)) ∧
    ((t.stationDepth : Int) < sc.stationLevel → t.stationLevel = t.stationDepth) ∧
    (sc.stationLevel ≤ t.stationDepth → t.stationLevel = sc.stationLevel) ∧
    (a ≤ 3277 → t.stationDepth = 4096) ∧ (52428 ≤ a → t.stationDepth = 65535) ∧
    (a = 9857 → t.stationDepth = 12321) ∧
    (sc.stationCounter.running = true → t.stationCounter.count = sc.stationCounter.count ∧
      t.stationCounter.reload = sc.stationCounter.reload ∧ t.stationCounter.clock = sc.stationCounter.clock) ∧
    (sc.stationLevel ≤ t.stationDepth →
      refill t.stationDepth t.stationLevel = min (t.stationDepth : Int) (sc.stationLevel + 128)) ∧
    (∀ s : State, a ≠ s.share.allowance →
      changeAllowance a s = { s with share := { s.share with allowance := a }, sched := takeAllowance a s.sched })

/-- The pace of a counter (R78): for every rate the reload value is the least that keeps the achieved rate at or below
the rate asked for, and it fits 16 bits. -/
def Obligations.AchievedRateNeverExceedsTheRateAskedFor : Prop :=
  ∀ rate : Nat, 1 ≤ rate → rate ≤ 1000000 →
    let n := (paceOf rate).2
    n ≤ 63999 ∧ (paceOf rate).1 = (if 16 ≤ rate then .fast else .slow) ∧
    (16 ≤ rate → 1024000 ≤ rate * (n + 1) ∧ rate * n < 1024000 ∧ (512000 ≤ rate → n = 1)) ∧
    (rate < 16 → 16000 ≤ rate * (n + 1) ∧ rate * n < 16000)

/-- An underflow of a running counter (R77, R79, R81, R88) raises its bucket by 128 up to its depth and reloads the
counter, takes up a pending rate or stops at 0; a paused turn resumes above level 0. The end of an uplink frame (R72,
R91, R166, R174): CLOSE, its cells given up, a restart wait that it carried ended, and a start opportunity. That the command
PACING_UNDERFLOW acts on any running counter, with no test of its count or of a tick of its clock, and does nothing for a
stopped one (assumption 4), and that a counter which a pending rate 0 stops keeps its N and clock (assumption 25), is the
model's choice. -/
def Obligations.UnderflowsRefillAndTransmissionsComplete : Prop :=
  (∀ s : State, s.power = .running →
     let onward (c : Counter) : Counter := match c.pending with
       | none => { c with count := c.reload }
       | some 0 => { c with running := false, count := 0, pending := none, rate := 0 }
       | some (r + 1) => ⟨true, (paceOf (r + 1)).1, (paceOf (r + 1)).2, (paceOf (r + 1)).2, none, r + 1⟩
     (∀ e : RoundEntry, let c := look s.sched.counters e
       let depth := entryDepth s e
       (c.running = false → exec (.pacingUnderflow (.entry e)) s = .next (settle s)) ∧
       (c.running = true → look s.sched.levels e ≤ depth → exec (.pacingUnderflow (.entry e)) s =
         .next (settle { s with sched := { s.sched with
           counters := put s.sched.counters e (onward c)
           levels := put s.sched.levels e (min depth (look s.sched.levels e + 128)) } }))) ∧
     (let c := s.sched.stationCounter
       let level := min (s.sched.stationDepth : Int) (s.sched.stationLevel + 128)
       let s1 : State := { s with sched := { s.sched with stationCounter := onward c, stationLevel := level } }
       (c.running = false → exec (.pacingUnderflow .station) s = .next (settle s)) ∧
       (c.running = true → s.sched.stationLevel ≤ s.sched.stationDepth →
         exec (.pacingUnderflow .station) s =
           .next (settle (if s.sched.turn = .paused ∧ 0 < level then startOpportunity s1 else s1))))) ∧
  (∀ (s : State) (f : UplinkFrame), s.power = .running → s.sched.inFlight = some f →
     let s1 := releaseChain f.cells { s with sched := { s.sched with inFlight := none, lastEnd := some .close } }
     let wait : RestartWait := match s.mgmt.wait with
       | .waiting _ => if f.endsWait = true then .ended else s.mgmt.wait
       | w => w
     let s2 : State := { s1 with mgmt := { s1.mgmt with wait := wait } }
     exec .uplinkTransmissionComplete s = .next (settle (if s.sched.turn = .idle then s2 else startOpportunity s2)))

/-- The search and a turn of the round (R83 to R89, R91). The idle scheduler of a running part gives the turn, at the end
of each step, to the first entry in round order from the pointer that is ready, its queue not empty and its level above
0, and stays as it is where none is. The entry takes its quantum, up to its quantum and 2,048 bytes, and has a start
opportunity. There the look discards the heads that are too old, and every head of a line without a map entry, and counts
them. With a fresh head, a deficit below its length, or a level not above 0, ends the turn; with the port busy it waits;
with the station level not above 0 it pauses; else the frame starts, with its header, and is debited three times. That the
searches stand at the end of each step, with a bound of 512 turns, is the model's choice (assumption 6). -/
def Obligations.TurnStartsFramesWithinDeficitAndLevels : Prop :=
  (∀ (n : Nat) (s : State),
    let isReady (e : RoundEntry) : Prop := queueOf s e ≠ [] ∧ 0 < look s.sched.levels e
    (s.power ≠ .running → settle s = s) ∧
    (s.sched.turn ≠ .idle → settle s = s ∧ searchUpTo n s = s) ∧
    ((∀ e, ¬ isReady e) → settle s = s ∧ searchUpTo n s = s) ∧
    (∀ k < 13, s.sched.turn = .idle → isReady (s.sched.pointer + Fin.ofNat 13 k) →
      (∀ j < k, ¬ isReady (s.sched.pointer + Fin.ofNat 13 j)) →
      let t := startOpportunity (takeTurn (s.sched.pointer + Fin.ofNat 13 k) s)
      searchUpTo (n + 1) s = searchUpTo n t ∧ (s.power = .running → settle s = searchUpTo 511 t))) ∧
  (∀ (e : RoundEntry) (s : State), let q := quantumOf s e
    (∀ l, lineOfEntry e = some l → q = 512 * (lineOf s l).profile.weight) ∧ (lineOfEntry e = none → q = 512) ∧
    takeTurn e s = { s with sched := { s.sched with
      pointer := e, turn := .held
      deficits := put s.sched.deficits e (min (look s.sched.deficits e + q) (q + 2048)) } }) ∧
  (∀ (s : State), s.mgmt.reports = [] →
    let e := s.sched.pointer
    let t := startOpportunity s
    let passed : Scheduler := { s.sched with
      pointer := e + 1, turn := .idle, deficits := put s.sched.deficits e 0 }
    let isOld (x : Entry) : Prop := s.settings.sojourn < s.time - x.stamp
    ((∀ x ∈ queueOf s e, isOld x) → t.sched = passed ∧ queueOf t e = [] ∧
      (∀ l, lineOfEntry e = some l →
        (lineOf t l).ageDiscard = min 4294967295 ((lineOf s l).ageDiscard + (queueOf s e).length)) ∧
      (lineOfEntry e = none → queueOf s e ≠ [] → t.mgmt.missed = true)) ∧
    (∀ l, lineOfEntry e = some l → (∀ i, ∀ x ∈ look s.dist.map i, x.line ≠ l) → t.sched = passed ∧ queueOf t e = [] ∧
      (lineOf t l).ageDiscard =
        min 4294967295 ((lineOf s l).ageDiscard + ((queueOf s e).filter fun x => decide (isOld x)).length) ∧
      (lineOf t l).unmapped =
        min 4294967295 ((lineOf s l).unmapped + ((queueOf s e).filter fun x => decide (¬ isOld x)).length))) ∧
  ∀ (s : State) (old : List Entry) (h : Entry) (rest : List Entry),
    let e := s.sched.pointer
    let deficit := look s.sched.deficits e
    let level := look s.sched.levels e
    let t := startOpportunity s
    queueOf s e = old ++ h :: rest → (∀ x ∈ old, s.settings.sojourn < s.time - x.stamp) →
    s.time - h.stamp ≤ s.settings.sojourn → s.mgmt.reports = [] →
    (∀ l, lineOfEntry e = some l → inService (lineOf s l).service = true ∧ ∃ tag, primaryTag s.dist.map l = some tag) →
    (∀ l, lineOfEntry e = some l →
      (lineOf t l).ageDiscard = min 4294967295 ((lineOf s l).ageDiscard + old.length)) ∧
    (lineOfEntry e = none → old ≠ [] → t.mgmt.missed = true) ∧
    (deficit < h.length ∨ level ≤ 0 → t.sched = { s.sched with pointer := e + 1, turn := .idle }) ∧
    (h.length ≤ deficit → 0 < level →
      (s.sched.inFlight ≠ none → t.sched = { s.sched with turn := .held }) ∧
      (s.sched.inFlight = none → s.sched.stationLevel ≤ 0 → t.sched = { s.sched with turn := .paused }) ∧
      (s.sched.inFlight = none → 0 < s.sched.stationLevel →
        queueOf t e = rest ∧
        t.sched.inFlight = some ⟨h.cells, h.length,
          bytes16 (BitVec.ofNat 16 (match lineOfEntry e with
            | some l => (primaryTag s.dist.map l).getD 0
            | none => s.settings.mgmtTag)) ++
          [if lineOfEntry e = none then 3 else 1] ++ bytes16 (BitVec.ofNat 16 h.length), h.endsWait⟩ ∧
        look t.sched.levels e = max (-2048) (level - h.length) ∧
        t.sched.stationLevel = max (-2048) (s.sched.stationLevel - h.length) ∧
        (rest = [] → look t.sched.deficits e = 0 ∧ t.sched.turn = .idle ∧ t.sched.pointer = e + 1) ∧
        (rest ≠ [] → look t.sched.deficits e = deficit - h.length) ∧
        (∀ x more, rest = x :: more → deficit - h.length < x.length ∨ level ≤ h.length →
          t.sched.turn = .idle ∧ t.sched.pointer = e + 1) ∧
        (∀ x more, rest = x :: more → x.length ≤ deficit - h.length → (h.length : Int) < level →
          t.sched.turn = .held ∧ t.sched.pointer = e)))

/-! ### Service state and line supervision -/

/-- BAR LINE and UNBAR LINE (R5) answer with the service state that R7 derives. A line that leaves service is flushed,
its frames in reception and transmission dropped, its counter stopped, its bucket filled and its demand set to 0 (R9);
one that enters service has its counter started at its line rate, and one that stays in service is given its new rate
(R11); the change is reported (R12). A line that enters TESTING is suspended, and one that leaves CONNECTED is resumed
with sync condition OUT before its service state is derived (R10, R118). That a stopped counter keeps the rate last given,
a discarded pending rate included (assumption 25), and that the report of a change follows its effects, the offers of the
room that they make among them (assumption 26), is the model's choice. -/
def Obligations.BarringALineTakesItOutOfService : Prop :=
  (∀ (num line : Byte) (s : State), TakesRequests s →
    (11 < line.toNat →
      exec (.barLine num line) s = .next (settle (respond 5 num .refusedRange [] false s)) ∧
      exec (.unbarLine num line) s = .next (settle (respond 6 num .refusedRange [] false s))) ∧
    (∀ l : Line, line.toNat = l.val →
      let become (b : Bool) : State := rederive l { s with
        lines := alter s.lines l fun r => { r with barred := b } }
      exec (.barLine num line) s =
        .next (settle (respond 5 num .done [serviceCode (lineOf (become true) l).service] false (become true))) ∧
      exec (.unbarLine num line) s =
        .next (settle (respond 6 num .done [serviceCode (lineOf (become false) l).service] false (become false))))) ∧
  (∀ (l : Line) (s : State),
    let r := lineOf s l
    let new : Service := if r.equipped = false then .vacant else if r.test = .connected then .testing
      else if r.barred = true then .barred else match r.sync with
        | .outOfSync => .down
        | .errored => .degraded
        | .inSync => .up
    let t := rederive l s
    let x := lineOf t l
    let e := entryOf l
    (r.service = new → t = s) ∧
    x.service = new ∧ x.barred = r.barred ∧ x.test = r.test ∧ x.sync = r.sync ∧ x.equipped = r.equipped ∧
    (∀ k, k ≠ l → (lineOf t k).service = (lineOf s k).service) ∧
    (inService r.service = true → inService new = false →
      look t.store.up l = [] ∧ look t.store.down l = [] ∧ look t.dist.sending l = none ∧ x.demand = 0 ∧
      (∀ cells count, look t.store.lineRx l ≠ .receiving cells count) ∧
      x.flush = min 4294967295 (r.flush + (look s.store.up l).length + (look s.store.down l).length +
        (if look s.dist.sending l = none then 0 else 1)) ∧
      look t.sched.deficits e = 0 ∧ look t.sched.levels e = r.profile.burst ∧
      look t.sched.counters e = { look s.sched.counters e with running := false, count := 0, pending := none } ∧
      ¬ (t.sched.turn ≠ .idle ∧ t.sched.pointer = e)) ∧
    (inService r.service = false → inService new = true → (look s.sched.counters e).running = false →
      1 ≤ lineRate r.profile new → look t.sched.counters e = loadCounter (lineRate r.profile new) ∧
        look t.sched.levels e = look s.sched.levels e ∧ t.store.up = s.store.up ∧ t.store.down = s.store.down) ∧
    (inService r.service = true → inService new = true → r.service ≠ new → (look s.sched.counters e).running = true →
      look t.sched.counters e = { look s.sched.counters e with
        pending := some (if new = .up then r.profile.peak else max 1 (r.profile.peak * r.profile.degraded / 100))
        rate := if new = .up then r.profile.peak else max 1 (r.profile.peak * r.profile.degraded / 100) } ∧
      t.sched.levels = s.sched.levels ∧ t.sched.deficits = s.sched.deficits ∧ t.store.up = s.store.up ∧
      t.store.down = s.store.down ∧ x.demand = r.demand) ∧
    (r.service ≠ new → ∃ s1, t = queueReport (.lineState l r.service new r.sync r.test r.barred r.hazard) s1 ∧
      s1.time = s.time ∧ (lineOf s1 l).service = new ∧ (inService r.service = false → s1.mgmt = s.mgmt)) ∧
    (r.service ≠ new → inService r.service = false → s.mgmt.reports.length = 16 → t.mgmt.missed = true) ∧
    (r.service ≠ new → s.mgmt.reports ≠ [] → s.mgmt.reports.length < 16 → inService r.service = false →
      t.mgmt.reports = s.mgmt.reports ++ [⟨s.time, .lineState l r.service new r.sync r.test r.barred r.hazard⟩]) ∧
    supOf t l = (if new = .testing ∧ r.service ≠ new then { supOf s l with
        aligned := false, candidates := [], mimicRecord := false, searchFrom := (supOf s l).bitIndex, searchTime := 0
        cutEnd := none, lastGood := none, suspended := true, second := none, window := ⟨0, 0⟩, timerFrom := none }
      else supOf s l) ∧
    (∀ k, k ≠ l → supOf t k = supOf s k)) ∧
  (∀ (l : Line) (s : State),
    let r := lineOf s l
    (r.test ≠ .connected → r.equipped = true → r.service ≠ .testing →
      let t := setTest l .connected s
      (lineOf t l).test = .connected ∧ (lineOf t l).service = .testing ∧ (lineOf t l).sync = r.sync ∧
      supOf t l = { supOf s l with
        aligned := false, candidates := [], mimicRecord := false, searchFrom := (supOf s l).bitIndex, searchTime := 0
        cutEnd := none, lastGood := none, suspended := true, second := none, window := ⟨0, 0⟩, timerFrom := none }) ∧
    (∀ new, r.test = .connected → new ≠ .connected →
      let t := setTest l new s
      (lineOf t l).test = new ∧ (lineOf t l).sync = .outOfSync ∧
      (lineOf t l).service = (if r.equipped = false then .vacant else if r.barred = true then .barred else .down) ∧
      supOf t l = { supOf s l with
        aligned := false, candidates := [], mimicRecord := false, searchFrom := (supOf s l).bitIndex, searchTime := 0
        cutEnd := none, lastGood := none, suspended := false, second := none, window := ⟨0, 0⟩, timerFrom := none
        showtime := ⟨false, false, 0⟩, signalLoss := ⟨false, false, 0⟩
        dyingGasp := ⟨false, false, 0⟩, remoteDefect := ⟨false, false, 0⟩ }))

/-- SEARCH and the triggers (R107 to R109, R115, R119, R120, R142, R144, R146, R152). A marker 48 bits behind a candidate
confirms it unless the mimic check rejects it, and aligns the line, with an ALIGNMENT CHANGE report where the offset has
moved; any other marker becomes a candidate; a search of 20 report times takes the line OUT. A suppressed loss-of-signal
cause is lost and its timer starts again. Any other one forms a TRIGGERED run: with a malformed chain it is ended at once;
with a good one it stands behind the last TRIGGERED run of the queue, from which it ends the tail run of a full queue
CANCELLED, takes the place of an OPERATOR run that waits for the bus, or is examined at once where no run is active. That
the bits up to the marker's eighth have been taken with the marker, in the bit index and the search time (assumption 17),
the slot in the RUN ENDED of the displaced run (assumption 14), and that an event which cannot occur does nothing
(assumption 4), is the model's choice. -/
def Obligations.SearchAlignsOrTakesTheLineOut : Prop :=
  ∀ (l : Line) (s : State), s.power = .running →
    let x := supOf s l
    (x.suspended = true ∨ x.aligned = true → ∀ position,
      exec (.searchMarkerFound l position) s = .next (settle s) ∧ exec (.searchTimeExpiry l) s = .next (settle s)) ∧
    (∀ position, x.suspended = false → x.aligned = false →
      let follows := 48 ≤ position ∧ position - 48 ∈ x.candidates
      let mimicked := ∃ c ∈ x.candidates, position - 48 < c ∧ c < position
      let recorded (rejected : Bool) : State := { s with sup := put s.sup l { x with
        bitIndex := max x.bitIndex (position + 8)
        candidates := x.candidates.filter (fun b => position < b + 48) ++ [position]
        mimicRecord := x.mimicRecord || rejected
        searchTime := min 20 ((max x.bitIndex (position + 8) - x.searchFrom) / 48) } }
      (¬ follows → exec (.searchMarkerFound l position) s = .next (settle (recorded false))) ∧
      (follows → mimicked → s.settings.mimicCheck = true →
        exec (.searchMarkerFound l position) s = .next (settle (recorded true))) ∧
      (follows → ¬ (mimicked ∧ s.settings.mimicCheck = true) →
        ∃ s1 t, exec (.searchMarkerFound l position) s = .next t ∧ t = settle s1 ∧
          (∀ o, x.lastOffset = some o → o ≠ position % 48 →
            let reported := queueReport (.alignmentChange l o (position % 48) (supOf t l).mimic) s
            s1.mgmt = reported.mgmt ∧ s1.store = reported.store) ∧
          ((∀ o ∈ x.lastOffset, o = position % 48) → s1.mgmt = s.mgmt ∧ s1.store = s.store) ∧
          (supOf t l).aligned = true ∧ (supOf t l).offset = position % 48 ∧
          (supOf t l).lastOffset = some (position % 48) ∧ (supOf t l).positionEnd = position + 48 ∧
          (supOf t l).candidates = [] ∧ (supOf t l).cutEnd = none ∧ (supOf t l).lastFour = [true, true, true, true] ∧
          (supOf t l).second = some ⟨0, 0, false⟩ ∧ (supOf t l).lastGood = none ∧
          ((supOf t l).mimic = true ↔ x.mimicRecord = true ∨ mimicked) ∧
          (∀ k, k ≠ l → supOf t k = supOf s k) ∧ (∀ k, (lineOf t k).sync = (lineOf s k).sync))) ∧
    (Due s (.searchTimeExpiry l) → ServiceDerived s → ∃ t, exec (.searchTimeExpiry l) s = .next t ∧
      (lineOf t l).sync = .outOfSync ∧ inService (lineOf t l).service = false ∧
      supOf t l = { x with window := ⟨0, 0⟩, timerFrom := (supOf t l).timerFrom } ∧
      (∀ k, k ≠ l → supOf t k = supOf s k)) ∧
    (Due s (.losTriggerTimerExpiry l) →
      let holds (r : Run) := r.origin = .triggered ∧ r.line = l
      let timed : State := { s with sup := put s.sup l { x with timerFrom := some s.time } }
      let suppressed := s.settings.triggerDelay = 0 ∨ (lineOf s l).equipped = false ∨ look s.seq.holdoffs l ≠ none ∨
        s.seq.latch = true ∨ (lineOf s l).hazard = true ∨ (∃ r ∈ s.seq.queue, holds r) ∨
        (∃ a, s.seq.active = some a ∧ holds a.run)
      let good := (chainFrom s.seq.steps s.settings.triggerSlot).good
      let r : Run := ⟨assignedId s.seq, l, s.settings.triggerSlot, .triggered, .new, none, true, some .lossOfSignal, 0, 0⟩
      let ends (q : Run) (o : RunOutcome) (slot : Slot) (s1 : State) : Prop :=
        look s1.meas.lastRuns q.line = some ⟨q.id, q.origin, o, s.time⟩ ∧
        s1.mgmt = (queueReport (.runEnded q o slot) s).mgmt ∧ s1.store = (queueReport (.runEnded q o slot) s).store
      let triggered := s.seq.queue.takeWhile isTriggered
      let others := s.seq.queue.dropWhile isTriggered
      (suppressed → exec (.losTriggerTimerExpiry l) s = .next (settle timed)) ∧
      (¬ suppressed → good = false → ∃ s1, exec (.losTriggerTimerExpiry l) s = .next (settle s1) ∧
        s1.seq = { s.seq with
          counter := assignedId s.seq
          holdoffs := put s.seq.holdoffs l (some (s.time + 60000 * s.settings.holdoff)) } ∧
        ends r .malformed s.settings.triggerSlot s1) ∧
      (¬ suppressed → good = true → s.seq.queue.length < 16 →
        (∀ a, s.seq.active = some a → a.phase ≠ .waitingBus ∨ a.run.origin = .triggered →
          ∃ t, exec (.losTriggerTimerExpiry l) s = .next t ∧
            t.seq = { s.seq with counter := assignedId s.seq, queue := triggered ++ r :: others } ∧
            (supOf t l).timerFrom = some s.time) ∧
        (s.seq.active = none → ∃ s1, exec (.losTriggerTimerExpiry l) s = .next (settle (activate s1)) ∧
          s1.seq = { s.seq with counter := assignedId s.seq, queue := triggered ++ r :: others } ∧
          s1.claims = s.claims ∧ s1.mgmt = s.mgmt)) ∧
      (∀ body d a, ¬ suppressed → good = true → s.seq.queue = body ++ [d] → 16 ≤ s.seq.queue.length →
        s.seq.active = some a → a.phase ≠ .waitingBus → ∃ s1, exec (.losTriggerTimerExpiry l) s = .next (settle s1) ∧
          s1.seq = { s.seq with
            counter := assignedId s.seq
            queue := body.takeWhile isTriggered ++ r :: body.dropWhile isTriggered
            holdoffs := if d.origin = .triggered then
              put s.seq.holdoffs d.line (some (s.time + 60000 * s.settings.holdoff)) else s.seq.holdoffs } ∧
          ends d .cancelled (if d.status = .suspended then d.resume.getD d.start else d.start) s1) ∧
      (∀ a, ¬ suppressed → good = true → s.seq.queue.length < 15 → s.seq.active = some a → a.phase = .waitingBus →
        a.run.origin = .operator → ∃ s1, exec (.losTriggerTimerExpiry l) s = .next (settle (activate s1)) ∧
          s1.seq = { s.seq with
            counter := assignedId s.seq, active := none, queue := triggered ++ r :: a.run :: others } ∧
          s1.claims = s.claims ∧ s1.mgmt = s.mgmt ∧
          ∀ k, (lineOf s1 k).service = (lineOf s k).service ∧ (lineOf s1 k).hazard = (lineOf s k).hazard)) ∧
    (Due s (.holdoffExpiry l) → exec (.holdoffExpiry l) s =
      .next (settle { s with seq := { s.seq with holdoffs := put s.seq.holdoffs l none } }))

/-- The end of a report position in ALIGNED (R106, R110, R111, R113 to R117, R119): a wrong marker or check is counted; a
good report sets the attainable rate, checks its sequence, de-bounces the flags and decides the sync condition; too
many wrong markers of the last four lose the stream; 1,000 positions make a second and fifteen seconds a window, which is
decided by the sync condition that the report has left, and discarded where that went to or from OUT. A window that takes
the line from IN to ERRORED raises the ERRORED cause, which is suppressed or puts a TRIGGERED run into the queue, where it
ends the tail run of a full queue CANCELLED; an OPERATOR run that waits for the bus, with no TRIGGERED run queued, returns
to the queue, and the TRIGGERED run waits in its place (R142, R144, R146). What a run so queued does where it becomes
active at once under a hold, which no run of the part reaches, is left out. A loss enters SEARCH at the end of the
marker test, and the rest of the lost position's bits is searched: each marker pattern that lies whole among its last 40 bits
is a candidate, and the search time counts from the first of them. That the bit index is raised to the end of the position,
that the search time counts so, and that no pattern is searched that begins within the marker's own 8 bits, is the model's
choice or its inference (assumption 17). -/
def Obligations.ReportPositionIsUsedAndCounted : Prop :=
  ∀ (l : Line) (w : BitVec 48) (d : Second) (s : State), s.power = .running → ServiceDerived s →
    (supOf s l).suspended = false → (supOf s l).aligned = true → (supOf s l).second = some d →
    let x := supOf s l
    let r := lineOf s l
    let markerGood := w.extractLsb' 40 8 = 0xB2#8
    let checkGood := crc8 (wordBytes w) = w.extractLsb' 0 8
    let good := markerGood ∧ checkGood
    let lastFour := x.lastFour.drop 1 ++ [decide (markerGood)]
    let loses := s.settings.autoRealign = true ∧ (if s.settings.strict = true then 2 else 3) ≤ lastFour.count false
    let tested : Supervision := { x with
      lastFour := lastFour, bitIndex := max x.bitIndex x.positionEnd, positionEnd := x.positionEnd + 48
      lastGood := x.lastGood.map (fun p => (p.1, p.2 + 1))
      markerErrors := (if markerGood then x.markerErrors else min 4294967295 (x.markerErrors + 1)) }
    let debounced (flag : Bool) (f : Debounced) : Debounced :=
      let run := if f.run ≠ 0 ∧ flag = f.runValue then f.run + 1 else 1
      ⟨if s.settings.debounce ≤ run then flag else f.value, flag, run⟩
    let show_ := debounced (w.getLsbD 35) x.showtime
    let gasp := debounced (w.getLsbD 33) x.dyingGasp
    let sync := if ¬ good then r.sync else if show_.value = false ∨ gasp.value = true then .outOfSync
      else if r.sync = .outOfSync then .inSync else r.sync
    let used (t : State) : Prop :=
      let sequence := (w.extractLsb' 36 4).toNat
      (lineOf t l).attainable = some (8 * (w.extractLsb' 8 16).toNat) ∧
      (supOf t l).lastGood = some (sequence, 0) ∧
      (supOf t l).slips = (match x.lastGood with
        | none => x.slips
        | some (q, k) => if (q + k + 1) % 16 = sequence then x.slips else min 4294967295 (x.slips + 1)) ∧
      (supOf t l).showtime = show_ ∧ (supOf t l).dyingGasp = gasp ∧
      (supOf t l).signalLoss = debounced (w.getLsbD 34) x.signalLoss ∧
      (supOf t l).remoteDefect = debounced (w.getLsbD 32) x.remoteDefect
    (loses → ∃ t, exec (.reportPositionEnd l w) s = .next t ∧
      supOf t l = { tested with
        aligned := false, mimicRecord := false, searchFrom := x.positionEnd - 40
        candidates := ((List.range 41).filter fun o => decide (8 ≤ o ∧ w.extractLsb' (40 - o) 8 = 0xB2#8)).map
          fun o => x.positionEnd - 48 + o
        searchTime := min 20 ((tested.bitIndex - (x.positionEnd - 40)) / 48), cutEnd := none
        lastGood := none, second := none, window := ⟨0, 0⟩
        showtime := { x.showtime with run := 0 }, signalLoss := { x.signalLoss with run := 0 }
        dyingGasp := { x.dyingGasp with run := 0 }, remoteDefect := { x.remoteDefect with run := 0 } } ∧
      (lineOf t l).es = min 4294967295 (r.es + 1) ∧ (lineOf t l).ses = min 4294967295 (r.ses + 1) ∧
      (lineOf t l).sync = r.sync) ∧
    (¬ loses → d.positions + 1 < 1000 →
      (¬ markerGood → exec (.reportPositionEnd l w) s = .next (settle { s with
        sup := put s.sup l { tested with second := some { d with positions := d.positions + 1 } } })) ∧
      (markerGood → ¬ checkGood → exec (.reportPositionEnd l w) s = .next (settle { s with
        sup := put s.sup l { tested with
          checkFailures := min 4294967295 (x.checkFailures + 1)
          second := some ⟨d.positions + 1, d.anomalies, true⟩ } })) ∧
      (good → ∃ t, exec (.reportPositionEnd l w) s = .next t ∧ used t ∧
        (supOf t l).second = some ⟨d.positions + 1, d.anomalies + (w.extractLsb' 24 8).toNat, d.marked⟩ ∧
        (lineOf t l).sync = sync)) ∧
    (¬ loses → 1000 ≤ d.positions + 1 →
      let anomalies := d.anomalies + if good then (w.extractLsb' 24 8).toNat else 0
      let ses := s.settings.sesThreshold ≤ anomalies ∨ d.marked = true ∨ (markerGood ∧ ¬ checkGood)
      let window : Window := if sync = r.sync then x.window else ⟨0, 0⟩
      let severe := window.ses + if ses then 1 else 0
      let ends := 15 ≤ window.seconds + 1
      let decided := if ¬ ends then sync else match sync with
        | .inSync => if s.settings.windowThreshold ≤ severe then .errored else .inSync
        | .errored => if severe = 0 then .inSync else .errored
        | .outOfSync => .outOfSync
      let raised := ends ∧ sync = .inSync ∧ decided = .errored
      let holds (q : Run) := q.origin = .triggered ∧ q.line = l
      let suppressed := s.settings.triggerDelay = 0 ∨ r.equipped = false ∨ look s.seq.holdoffs l ≠ none ∨
        s.seq.latch = true ∨ r.hazard = true ∨ (∃ q ∈ s.seq.queue, holds q) ∨
        (∃ a, s.seq.active = some a ∧ holds a.run)
      let engaged := s.seq.closing ≠ none ∨ ∃ a, s.seq.active = some a ∧ a.phase ≠ .waitingBus
      (¬ raised ∨ suppressed ∨ s.claims.own ≠ .holding ∨ engaged →
        ∃ t, exec (.reportPositionEnd l w) s = .next t ∧ (good → used t) ∧
          (supOf t l).second = some ⟨0, 0, false⟩ ∧
          (supOf t l).window = (if ends then ⟨0, 0⟩ else ⟨window.seconds + 1, severe⟩) ∧
          (supOf t l).markerErrors = tested.markerErrors ∧
          (supOf t l).checkFailures = (if markerGood ∧ ¬ checkGood then min 4294967295 (x.checkFailures + 1)
            else x.checkFailures) ∧
          (lineOf t l).ses = (if ses then min 4294967295 (r.ses + 1) else r.ses) ∧
          (lineOf t l).es = (if ses ∨ 1 ≤ anomalies then min 4294967295 (r.es + 1) else r.es) ∧
          (lineOf t l).sync = decided ∧
          (¬ raised ∨ suppressed → t.seq = s.seq) ∧
          (raised → ¬ suppressed → (chainFrom s.seq.steps s.settings.triggerSlot).good = true →
            let placed : Run :=
              ⟨assignedId s.seq, l, s.settings.triggerSlot, .triggered, .new, none, true, some .errored, 0, 0⟩
            (engaged → s.seq.queue.length < 16 → (∀ a, s.seq.active = some a → a.phase ≠ .waitingBus) →
              t.seq = { s.seq with
                counter := assignedId s.seq
                queue := s.seq.queue.takeWhile isTriggered ++ placed :: s.seq.queue.dropWhile isTriggered }) ∧
            (∀ body q, engaged → s.seq.queue = body ++ [q] → 16 ≤ s.seq.queue.length →
              (∀ a, s.seq.active = some a → a.phase ≠ .waitingBus) →
              t.seq = { s.seq with
                counter := assignedId s.seq
                queue := body.takeWhile isTriggered ++ placed :: body.dropWhile isTriggered
                holdoffs := if q.origin = .triggered then
                  put s.seq.holdoffs q.line (some (s.time + 60000 * s.settings.holdoff)) else s.seq.holdoffs } ∧
              look t.meas.lastRuns q.line = some ⟨q.id, q.origin, .cancelled, s.time⟩) ∧
            (∀ a, s.claims.own ≠ .holding → s.seq.closing = none → s.seq.active = some a → a.phase = .waitingBus →
              a.run.origin = .operator → s.seq.queue.length < 15 → (∀ q ∈ s.seq.queue.head?, q.origin = .operator) →
              t.seq = { s.seq with
                counter := assignedId s.seq, queue := a.run :: s.seq.queue
                active := some ⟨placed, s.settings.triggerSlot, .waitingBus, none, false, false, .passed⟩ } ∧
              (s.claims.own = .queued ∨ s.claims.own = .turn ∨ s.claims.own = .taking →
                t.claims.inForce = some ⟨.triggered,
                  holdEstimate s.seq.steps (chainFrom s.seq.steps s.settings.triggerSlot)⟩)))))

/-! ### The test bus -/

/-- Timers of the claim unit (R127, R128, R130, R133 to R135): an expiry ends the hold, and this station in HOLDING
leaves it with its relay released; a lapse removes the head of the claim queue; the end of the release time releases
OCC_DRV and asks for a RELEASE in RELEASING, and else lets a waiting Connect close its relay. That nothing happens of a
timer that does not run or has not ended is the model's choice (assumption 4). -/
def Obligations.HoldLapseAndReleaseTimersAct : Prop :=
  ∀ s : State, s.power = .running →
    let cl := s.claims
    (¬ Due s .holdExpiry → exec .holdExpiry s = .next (settle s)) ∧
    (Due s .holdExpiry → ∃ t, exec .holdExpiry s = .next t ∧ t.claims.holder = none ∧ t.claims.expiry = none ∧
      t.claims.queue = cl.queue ∧ t.claims.turnFrom = (if cl.queue = [] then none else some s.time) ∧
      (cl.own = .queued → t.claims.own =
        (if cl.queue.head?.map (·.station) = some s.station then .turn else .queued)) ∧
      (cl.own = .holding → t.claims.own = .releasing ∧ t.claims.relay = none ∧
        t.claims.stimulus = (if cl.relay = none then cl.stimulus else .none) ∧ t.claims.ownLimit = none ∧ t.claims.releaseAt = some (s.time + 10) ∧ t.claims.occDriven = cl.occDriven)) ∧
    (¬ Due s .turnLapse → exec .turnLapse s = .next (settle s)) ∧
    (∀ c rest, Due s .turnLapse → cl.queue = c :: rest → cl.holder = none → (∀ d ∈ rest, d.station ≠ c.station) →
      ∃ t, exec .turnLapse s = .next t ∧ t.claims.queue = rest ∧ t.claims.holder = none ∧
        t.claims.turnFrom = (if rest = [] then none else some s.time) ∧
        (cl.own = .queued → t.claims.own =
          (if rest.head?.map (·.station) = some s.station then .turn else .queued))) ∧
    (¬ Due s .relayReleaseTimeEnd → exec .relayReleaseTimeEnd s = .next (settle s)) ∧
    (Due s .relayReleaseTimeEnd → cl.own = .releasing → s.notices.queue = [] → ∃ t, exec .relayReleaseTimeEnd s = .next t ∧
      t.claims = { cl with releaseAt := none, connectWaits := none, occDriven := false } ∧
      t.notices.queue = [⟨.release, 0⟩]) ∧
    (Due s .relayReleaseTimeEnd → cl.own ≠ .releasing → cl.connectWaits = none → exec .relayReleaseTimeEnd s =
      .next (settle { s with claims := { cl with releaseAt := none, connectWaits := none } })) ∧
    (∀ l a, Due s .relayReleaseTimeEnd → cl.own = .holding → cl.connectWaits = some l → cl.relay = none →
      cl.limitReached = false → (∀ t ∈ cl.ownLimit, s.time < t) → s.seq.active = some a →
      ∃ t, exec .relayReleaseTimeEnd s = .next t ∧ (lineOf t l).test = .connected ∧
        t.claims = { cl with releaseAt := none, connectWaits := none, relay := some l } ∧
        t.seq.active = some { a with until_ := some (s.time + 10) } ∧
        ((lineOf s l).equipped = true → (lineOf s l).test ≠ .connected → (lineOf s l).service ≠ .testing →
          (lineOf t l).service = .testing ∧ (supOf t l).suspended = true))

/-- The confirm window, the own hold limit and a lost occupancy (R131, R133 to R135, R146, R148, R150). An inactive
OCC_SNS lets the station hold the head and connect the run that waits; an active one is reported OCCUPIED, and the station
claims again. At the limit an OPERATOR run is suspended, to repeat its step, and a TRIGGERED one times out, each after a
discharge where a STEP stimulus has been applied, and at once where not; a lost hold is reported OCCUPIED, suspends an
OPERATOR run and faults a TRIGGERED one. A run that is suspended with none ahead of it claims again. OCC_SNS reads active
once OCC_DRV is driven, until its loss is told (assumption 16), TAKING left for QUEUED clears the own hold limit
(assumption 10), a pending cancel is dropped at a suspension (assumption 14), and what has not come does nothing
(assumption 4): these are the model's choices. -/
def Obligations.ConfirmWindowHoldLimitAndOccupancyAct : Prop :=
  ∀ s : State, s.power = .running →
    let cl := s.claims
    let suspended (a : Active) : Run := { a.run with status := .suspended, resume := some a.slot }
    let waits (a : Active) (t : State) : Prop :=
      t.seq = { s.seq with active := some ⟨suspended a, a.slot, .waitingBus, none, false, false, .passed⟩ } ∧
      t.claims.recorded = some ⟨.scheduled, holdEstimate s.seq.steps (chainFrom s.seq.steps a.slot)⟩
    let resumes (a : Active) : Prop := s.seq.queue = [] ∧ s.seq.closing = none ∧
      (chainFrom s.seq.steps a.slot).good = true ∧ (lineOf s a.run.line).hazard = false
    (∀ b, ¬ Due s (.confirmWindowEnd b) → exec (.confirmWindowEnd b) s = .next (settle s)) ∧
    (¬ Due s .ownHoldLimit → exec .ownHoldLimit s = .next (settle s)) ∧
    (¬ (cl.own = .holding ∧ cl.occDriven = true) → exec .occupancyLoss s = .next (settle s)) ∧
    (Due s (.confirmWindowEnd false) →
      (∀ a, s.seq.active = some a → a.phase = .waitingBus → (lineOf s a.run.line).hazard = false →
        cl.limitReached = false → (∀ t ∈ cl.ownLimit, s.time < t) → cl.releaseAt = none → cl.relay = none →
        ∃ t, exec (.confirmWindowEnd false) s = .next t ∧ (lineOf t a.run.line).test = .connected ∧
          t.claims = { cl with
            own := .holding, occDriven := true, confirmAt := none, occSensed := true, relay := some a.run.line
            connectWaits := none } ∧
          t.seq.active = some { a with phase := .connecting, until_ := some (s.time + 10) }) ∧
      (∀ c, cl.inForce = some c → cl.holder ≠ none → s.notices.queue = [] → s.notices.attempt = none →
        s.notices.gapPassed = false → ∃ s1, exec (.confirmWindowEnd true) s = .next (settle s1) ∧
          s1.claims = { cl with own := .queued, waiting := false, confirmAt := none, ownLimit := none, occSensed := true } ∧
          s1.notices.queue = [⟨.release, 0⟩, ⟨.claim c.priority c.hold, 0⟩] ∧
          s1.mgmt = (queueReport (.occupied .busyAtConfirm (some c)) s).mgmt ∧
          s1.store = (queueReport (.occupied .busyAtConfirm (some c)) s).store)) ∧
    (∀ a, Due s .ownHoldLimit → s.seq.active = some a →
      a.phase ≠ .waitingBus → a.phase ≠ .ending →
      (a.charged = true → ∃ t, exec .ownHoldLimit s = .next t ∧
        t.claims = { cl with
          limitReached := true, stimulus := (if cl.relay = none then .none else .discharge) } ∧
        (a.run.origin = .triggered → t.seq = { s.seq with active := some { a with
          phase := .ending, outcome := .timeout, until_ := some (s.time + 50) } }) ∧
        (a.run.origin = .operator → s.seq.queue.length < 16 → t.seq = { s.seq with
          active := none, closing := some ⟨a.run.id, a.run.line, s.time + 50⟩
          queue := s.seq.queue.takeWhile isTriggered ++ suspended a :: s.seq.queue.dropWhile isTriggered })) ∧
      (a.charged = false → ∃ s1, exec .ownHoldLimit s = .next (settle s1) ∧ s1.claims.own = .releasing ∧
        s1.claims.relay = none ∧ s1.claims.stimulus = (if cl.relay = none then cl.stimulus else .none) ∧
        s1.claims.occDriven = cl.occDriven ∧ s1.claims.ownLimit = none ∧ s1.meas.results = s.meas.results ∧
        (a.run.origin = .triggered → s.seq.queue = [] →
          s1.seq = { s.seq with
            active := none, holdoffs := put s.seq.holdoffs a.run.line (some (s.time + 60000 * s.settings.holdoff)) } ∧
          look s1.meas.lastRuns a.run.line = some ⟨a.run.id, .triggered, .timeout, s.time⟩ ∧
          (ServiceDerived s → s.mgmt.reports ≠ [] → s.mgmt.reports.length ≤ 14 →
            ⟨s.time, .runEnded a.run .timeout a.slot⟩ ∈ s1.mgmt.reports)) ∧
        (a.run.origin = .operator → s.seq.queue.length < 16 → ∃ s2, s1 = activate s2 ∧ s2.seq = { s.seq with
          active := none
          queue := s.seq.queue.takeWhile isTriggered ++ suspended a :: s.seq.queue.dropWhile isTriggered }) ∧
        (a.run.origin = .operator → resumes a → waits a s1 ∧ s1.meas = s.meas))) ∧
    (cl.own = .holding → cl.occDriven = true → ∃ s1, exec .occupancyLoss s = .next (settle s1) ∧
      s1.claims.own = .releasing ∧ s1.claims.relay = none ∧ s1.claims.occDriven = true ∧ s1.claims.occSensed = false ∧
      s1.claims.ownLimit = none ∧ s1.claims.releaseAt = some (s.time + 10) ∧
      (ServiceDerived s →
        (queueReport (.occupied .lostWhileHolding none) s).mgmt.reports <+: s1.mgmt.reports ∧
        (queueReport (.occupied .lostWhileHolding none) s).store.um <+: s1.store.um) ∧
      (∀ l, cl.relay = some l → (lineOf s l).test = .connected → (lineOf s1 l).test ≠ .connected ∧
        (lineOf s1 l).sync = .outOfSync ∧ (supOf s1 l).suspended = false) ∧
      (∀ a, s.seq.active = some a → a.phase ≠ .waitingBus → a.phase ≠ .ending →
        (a.run.origin = .triggered → s.seq.queue = [] → s.seq.closing = none →
          s1.seq.active = none ∧ s1.seq.latch = true ∧
          look s1.seq.holdoffs a.run.line = some (s.time + 60000 * s.settings.holdoff) ∧
          look s1.meas.lastRuns a.run.line = some ⟨a.run.id, .triggered, .busLost, s.time⟩) ∧
        (a.run.origin = .operator → resumes a → waits a s1 ∧ s1.meas = s.meas)))

/-! ### Runs and measurement -/

/-- Chains, hold estimates and run ids (R139 to R141). The walk goes on from a step that is no stop step to its next slot:
every path of at most 128 steps so linked begins the chain. A path that reaches a stop step is the whole chain, and it is
good; one that reaches an empty slot, or has visited 128 steps without a stop step, is the whole chain and not good. A good
chain visits each slot once. That the empty slot counts among the slots visited is the model's choice (assumption 8). The
hold estimate is formed in quarter-milliseconds; the id that is assigned lies in 1 to 255 and no run holds it. -/
def Obligations.ChainsEstimatesAndIdsAreFormed : Prop :=
  (∀ (steps : Table (Option Step) 128) (k : Slot),
    let c := chainFrom steps k
    c.slots.head? = some k ∧ c.slots.length ≤ 128 ∧
    (look steps k = none → c.good = false ∧ c.slots = [k]) ∧
    (∀ i j k, c.slots[i]? = some j → c.slots[i + 1]? = some k →
      ∃ p, look steps j = some p ∧ p.stop = false ∧ p.next = some k) ∧
    (c.good = true → c.slots.Nodup ∧ ∃ last p, c.slots.getLast? = some last ∧ look steps last = some p ∧ p.stop = true) ∧
    (∀ last p, c.slots.getLast? = some last → look steps last = some p → p.stop = true → c.good = true) ∧
    (∀ (path : List Slot) (last : Slot), path.head? = some k → path.getLast? = some last → path.length ≤ 128 →
      (∀ i a b, path[i]? = some a → path[i + 1]? = some b →
        ∃ p, look steps a = some p ∧ p.stop = false ∧ p.next = some b) →
      path <+: c.slots ∧
      (look steps last = none → c = ⟨path, false⟩) ∧
      (∀ p, look steps last = some p →
        (p.stop = true → c = ⟨path, true⟩) ∧
        (p.stop = false → path.length = 128 ∨ p.next = none → c = ⟨path, false⟩) ∧
        (∀ j, p.stop = false → path.length < 128 → p.next = some j → path ++ [j] <+: c.slots))) ∧
    holdEstimate steps c = min 600 ((5 * (c.slots.map fun j => match look steps j with
      | some p => 4 * p.settle + p.samples + 80 +
          if p.quantity = .capacitance ∨ p.quantity = .length then 200 else 0
      | none => 0).sum + 16000 + 1599) / 1600)) ∧
  (∀ q : Sequencer, (idsInUse q).length ≤ 29 →
    1 ≤ assignedId q ∧ assignedId q ≤ 255 ∧ assignedId q ∉ idsInUse q ∧
    ((if 255 ≤ q.counter then 1 else q.counter + 1) ∉ idsInUse q →
      assignedId q = if 255 ≤ q.counter then 1 else q.counter + 1))

/-- The timed ends of the phases (R147, R148, R150). CONNECTING goes on to SETTLING of the current step, SETTLING to
SAMPLING, DISCHARGING to SETTLING again or to NEXT; a pending cancel ends the run instead. NEXT counts the step and its
verdict and ends, suspends or continues the run. ENDING discharges a STEP stimulus first; without one, and at the end of
that discharge, the relay opens, the head is kept or given up, the record ends and the next head becomes active. That a
settle time of 0 goes to SAMPLING in the same step (assumption 13), and that a pending cancel ends the run at the end of
DISCHARGING (assumption 15), is deduced. -/
def Obligations.PhasesEndAsTheirTableSays : Prop :=
  (∀ (a : Active) (p : Step) (s : State), s.power = .running → s.seq.active = some a → look s.seq.steps a.slot = some p →
    let settling (first : Bool) : State := { s with
      seq := { s.seq with active := some { a with
        phase := (if p.settle = 0 then .sampling else .settling)
        until_ := (if p.settle = 0 then none else some (s.time + p.settle))
        charged := a.charged || decide (p.quantity = .capacitance ∨ p.quantity = .length) } }
      claims := { s.claims with stimulus := if s.claims.relay = none then .none else match p.quantity with
        | .foreignDc | .foreignAc => .none
        | .resistance => .dcTest
        | .capacitance | .length => .step }
      meas := { s.meas with
        wires := some p.wires, quantity := some p.quantity, samples := p.samples, verdict := none
        made := (if first then 0 else s.meas.made), previous := (if first then none else s.meas.previous)
        acc := (if p.settle = 0 then ⟨0, 0, 0, 0, none, none⟩ else s.meas.acc) } }
    (a.cancel = false →
      (Due s .operateTimeEnd → exec .operateTimeEnd s = .next (settle (settling true))) ∧
      (Due s .settleTimeEnd → exec .settleTimeEnd s = .next (settle { s with
        seq := { s.seq with active := some { a with phase := .sampling, until_ := none } }
        meas := { s.meas with acc := ⟨0, 0, 0, 0, none, none⟩ } })) ∧
      (Due s .dischargeTimeEnd → s.meas.verdict = none →
        exec .dischargeTimeEnd s = .next (settle (settling false))) ∧
      (Due s .dischargeTimeEnd → s.meas.verdict ≠ none →
        exec .dischargeTimeEnd s = .next (settle (nextPhase a s)))) ∧
    (a.cancel = true → a.charged = true →
      let ending : State := { s with
        seq := { s.seq with active := some { a with
          phase := .ending, outcome := .cancelled, until_ := some (s.time + 50) } }
        claims := { s.claims with stimulus := if s.claims.relay = none then .none else .discharge } }
      (Due s .operateTimeEnd → exec .operateTimeEnd s = .next (settle ending)) ∧
      (Due s .settleTimeEnd → exec .settleTimeEnd s = .next (settle ending)) ∧
      (Due s .dischargeTimeEnd → exec .dischargeTimeEnd s = .next (settle ending))) ∧
    (a.cancel = true → a.charged = false → s.seq.queue = [] → s.seq.closing = none →
      let ends (c : Instr) : Prop := ∃ s1, exec c s = .next (settle s1) ∧
        s1.seq = { s.seq with
          active := none
          holdoffs := if a.run.origin = .triggered then
            put s.seq.holdoffs a.run.line (some (s.time + 60000 * s.settings.holdoff)) else s.seq.holdoffs } ∧
        look s1.meas.lastRuns a.run.line = some ⟨a.run.id, a.run.origin, .cancelled, s.time⟩ ∧
        s1.claims.relay = none ∧ (s.claims.own = .holding → s1.claims.own = .releasing) ∧
        (ServiceDerived s → s.mgmt.reports ≠ [] → s.mgmt.reports.length ≤ 14 →
          ⟨s.time, .runEnded a.run .cancelled a.slot⟩ ∈ s1.mgmt.reports)
      (Due s .operateTimeEnd → ends .operateTimeEnd) ∧ (Due s .settleTimeEnd → ends .settleTimeEnd) ∧
      (Due s .dischargeTimeEnd → ends .dischargeTimeEnd))) ∧
  (∀ (a : Active) (p : Step) (s : State), s.seq.active = some a → look s.seq.steps a.slot = some p →
    let failed := s.meas.verdict = some .fail
    let run : Run := { a.run with
      steps := min 65535 (a.run.steps + 1), fails := if failed then min 65535 (a.run.fails + 1) else a.run.fails }
    let counted (slot : Slot) : Active := { a with run := run, slot := slot }
    let with_ (b : Active) : State := { s with seq := { s.seq with active := some b } }
    let ended (o : RunOutcome) : State := beginEnding o (counted a.slot) (with_ (counted a.slot))
    (a.cancel = true → nextPhase a s = ended .cancelled) ∧
    (a.cancel = false → failed → p.abortOnFail = true → nextPhase a s = ended .aborted) ∧
    (a.cancel = false → ¬ (failed ∧ p.abortOnFail = true) → p.stop = true →
      nextPhase a s = beginEnding (if run.fails = 0 then .passed else .failed) (counted a.slot)
        { with_ (counted a.slot) with lines := alter s.lines a.run.line fun r => { r with continueSlot := p.next } }) ∧
    (∀ j, a.cancel = false → ¬ (failed ∧ p.abortOnFail = true) → p.stop = false → p.next = some j →
      let preempted := a.run.origin = .operator ∧ ∃ r ∈ s.seq.queue.head?, r.origin = .triggered
      (¬ preempted → nextPhase a s = startSettling true (counted j) (with_ (counted j))) ∧
      (preempted → s.seq.queue.length < 16 → ∃ s1, nextPhase a s = activate s1 ∧ s1.claims = s.claims ∧
        s1.seq = { s.seq with
          active := none
          queue := s.seq.queue.takeWhile isTriggered ++ { run with status := .suspended, resume := some j } ::
            s.seq.queue.dropWhile isTriggered }))) ∧
  (∀ (o : RunOutcome) (a b : Active) (s : State), s.seq.active = some b →
    (a.charged = true → beginEnding o a s = { s with
      seq := { s.seq with active := some { a with phase := .ending, outcome := o, until_ := some (s.time + 50) } }
      claims := { s.claims with stimulus := if s.claims.relay = none then .none else .discharge } }) ∧
    (a.charged = false → ∃ s1, beginEnding o a s = activate s1 ∧
      s1.seq = { s.seq with
        active := none
        holdoffs := if a.run.origin = .triggered then
          put s.seq.holdoffs a.run.line (some (s.time + 60000 * s.settings.holdoff)) else s.seq.holdoffs } ∧
      look s1.meas.lastRuns a.run.line = some ⟨a.run.id, a.run.origin, o, s.time⟩ ∧ s1.claims.relay = none ∧
      (s.claims.own = .holding →
        let kept := (o = .passed ∨ o = .failed ∨ o = .aborted ∨ o = .cancelled ∨ o = .recovered) ∧
          (∃ t ∈ s.claims.ownLimit, s.time + 1000 ≤ t) ∧
          (∃ r ∈ s.seq.queue.head?, r.origin = .triggered ∨ r.status = .suspended)
        s1.claims.own = (if kept then .holding else .releasing)) ∧
      (ServiceDerived s → s.mgmt.reports ≠ [] → s.mgmt.reports.length ≤ 14 →
        ⟨s.time, .runEnded a.run o a.slot⟩ ∈ s1.mgmt.reports))) ∧
  (∀ (a : Active) (s : State), s.power = .running → s.seq.active = some a → s.seq.closing = none →
    Due s .endingDischargeEnd → s.seq.queue = [] → ∃ t, exec .endingDischargeEnd s = .next t ∧
      t.seq = { s.seq with
        active := none
        holdoffs := if a.run.origin = .triggered then
          put s.seq.holdoffs a.run.line (some (s.time + 60000 * s.settings.holdoff)) else s.seq.holdoffs } ∧
      look t.meas.lastRuns a.run.line = some ⟨a.run.id, a.run.origin, a.outcome, s.time⟩ ∧
      (s.claims.own = .holding → t.claims.own = .releasing ∧ t.claims.relay = none ∧
        t.claims.releaseAt = some (s.time + 10))) ∧
  (∀ (d : Closing) (s : State), s.power = .running → s.seq.closing = some d → d.until_ ≤ s.time →
    s.claims.own = .holding → ∃ t, exec .endingDischargeEnd s = .next t ∧ t.seq.closing = none ∧
      t.claims.own = .releasing ∧ t.claims.relay = none) ∧
  (∀ (o : RunOutcome) (s : State), s.claims.own = .holding →
    let kept := (o = .passed ∨ o = .failed ∨ o = .aborted ∨ o = .cancelled ∨ o = .recovered) ∧
      (∃ t ∈ s.claims.ownLimit, s.time + 1000 ≤ t) ∧
      (∃ r ∈ s.seq.queue.head?, r.origin = .triggered ∨ r.status = .suspended)
    (kept → decideHold o s = s) ∧ (¬ kept → decideHold o s = leaveHolding s))

/-- Samples (R147, R154 to R158, R160 to R162). A voltage above 200 V with a relay closed stops the run: relay open, hazard
flag set, record faulted. Any other pair is accumulated in SAMPLING; the last one of a measurement stores its clamped
result with its verdict, FAIL with flag HAZARD above a hazard limit, and a RESULT report where the step or the run asks
for it, unless a step with confirm calls for another. DISCHARGING follows a STEP step's measurement, or its ENDING where a
cancel is pending; NEXT follows the final result of any other step, and SAMPLING one that calls for another; a hazard stops
the run with no NEXT. A faulty sample frame is counted. The results of the five quantities are the formulas of R157 to R159.
That a record put into a fault slot loses its resume slot, and that the stop acts on the active run and its line also while
the relay that is closed is another line's, is the model's choice (assumption 14). -/
def Obligations.SamplesAccumulateStoreAndStop : Prop :=
  (∀ s : State, s.power = .running →
    exec .sampleFrameFault s = .next (settle { s with meas := { s.meas with faults := min 65535 (s.meas.faults + 1) } }) ∧
    (∀ (v i : BitVec 16) (a : Active) (l : Line), s.seq.active = some a → s.seq.closing = none → s.seq.queue = [] →
      s.claims.relay = some l → 20000 < v.toInt.natAbs → ∃ t, exec (.sampleTaken v i) s = .next t ∧
        t.claims.relay = none ∧ t.claims.stimulus = .none ∧ (lineOf t a.run.line).hazard = true ∧ t.seq.active = none ∧
        t.seq.faults = put s.seq.faults a.run.line (some { a.run with status := .faultedHazard, resume := none }) ∧
        (t.seq.latch = true ↔ s.seq.latch = true ∨ a.run.origin = .triggered) ∧
        look t.meas.lastRuns a.run.line = some ⟨a.run.id, a.run.origin, .hazard, s.time⟩ ∧
        t.meas.results = s.meas.results ∧ (s.claims.own = .holding → t.claims.own = .releasing)) ∧
    (∀ (v i : BitVec 16), s.claims.relay = none ∨ v.toInt.natAbs ≤ 20000 →
      let m := s.meas.acc
      let acc : Accumulators := ⟨m.n + 1, m.sumV + v.toInt, m.sumI + i.toInt, m.sumVV + v.toInt.natAbs ^ 2,
        if m.n = 0 then some v.toInt else m.firstV, some v.toInt⟩
      ((∀ a, s.seq.active = some a → a.phase ≠ .sampling) → exec (.sampleTaken v i) s = .next (settle s)) ∧
      (∀ a, s.seq.active = some a → a.phase = .sampling → m.n + 1 < s.meas.samples →
        exec (.sampleTaken v i) s = .next (settle { s with meas := { s.meas with acc := acc } })) ∧
      (∀ a p q w, s.seq.active = some a → a.phase = .sampling → s.meas.samples ≤ m.n + 1 →
        look s.seq.steps a.slot = some p → s.meas.quantity = some q → s.meas.wires = some w →
        let f := formResult s.settings q s.meas.samples acc
        let hazard := (q = .foreignDc ∧ s.settings.dcHazard < f.value.natAbs) ∨
          (q = .foreignAc ∧ s.settings.acHazard < f.value.natAbs)
        let passes := (∀ x ∈ p.low, x ≤ f.value) ∧ (∀ x ∈ p.high, f.value ≤ x)
        let decided := confirmDecision p.confirm a.cancel (s.meas.made + 1) s.meas.previous f.value
        (hazard ∨ decided ≠ .another → ∃ t, exec (.sampleTaken v i) s = .next t ∧
          look (look t.meas.results a.run.line) (quantityIndex q) = some
            ⟨f.value, { f.flags with
                hazard := f.flags.hazard || decide hazard
                unstable := f.flags.unstable || decide (¬ hazard ∧ decided = .final true) },
              if hazard ∨ ¬ passes then .fail else .pass, w, a.slot, s.meas.made + 1, s.time, a.run.id⟩ ∧
          (hazard → s.seq.closing = none → (lineOf t a.run.line).hazard = true)) ∧
        (¬ hazard → decided = .another → ∃ t, exec (.sampleTaken v i) s = .next t ∧ t.meas.results = s.meas.results ∧
          t.meas.made = s.meas.made + 1 ∧ t.meas.previous = some f.value) ∧
        let entry : Result := ⟨f.value, { f.flags with
            hazard := f.flags.hazard || decide hazard
            unstable := f.flags.unstable || decide (¬ hazard ∧ decided = .final true) },
          if hazard ∨ ¬ passes then .fail else .pass, w, a.slot, s.meas.made + 1, s.time, a.run.id⟩
        let kept : Measurement := { s.meas with
          acc := acc, results := alter s.meas.results a.run.line fun row => put row (quantityIndex q) (some entry) }
        let reported (m : Measurement) : State := if p.report = true ∨ a.run.report = true
          then queueReport (.result a.run.line q entry) { s with meas := m } else { s with meas := m }
        let final := reported { kept with made := s.meas.made + 1, verdict := some entry.verdict }
        let more : Measurement := { s.meas with acc := acc, made := s.meas.made + 1, previous := some f.value }
        let stepped := p.quantity = .capacitance ∨ p.quantity = .length
        let discharging (x : State) : State := { x with
          seq := { s.seq with active := some { a with
            phase := .discharging, until_ := some (s.time + 50), charged := false } }
          claims := { s.claims with stimulus := if s.claims.relay = none then .none else .discharge } }
        (¬ hazard → decided ≠ .another →
          (stepped → a.cancel = false → exec (.sampleTaken v i) s = .next (settle (discharging final))) ∧
          (stepped → a.cancel = true → exec (.sampleTaken v i) s = .next (settle (beginEnding .cancelled a final))) ∧
          (¬ stepped → exec (.sampleTaken v i) s = .next (settle (nextPhase a final)))) ∧
        (¬ hazard → decided = .another →
          (stepped → exec (.sampleTaken v i) s = .next (settle (discharging { s with meas := more }))) ∧
          (¬ stepped → exec (.sampleTaken v i) s = .next (settle { s with
            seq := { s.seq with active := some { a with phase := .sampling, until_ := none } }
            meas := { more with acc := ⟨0, 0, 0, 0, none, none⟩ } }))) ∧
        (hazard → s.seq.closing = none → s.seq.queue = [] → ∃ s1, exec (.sampleTaken v i) s = .next (settle s1) ∧
          s1.seq = { s.seq with
            active := none
            faults := put s.seq.faults a.run.line (some { a.run with status := .faultedHazard, resume := none })
            latch := s.seq.latch || decide (a.run.origin = .triggered)
            holdoffs := if a.run.origin = .triggered then
              put s.seq.holdoffs a.run.line (some (s.time + 60000 * s.settings.holdoff)) else s.seq.holdoffs } ∧
          look s1.meas.lastRuns a.run.line = some ⟨a.run.id, a.run.origin, .hazard, s.time⟩ ∧
          s1.claims.relay = none ∧ (s.claims.own = .holding → s1.claims.own = .releasing))))) ∧
  (∀ n : Nat, n < 2 ^ 64 → isqrt n = Nat.sqrt n) ∧
  (∀ (set : Settings) (n : Nat) (a : Accumulators),
    let clean : ResultFlags := ⟨false, false, false, false, false⟩
    let unopened : Formed := ⟨2000000000, { clean with open_ := true }⟩
    let spread := (n : Int) * a.sumVV - a.sumV ^ 2
    let ohms := a.sumV.natAbs * 1000000 / a.sumI.natAbs
    formResult set .foreignDc n a = ⟨min 327670 (max (-327670) ((a.sumV * 10).tdiv n)), clean⟩ ∧
    (0 ≤ spread → 100 * spread < 2 ^ 64 →
      formResult set .foreignAc n a = ⟨min 327670 (Nat.sqrt (100 * spread.toNat) / n : Nat), clean⟩) ∧
    formResult set .resistance n a =
      (if a.sumI = 0 ∨ (a.sumV < 0 ∧ 0 < a.sumI) ∨ (0 < a.sumV ∧ a.sumI < 0) ∨ 2000000000 < ohms then unopened
        else ⟨ohms, clean⟩) ∧
    (∀ first last, a.firstV = some first → a.lastV = some last →
      let step := (last - first).natAbs
      let pf := 250 * a.sumI.natAbs / step
      let c : Formed := if step = 0 then ⟨0, { clean with noStep := true }⟩
        else if 10000000 < pf then ⟨10000000, { clean with overRange := true }⟩ else ⟨pf, clean⟩
      let metres := c.value.toNat / set.capPerMetre
      formResult set .capacitance n a = c ∧
      formResult set .length n a =
        (if 65535 < metres then ⟨65535, { c.flags with overRange := true }⟩ else ⟨metres, c.flags⟩))) ∧
  (∀ a b : Int, agree a b = true ↔ 20 * (a - b).natAbs ≤ max a.natAbs b.natAbs) ∧
  (∀ (cancel : Bool) (made : Nat) (previous : Option Int) (v : Int),
    let agrees := ∃ x ∈ previous, agree v x = true
    confirmDecision false cancel made previous v = .final false ∧
    (agrees → confirmDecision true cancel made previous v = .final false) ∧
    (¬ agrees → cancel = true ∨ 4 ≤ made → confirmDecision true cancel made previous v = .final true) ∧
    (¬ agrees → cancel = false → made < 4 → confirmDecision true cancel made previous v = .another))

/-! ### Requests -/

/-- The contents of every request read back as the request that they carry (R163, R175, R176). The contents bytes of an
MGMT frame are counted and the first 64 kept, and at its end the request that they spell is taken; one whose length field
is above 64 or is not the number of bytes received, whose first byte is no kind of R165, or whose length is not the fixed one
of its kind is UNKNOWN, and no other (R101, R163). That a request command, while the header of an
MGMT frame is on record, stands for the end of that frame with the request's bytes (assumption 17), and that a first byte
which comes after the first byte of such a frame does nothing (assumption 4), is the model's choice. -/
def Obligations.EveryEncodedRequestReadsBack : Prop :=
  let fixed (b : List Byte) : Option Nat := match b with
    | [] => none
    | code :: _ => match code.toNat with
      | 1 | 4 | 5 | 6 | 8 | 11 | 12 | 13 => some 3
      | 2 | 3 | 14 => some 2
      | 7 => some 7
      | 9 => some 20
      | 10 => some 5
      | _ => none
  (∀ (c : Instr) (b : List Byte), wellFormed c = true → encodeRequest c = some b →
    b.length ≤ 64 ∧ fixed b = some b.length ∧ decodeRequest b.length b.length b = c) ∧
  (∀ (length received : Nat) (b : List Byte),
    (fixed b ≠ some b.length ∨ length ≠ b.length ∨ received ≠ b.length →
      decodeRequest length received b = .unknown (b.take 64)) ∧
    (fixed b = some b.length → ∀ c, decodeRequest b.length b.length b ≠ .unknown c)) ∧
  (∀ (s : State) (length : Nat) (kept : List Byte) (received : Nat), s.power = .running →
    s.store.uplinkRx = .request length kept received →
    let becomes (r : UplinkRx) : State := { s with store := { s.store with uplinkRx := r } }
    (∀ x, exec (.firstCellAdmission .uplink x) s = .next (settle (if received = 0
      then becomes (.request length ((kept ++ [x]).take 64) 1) else s))) ∧
    (∀ x : Vector Byte 256, exec (.furtherCellNeeded .uplink x) s =
      .next (settle (becomes (.request length ((kept ++ x.toList).take 64) (received + 256))))) ∧
    (∀ rest : List Byte, rest.length ≤ 255 →
      (∀ c, wellFormed c = true → encodeRequest c = some (kept ++ rest) → received = kept.length →
        length = received + rest.length → exec (.frameReceptionEnd .uplink rest) s = exec c (becomes .idle)) ∧
      (64 < length ∨ received + rest.length ≠ length ∨ fixed (kept ++ rest) ≠ some (kept ++ rest).length →
        exec (.frameReceptionEnd .uplink rest) s = exec (.unknown ((kept ++ rest).take 64)) (becomes .idle))) ∧
    (∀ c b, encodeRequest c = some b ∨ c = .unknown b → exec c s =
      if received = 0 ∧ length = b.length then exec c (becomes .idle)
      else exec (.unknown ((kept ++ b).take 64)) (becomes .idle)))

/-- The READ requests (R2, R41, R162, R163, R165) answer DONE with their data, or REFUSED-RANGE for a line above 11,
and change nothing else. The data item by item: READ LINE the record and profile, the scheduler's items, the map entries,
the port, the supervision and the holdoff of the line; READ STATION the items of the rules that R165 names and its own;
READ PEERS nine entries, READ RESULTS five and the last run outcome. What R175 leaves open is the model's choice
(assumption 8): items of rules that R165 does not name, entries of full width and no count in front of a fixed number of
entries, all ones for an empty one and for an unknown attainable rate, the times of timers in ms, the slots in use as a
counted list, a result's flags as five bytes, and a four-byte item modulo 2^32. So are the codes of flags, classes, priorities, run states, timers, phases and levels (assumption 7), the
levels of LP_RDY and OCC_SNS as last read (assumption 16), and the rate and N that a stopped counter shows (assumption 25). -/
def Obligations.ReadRequestsAnswerWithTheirData : Prop :=
  (∀ (num : Byte) (s : State), TakesRequests s →
    exec (.readStation num) s = .next (settle (respond 2 num .done (stationData s) false s)) ∧
    exec (.readPeers num) s = .next (settle (respond 3 num .done (peersData s) false s)) ∧
    (∀ line : Byte, 11 < line.toNat →
      exec (.readLine num line) s = .next (settle (respond 1 num .refusedRange [] false s)) ∧
      exec (.readResults num line) s = .next (settle (respond 4 num .refusedRange [] false s))) ∧
    (∀ (line : Byte) (l : Line), line.toNat = l.val →
      exec (.readLine num line) s = .next (settle (respond 1 num .done (lineData s l) false s)) ∧
      exec (.readResults num line) s = .next (settle (respond 4 num .done (resultsData s l) false s)))) ∧
  (∀ s : State,
    let b (n : Nat) : Byte := BitVec.ofNat 8 n
    let word (n : Nat) : List Byte := bytes32 (BitVec.ofNat 32 n)
    let signed (n : Int) : List Byte := bytes32 (BitVec.ofInt 32 n)
    let flag (x : Bool) : Byte := if x then 0 else 1
    let bit (x : Bool) : Byte := if x then 1 else 0
    let ones (n : Nat) : List Byte := List.replicate n 255
    let byte? (x : Option Nat) : List Byte := match x with | some n => [b n] | none => ones 1
    let word? (x : Option Nat) : List Byte := match x with | some n => word n | none => ones 4
    let timer (x : Option Nat) : List Byte := (if x = none then [1] else [0]) ++ word? x
    let counter (c : Counter) : List Byte := [flag c.running] ++ word c.rate ++ word c.reload
    let run (r : Run) : List Byte := [b r.id, b r.line.val, originCode r.origin, statusCode r.status]
    let capacity : List Byte :=
      [capacityCode s.share.capacity.state] ++ word? s.share.capacity.last ++ word? s.share.capacity.time
    (∀ l, let r := lineOf s l
      let p := r.profile
      let x := supOf s l
      let tags := (indices 32).filterMap fun i => match look s.dist.map i with
        | some e => if e.line = l then some ([b i.val] ++ bytes16 (BitVec.ofNat 16 e.tag) ++ [classCode e.cls]) else none
        | none => none
      lineData s l =
        [flag r.equipped] ++ word p.weight ++ word p.peak ++ word p.burst ++ word p.degraded ++ word p.upLimit ++
        word p.downLimit ++
        [flag r.barred, flag r.hazard, syncCode r.sync, testCode r.test, serviceCode r.service] ++ word r.demand ++
        word r.offered ++ word? r.attainable ++ word r.es ++ word r.ses ++ word r.admissionDrop ++ word r.ageDiscard ++
        word r.flush ++ word r.unmapped ++ byte? (r.continueSlot.map (·.val)) ++
        signed (look s.sched.levels (entryOf l)) ++ word (look s.sched.deficits (entryOf l)) ++
        counter (look s.sched.counters (entryOf l)) ++ word r.unmapped ++
        [b tags.length] ++ tags.flatten ++
        (match primaryTag s.dist.map l with | some t => bytes16 (BitVec.ofNat 16 t) | none => ones 2) ++
        [bit (look s.dist.sending l).isSome, flag (look s.dist.lastReady l)] ++
        [bit x.aligned] ++ word (if x.aligned = true then x.offset else x.searchTime) ++ word? x.lastOffset ++
        [flag x.mimic] ++ word x.markerErrors ++ word x.checkFailures ++ word x.slips ++
        [bit x.showtime.value, bit x.signalLoss.value, bit x.dyingGasp.value, bit x.remoteDefect.value, syncCode r.sync] ++
        word? (x.second.map (·.positions)) ++ word? (x.second.map (·.anomalies)) ++ word x.window.seconds ++
        word x.window.ses ++ timer (x.timerFrom.map (s.time - ·)) ++ word? r.attainable ++ word r.es ++ word r.ses ++
        timer ((look s.seq.holdoffs l).map (· - s.time)) ++
        word (look s.store.up l).length ++ word (upCells s.store l) ++ word (look s.store.down l).length ++
        word (downCells s.store l)) ∧
    (let sc := s.sched
     let cl := s.claims
     let used := (indices 128).filter fun k => (look s.seq.steps k).isSome
     let sampling := ∃ a, s.seq.active = some a ∧ a.phase = .sampling
     stationData s =
      word s.notices.badNotices ++ [conditionCode s.notices.condition] ++ word s.share.share ++ word s.share.allowance ++
      word s.share.share ++ word s.store.free.length ++ word s.store.lowMark ++
      signed sc.stationLevel ++ word sc.stationDepth ++ counter sc.stationCounter ++ signed (look sc.levels 12) ++
      word (look sc.deficits 12) ++ [b sc.pointer.val, turnCode sc.turn, bit sc.inFlight.isSome] ++
      word? (cl.holder.map (·.val)) ++ word? cl.expiry ++
      [b cl.queue.length] ++ (cl.queue.flatMap fun c => word c.station.val ++ [priorityCode c.priority] ++ word c.hold) ++
      word? (cl.turnFrom.map (· + 500 - s.time)) ++
      [ownCode cl.own] ++ (match cl.inForce with | some c => [priorityCode c.priority] ++ word c.hold | none => ones 5) ++
      word? cl.ownLimit ++
      byte? (cl.relay.map (·.val)) ++ [stimulusCode cl.stimulus, flag cl.occDriven, flag cl.occSensed] ++
      [b s.seq.queue.length] ++ s.seq.queue.flatMap run ++
      (match s.seq.active with
        | some a => run a.run ++ [phaseCode a.phase, b a.slot.val, flag a.cancel]
        | none => ones 7) ++
      ((indices 12).flatMap fun l => match look s.seq.faults l with | some r => run r | none => ones 4) ++
      [flag s.seq.latch] ++ word s.seq.counter ++
      (if sampling then word s.meas.acc.n ++ byte? (s.meas.quantity.map fun q => (quantityCode q).toNat) ++
          byte? (s.meas.wires.map fun w => (wiresCode w).toNat)
        else ones 6) ++
      capacity ++ word (rawCapacity s) ++ word s.share.effective ++ word s.store.um.length ++ word s.store.floodDrop ++
      word s.dist.unmapped ++ word s.dist.malformed ++ [b used.length] ++ (used.map fun k => b k.val) ++
      word s.meas.faults ++
      word s.station.val ++ [startCode s.start, flag s.loader.defaulted.isSome] ++ word s.loader.clamped ++
      word s.mgmt.reports.length ++ [flag s.mgmt.missed]) ∧
    peersData s = ((indices 8).flatMap fun k => let p := look s.share.peers k
      [presenceCode p.presence] ++ word? p.lastSequence ++ word p.missed ++ word p.demand ++ word p.weight ++
      [flag p.holding] ++ word p.allowance ++ word? p.lastStatus ++ word? p.joinedAt) ++ capacity ∧
    (∀ l, resultsData s l =
      ((indices 5).flatMap fun q => match look (look s.meas.results l) q with
        | some r => signed r.value ++
            [flag r.flags.open_, flag r.flags.noStep, flag r.flags.overRange, flag r.flags.unstable, flag r.flags.hazard,
              verdictCode r.verdict, wiresCode r.wires, b r.slot.val] ++ word r.count ++ word r.time ++ [b r.runId]
        | none => ones 21) ++
      (match look s.meas.lastRuns l with
        | some r => [b r.runId, originCode r.origin, outcomeCode r.outcome] ++ word r.time
        | none => ones 7)) ∧
    (peersData s).length = 249 ∧ (∀ l, (resultsData s l).length = 112)) ∧
  ([.none, .queued, .turn, .taking, .holding, .releasing].map ownCode = [0, 1, 2, 3, 4, 5] ∧
    [.none, .dcTest, .step, .discharge].map stimulusCode = [0, 1, 2, 3] ∧
    [.idle, .held, .paused].map turnCode = [0, 1, 2] ∧ [.current, .stale, .none].map capacityCode = [0, 1, 2] ∧
    [.normal, .high].map classCode = [0, 1] ∧
    [.waitingBus, .connecting, .settling, .sampling, .discharging, .ending].map phaseCode = [0, 1, 2, 3, 4, 6])

/-- LOAD STEP (R137, R138, R176): a slot above 127 or a record with a part out of range is answered REFUSED-RANGE, a
slot on the chain of the active run or a queued run REFUSED-STATE with that run's id, and else the slot holds the
record or is empty. A record that is accepted reads back as it was sent, fields that are absent as all ones. That it is
read in the packed layout of the request, with the id of a run that uses the slot behind it, that an empty slot reads as
17 zeros, that the active run is named before the queued ones where several use a slot, and that the empty slot at which a
MALFORMED chain fails is on it, is the model's choice (assumption 8). -/
def Obligations.LoadStepWritesAFreeSlot : Prop :=
  (∀ (num slot : Byte) (rec : RawStep) (s : State), TakesRequests s →
    let s0 := s
    let answers (c : Instr) (a : Answer) (data : List Byte) (t : State) : Prop :=
      exec c s = .next (settle (respond 9 num a data false t))
    (127 < slot.toNat → answers (.loadStep num slot rec) .refusedRange [] s0 ∧
      answers (.loadStepEmpty num slot) .refusedRange [] s0) ∧
    (∀ k : Slot, slot.toNat = k.val →
      let users := ((s.seq.active.map (·.run)).toList ++ s.seq.queue).filter fun r =>
        decide (k ∈ (chainFrom s.seq.steps r.start).slots)
      let written (p : Option Step) : State := { s0 with seq := { s.seq with steps := put s.seq.steps k p } }
      let before := stepBytes (look s.seq.steps k)
      (stepOperand rec = none → answers (.loadStep num slot rec) .refusedRange before s0) ∧
      (∀ r rest, users = r :: rest →
        answers (.loadStepEmpty num slot) .refusedState (before ++ [byteOf r.id]) s0 ∧
        (stepOperand rec ≠ none → answers (.loadStep num slot rec) .refusedState (before ++ [byteOf r.id]) s0)) ∧
      (users = [] → answers (.loadStepEmpty num slot) .done (List.replicate 17 0) (written none) ∧
        (∀ p, stepOperand rec = some p → answers (.loadStep num slot rec) .done (stepBytes (some p)) (written (some p)))))) ∧
  (∀ r : RawStep,
    let o := r.options
    let low := o.getLsbD 4
    let high := o.getLsbD 5
    let within (x : BitVec 32) : Prop := match r.quantity.toNat with
      | 0 | 1 => -327670 ≤ x.toInt ∧ x.toInt ≤ 327670
      | 2 => 0 ≤ x.toInt ∧ x.toInt ≤ 2000000000
      | 3 => 0 ≤ x.toInt ∧ x.toInt ≤ 10000000
      | _ => 0 ≤ x.toInt ∧ x.toInt ≤ 65535
    ((∃ p, stepOperand r = some p) ↔ r.mark = 1 ∧ r.wire.toNat ≤ 2 ∧ r.quantity.toNat ≤ 4 ∧ o.getLsbD 7 = false ∧
      r.settle.toNat ≤ 2000 ∧ 16 ≤ r.samples.toNat ∧ r.samples.toNat ≤ 4096 ∧
      (o.getLsbD 6 = true → r.next.toNat ≤ 127) ∧ (o.getLsbD 0 = true ∨ o.getLsbD 6 = true) ∧
      (low = true → within r.low) ∧ (high = true → within r.high) ∧
      (low = true → high = true → r.low.toInt ≤ r.high.toInt)) ∧
    (∀ p, stepOperand r = some p → stepBytes (some p) =
      [1, r.wire, r.quantity, o] ++ bytes16 r.settle ++ bytes16 r.samples ++
        [if o.getLsbD 6 then r.next else 255] ++ bytes32 (if low then r.low else BitVec.allOnes 32) ++
        bytes32 (if high then r.high else BitVec.allOnes 32)))

/-- SUBMIT RUN, CANCEL RUN and activation (R142, R143, R145, R146). A submission is refused by the first row that applies,
or stands at the tail of the queue, and is made active at once under a claim where no run is. A queued run is removed and
ended with its RUN ENDED report, a record leaves its fault slot, a waiting run gives up its claim and ends, and a running
one is marked. The head of the queue is examined where no run is active: it ends MALFORMED, HAZARD or RECOVERED, the hold
decided and the next head examined, or becomes active, in CONNECTING under a kept hold and else in WAITING_BUS with a
claim, which the claim unit takes by its own state (R129, R133). That the place in the queue which the answer carries
counts from 0 and stands before any activation (assumption 8), the slot in the RUN ENDED of a queued run (assumption 14),
and that a give-up ends the claim in force at once (assumption 10), is the model's choice. -/
def Obligations.RunsAreSubmittedAndCancelled : Prop :=
  let slotOf (r : Run) : Slot := if r.status = .suspended then r.resume.getD r.start else r.start
  let holdoffsAfter (s : State) (r : Run) := if r.origin = .triggered then
    put s.seq.holdoffs r.line (some (s.time + 60000 * s.settings.holdoff)) else s.seq.holdoffs
  let ended (r : Run) (o : RunOutcome) (slot : Slot) (s s1 : State) : Prop :=
    s1.mgmt = (queueReport (.runEnded r o slot) s).mgmt ∧ s1.store = (queueReport (.runEnded r o slot) s).store
  (∀ (num line slot option : Byte) (s : State), TakesRequests s →
    let s0 := s
    let answers (a : Answer) (data : List Byte) (t : State) : Prop :=
      exec (.submitRun num line slot option) s = .next (settle (respond 10 num a data false t))
    (11 < line.toNat ∨ 127 < slot.toNat → answers .refusedRange [] s0) ∧
    (∀ (l : Line) (k : Slot), line.toNat = l.val → slot.toNat = k.val →
      let chain := chainFrom s.seq.steps k
      let full := 16 ≤ s.seq.queue.length
      let vacant := (lineOf s l).service = .vacant
      let hazard := (lineOf s l).hazard = true
      let id := assignedId s.seq
      let r : Run := ⟨id, l, k, .operator, .new, none, option.getLsbD 0, none, 0, 0⟩
      let data := [byteOf id] ++ four (holdEstimate s.seq.steps chain) ++ four s.seq.queue.length
      (full → answers .refusedState [1] s0) ∧
      (¬ full → vacant → answers .refusedState [2] s0) ∧
      (¬ full → ¬ vacant → hazard → answers .refusedState [3] s0) ∧
      (¬ full → ¬ vacant → ¬ hazard → chain.good = false → answers .refusedState [4] s0) ∧
      (¬ full → ¬ vacant → ¬ hazard → chain.good = true →
        (s.seq.active ≠ none → ∃ s1, answers .done data s1 ∧
          s1.seq = { s.seq with counter := id, queue := s.seq.queue ++ [r] } ∧
          (lineOf s1 l).test = (if (lineOf s l).test = .connected then .connected else .pending)) ∧
        (s.seq.active = none → s.seq.closing = none → s.seq.queue = [] → s.claims.own = .none →
          s.claims.queue = [] → 2 ≤ s.notices.statusDone → ∃ s1, answers .done data s1 ∧
            s1.seq = { s.seq with counter := id, active := some ⟨r, k, .waitingBus, none, false, false, .passed⟩ } ∧
            s1.claims.own = .queued ∧
            s1.claims.inForce = some ⟨.scheduled, holdEstimate s.seq.steps chain⟩ ∧
            ∃ e ∈ s1.notices.queue, e.ask = .claim .scheduled (holdEstimate s.seq.steps chain))))) ∧
  (∀ (num id : Byte) (s : State), TakesRequests s →
    let s0 := s
    let answers (a : Answer) (t : State) : Prop :=
      exec (.cancelRun num id) s = .next (settle (respond 11 num a [] false t))
    let queued := ∃ r ∈ s.seq.queue, r.id = id.toNat
    let faulted := ∃ l, ∃ r ∈ look s.seq.faults l, r.id = id.toNat
    (id = 0 → answers .refusedRange s0) ∧
    (id ≠ 0 → ¬ queued → ¬ faulted → (∀ a ∈ s.seq.active, a.run.id ≠ id.toNat) → answers .refusedState s0) ∧
    (∀ before r behind, id ≠ 0 → s.seq.queue = before ++ r :: behind → r.id = id.toNat →
      (∀ x ∈ before ++ behind, x.id ≠ id.toNat) → ∃ s1, answers .done s1 ∧
        s1.seq = { s.seq with queue := before ++ behind, holdoffs := holdoffsAfter s r } ∧
        look s1.meas.lastRuns r.line = some ⟨r.id, r.origin, .cancelled, s.time⟩ ∧
        ended r .cancelled (slotOf r) s s1) ∧
    (∀ l, ∀ r ∈ look s.seq.faults l, id ≠ 0 → ¬ queued → r.id = id.toNat →
      (∀ k, k ≠ l → ∀ x ∈ look s.seq.faults k, x.id ≠ id.toNat) →
      answers .done { s0 with seq := { s.seq with faults := put s.seq.faults l none } }) ∧
    (∀ a, s.seq.active = some a → id ≠ 0 → ¬ queued → ¬ faulted → a.run.id = id.toNat →
      (a.phase = .ending ∨ (a.phase ≠ .waitingBus ∧ a.cancel = true) → answers .refusedState s0) ∧
      (a.phase ≠ .ending → a.phase ≠ .waitingBus → a.cancel = false →
        answers .done { s0 with seq := { s.seq with active := some { a with cancel := true } } }) ∧
      (a.phase = .waitingBus → s.seq.queue = [] → s.claims.own = .queued → ∃ s1, answers .done s1 ∧
        s1.seq = { s.seq with active := none, holdoffs := holdoffsAfter s a.run } ∧
        s1.claims.own = .none ∧ s1.claims.inForce = none ∧
        look s1.meas.lastRuns a.run.line = some ⟨a.run.id, a.run.origin, .cancelled, s.time⟩ ∧
        ended a.run .cancelled a.slot s s1))) ∧
  (∀ (r : Run) (rest : List Run) (s : State), s.seq.active = none → s.seq.closing = none → s.seq.queue = r :: rest →
    let slot := slotOf r
    let chain := chainFrom s.seq.steps slot
    let terms : ClaimTerms :=
      ⟨if r.origin = .triggered then .triggered else .scheduled, holdEstimate s.seq.steps chain⟩
    let recovered := r.origin = .triggered ∧ (lineOf s r.line).service = .up
    let ends (o : RunOutcome) : Prop := ∃ s1, activate s = activate s1 ∧
      s1.seq = { s.seq with queue := rest, holdoffs := holdoffsAfter s r } ∧
      look s1.meas.lastRuns r.line = some ⟨r.id, r.origin, o, s.time⟩ ∧
      s1.claims = (decideHold o { s with seq := { s.seq with queue := rest } }).claims ∧
      (s.claims.own ≠ .holding → s1.claims = s.claims) ∧
      (s.claims.own ≠ .holding ∨ s.claims.relay = none → ended r o slot s s1 ∧
        ∀ l, (lineOf s1 l).test = (if (lineOf s l).test = .connected then .connected
          else if ∃ x ∈ rest, x.line = l then .pending else .none))
    (chain.good = false → ends .malformed) ∧
    (chain.good = true → (lineOf s r.line).hazard = true → ends .hazard) ∧
    (chain.good = true → (lineOf s r.line).hazard = false → recovered → ends .recovered) ∧
    (chain.good = true → (lineOf s r.line).hazard = false → ¬ recovered →
      let t := activate s
      let cl := s.claims
      let begins (p : Phase) (until_ : Option Nat) : Prop :=
        t.seq = { s.seq with queue := rest, active := some ⟨r, slot, p, until_, false, false, .passed⟩ }
      let limit := cl.limitReached = true ∨ ∃ x ∈ cl.ownLimit, x ≤ s.time
      (cl.own = .holding →
        (limit → begins .connecting none ∧ t.claims = cl) ∧
        (¬ limit → cl.releaseAt ≠ none → begins .connecting none ∧ t.claims = { cl with connectWaits := some r.line }) ∧
        (¬ limit → cl.releaseAt = none → cl.relay = none → begins .connecting (some (s.time + 10)) ∧
          t.claims = { cl with relay := some r.line, connectWaits := none } ∧ (lineOf t r.line).test = .connected)) ∧
      (cl.own ≠ .holding → begins .waitingBus none ∧ t.mgmt = s.mgmt ∧ t.claims.relay = cl.relay) ∧
      (cl.own = .none → s.notices.statusDone < 2 → t.claims = { cl with inForce := some terms, waiting := true }) ∧
      (cl.own = .queued ∨ (cl.own = .none ∧ 2 ≤ s.notices.statusDone) →
        t.claims.inForce = some terms ∧ (t.claims.own = .queued ∨ t.claims.own = .turn) ∧
        ∃ e ∈ t.notices.queue, e.ask = .claim terms.priority terms.hold) ∧
      (cl.own = .turn ∨ cl.own = .taking → t.claims = { cl with inForce := some terms } ∧ t.notices = s.notices) ∧
      (cl.own = .releasing → t.claims = { cl with recorded := some terms })))

/-- CLEAR FAULT and REALIGN (R6, R111, R112, R151): a set hazard flag is cleared, an OPERATOR record in the fault slot
queued again with its counts at 0 and a TRIGGERED one discarded; the latch is cleared if it is set. An aligned line
loses its stream as R111 lays down, and a searching one begins its search again with the search time counting on. The end of
the position that a REALIGN in ALIGNED has cut off comes in SEARCH: its bits are searched, each marker pattern among them
that is no candidate yet becoming one, and it is not counted; the end of any other position in SEARCH changes nothing, and
a suspended line drops a position. That a refused REALIGN carries no data (assumption 8), that all 48 bits of the position cut
off are searched at its end (assumption 17), and that an end with no position cut off does nothing (assumption 4), is the
model's choice or its inference. -/
def Obligations.FaultsAreClearedAndLinesRealigned : Prop :=
  (∀ (num : Byte) (s : State), TakesRequests s →
    let s0 := s
    (s.seq.latch = false →
      exec (.clearFaultLatch num) s = .next (settle (respond 12 num .refusedState [] false s0))) ∧
    (s.seq.latch = true → exec (.clearFaultLatch num) s =
      .next (settle (respond 12 num .done [] false { s0 with seq := { s.seq with latch := false } })))) ∧
  (∀ (num line : Byte) (s : State), TakesRequests s → 11 < line.toNat →
    exec (.clearFault num line) s = .next (settle (respond 12 num .refusedRange [] false s)) ∧
    exec (.realign num line) s = .next (settle (respond 13 num .refusedRange [] false s))) ∧
  (∀ (num line : Byte) (l : Line) (s : State), TakesRequests s → line.toNat = l.val →
    let s0 := s
    let answers (a : Answer) (t : State) : Prop :=
      exec (.clearFault num line) s = .next (settle (respond 12 num a [] false t))
    let cleared : State := { s0 with
      lines := alter s.lines l fun r => { r with hazard := false }
      seq := { s.seq with faults := put s.seq.faults l none } }
    ((lineOf s l).hazard = false → answers .refusedState s0) ∧
    ((lineOf s l).hazard = true →
      ((∀ r ∈ look s.seq.faults l, r.origin = .triggered) → answers .done cleared) ∧
      (∀ r, look s.seq.faults l = some r → r.origin = .operator →
        (16 ≤ s.seq.queue.length → answers .refusedState s0) ∧
        (s.seq.queue.length < 16 → s.seq.active ≠ none → ∃ s1, answers .done s1 ∧
          s1.seq = { cleared.seq with queue := s.seq.queue ++
            [{ r with status := .new, resume := none, steps := 0, fails := 0 }] } ∧
          (lineOf s1 l).hazard = false)))) ∧
  (∀ (num line : Byte) (l : Line) (s : State), TakesRequests s → line.toNat = l.val →
    let s0 := s
    let x := supOf s l
    (x.suspended = true →
      exec (.realign num line) s = .next (settle (respond 13 num .refusedState [] false s0))) ∧
    (x.suspended = false → x.aligned = false → exec (.realign num line) s = .next (settle (respond 13 num .done [0] false
      { s0 with sup := put s.sup l { x with candidates := [], mimicRecord := false } }))) ∧
    (x.suspended = false → x.aligned = true → exec (.realign num line) s = .next (settle (respond 13 num .done [0] false
      { s0 with
        lines := alter s.lines l fun r =>
          { r with es := min 4294967295 (r.es + 1), ses := min 4294967295 (r.ses + 1) }
        sup := put s.sup l { x with
          aligned := false, candidates := [], mimicRecord := false, searchFrom := x.bitIndex, searchTime := 0
          cutEnd := some x.positionEnd, lastGood := none, second := none, window := ⟨0, 0⟩
          showtime := { x.showtime with run := 0 }, signalLoss := { x.signalLoss with run := 0 }
          dyingGasp := { x.dyingGasp with run := 0 }, remoteDefect := { x.remoteDefect with run := 0 } } })))) ∧
  (∀ (l : Line) (w : BitVec 48) (s : State), s.power = .running →
    let x := supOf s l
    (x.suspended = true ∨ (x.aligned = false ∧ x.cutEnd = none) →
      exec (.reportPositionEnd l w) s = .next (settle s)) ∧
    (∀ e, x.suspended = false → x.aligned = false → x.cutEnd = some e →
      let found := ((List.range 41).filter fun o => decide (w.extractLsb' (40 - o) 8 = 0xB2#8)).map fun o => e - 48 + o
      exec (.reportPositionEnd l w) s = .next (settle { s with sup := put s.sup l { x with
        bitIndex := max x.bitIndex e, searchTime := min 20 ((max x.bitIndex e - x.searchFrom) / 48), cutEnd := none
        candidates := x.candidates ++ found.filter fun b => decide (b ∉ x.candidates) } })))

/-- RESTART and the restart wait (R163, R164, R166): RESTART is answered DONE and begins a wait of at most 100 ms, in
which every request is discarded with no response and no effect; its timeout ends it. What is no request is answered
UNKNOWN with its kind and number, or with 0 for both where it is too short to carry them. That a timeout which has not
come does nothing (assumption 4), and that a request command ends the MGMT frame on record (assumption 17), is the model's
choice. -/
def Obligations.RestartWaitsAndUnknownRequestsAreAnswered : Prop :=
  (∀ (num : Byte) (s : State), TakesRequests s →
    let s1 := respond 14 num .done [] true s
    exec (.restart num) s = .next (settle { s1 with mgmt := { s1.mgmt with wait := .waiting (s.time + 100) } })) ∧
  (∀ (contents : List Byte) (s : State), TakesRequests s →
    (contents.length < 2 → exec (.unknown contents) s = .next (settle (respond 0 0 .unknown [] false s))) ∧
    (∀ code num rest, contents = code :: num :: rest →
      exec (.unknown contents) s = .next (settle (respond code num .unknown [] false s)))) ∧
  (∀ s : State, s.power = .running →
    (Due s .restartWaitTimeout →
      exec .restartWaitTimeout s = .next (settle { s with mgmt := { s.mgmt with wait := .ended } })) ∧
    (¬ Due s .restartWaitTimeout → exec .restartWaitTimeout s = .next (settle s)) ∧
    (s.mgmt.wait ≠ .none →
      (NoRequestInReception s → ∀ (c : Instr) (b : List Byte), encodeRequest c = some b ∨ c = .unknown b →
        exec c s = .next (settle s)) ∧
      (∀ length kept received, s.store.uplinkRx = .request length kept received →
        let ended : State := { s with store := { s.store with uplinkRx := .idle } }
        (∀ rest, exec (.frameReceptionEnd .uplink rest) s = .next (settle ended)) ∧
        (∀ (c : Instr) (b : List Byte), encodeRequest c = some b ∨ c = .unknown b → exec c s = .next (settle ended)))))
end

