-- ==== Sys2Proof/Laws/State.lean ====
section
/-! SUPPORT. One lemma per field per update of the state, so that no later proof unfolds a record update. -/

namespace Sys2Proof.Machine

/-! ### setNotices -/

@[simp] theorem setNotices_pending (f : Notices → Notices) (s : State) : (setNotices f s).pending = s.pending := rfl
@[simp] theorem setNotices_power (f : Notices → Notices) (s : State) : (setNotices f s).power = s.power := rfl
@[simp] theorem setNotices_start (f : Notices → Notices) (s : State) : (setNotices f s).start = s.start := rfl
@[simp] theorem setNotices_time (f : Notices → Notices) (s : State) : (setNotices f s).time = s.time := rfl
@[simp] theorem setNotices_micros (f : Notices → Notices) (s : State) : (setNotices f s).micros = s.micros := rfl
@[simp] theorem setNotices_prescale (f : Notices → Notices) (s : State) : (setNotices f s).prescale = s.prescale := rfl
@[simp] theorem setNotices_loader (f : Notices → Notices) (s : State) : (setNotices f s).loader = s.loader := rfl
@[simp] theorem setNotices_lines (f : Notices → Notices) (s : State) : (setNotices f s).lines = s.lines := rfl
@[simp] theorem setNotices_notices (f : Notices → Notices) (s : State) : (setNotices f s).notices = f s.notices := rfl
@[simp] theorem setNotices_share (f : Notices → Notices) (s : State) : (setNotices f s).share = s.share := rfl
@[simp] theorem setNotices_store (f : Notices → Notices) (s : State) : (setNotices f s).store = s.store := rfl
@[simp] theorem setNotices_sched (f : Notices → Notices) (s : State) : (setNotices f s).sched = s.sched := rfl
@[simp] theorem setNotices_dist (f : Notices → Notices) (s : State) : (setNotices f s).dist = s.dist := rfl
@[simp] theorem setNotices_sup (f : Notices → Notices) (s : State) : (setNotices f s).sup = s.sup := rfl
@[simp] theorem setNotices_claims (f : Notices → Notices) (s : State) : (setNotices f s).claims = s.claims := rfl
@[simp] theorem setNotices_seq (f : Notices → Notices) (s : State) : (setNotices f s).seq = s.seq := rfl
@[simp] theorem setNotices_meas (f : Notices → Notices) (s : State) : (setNotices f s).meas = s.meas := rfl
@[simp] theorem setNotices_mgmt (f : Notices → Notices) (s : State) : (setNotices f s).mgmt = s.mgmt := rfl
@[simp] theorem setNotices_settings (f : Notices → Notices) (s : State) : (setNotices f s).settings = s.settings := rfl
@[simp] theorem setNotices_station (f : Notices → Notices) (s : State) : (setNotices f s).station = s.station := rfl

/-! ### setShare -/

@[simp] theorem setShare_pending (f : Share → Share) (s : State) : (setShare f s).pending = s.pending := rfl
@[simp] theorem setShare_power (f : Share → Share) (s : State) : (setShare f s).power = s.power := rfl
@[simp] theorem setShare_start (f : Share → Share) (s : State) : (setShare f s).start = s.start := rfl
@[simp] theorem setShare_time (f : Share → Share) (s : State) : (setShare f s).time = s.time := rfl
@[simp] theorem setShare_micros (f : Share → Share) (s : State) : (setShare f s).micros = s.micros := rfl
@[simp] theorem setShare_prescale (f : Share → Share) (s : State) : (setShare f s).prescale = s.prescale := rfl
@[simp] theorem setShare_loader (f : Share → Share) (s : State) : (setShare f s).loader = s.loader := rfl
@[simp] theorem setShare_lines (f : Share → Share) (s : State) : (setShare f s).lines = s.lines := rfl
@[simp] theorem setShare_notices (f : Share → Share) (s : State) : (setShare f s).notices = s.notices := rfl
@[simp] theorem setShare_share (f : Share → Share) (s : State) : (setShare f s).share = f s.share := rfl
@[simp] theorem setShare_store (f : Share → Share) (s : State) : (setShare f s).store = s.store := rfl
@[simp] theorem setShare_sched (f : Share → Share) (s : State) : (setShare f s).sched = s.sched := rfl
@[simp] theorem setShare_dist (f : Share → Share) (s : State) : (setShare f s).dist = s.dist := rfl
@[simp] theorem setShare_sup (f : Share → Share) (s : State) : (setShare f s).sup = s.sup := rfl
@[simp] theorem setShare_claims (f : Share → Share) (s : State) : (setShare f s).claims = s.claims := rfl
@[simp] theorem setShare_seq (f : Share → Share) (s : State) : (setShare f s).seq = s.seq := rfl
@[simp] theorem setShare_meas (f : Share → Share) (s : State) : (setShare f s).meas = s.meas := rfl
@[simp] theorem setShare_mgmt (f : Share → Share) (s : State) : (setShare f s).mgmt = s.mgmt := rfl
@[simp] theorem setShare_settings (f : Share → Share) (s : State) : (setShare f s).settings = s.settings := rfl
@[simp] theorem setShare_station (f : Share → Share) (s : State) : (setShare f s).station = s.station := rfl

/-! ### setStore -/

@[simp] theorem setStore_pending (f : Store → Store) (s : State) : (setStore f s).pending = s.pending := rfl
@[simp] theorem setStore_power (f : Store → Store) (s : State) : (setStore f s).power = s.power := rfl
@[simp] theorem setStore_start (f : Store → Store) (s : State) : (setStore f s).start = s.start := rfl
@[simp] theorem setStore_time (f : Store → Store) (s : State) : (setStore f s).time = s.time := rfl
@[simp] theorem setStore_micros (f : Store → Store) (s : State) : (setStore f s).micros = s.micros := rfl
@[simp] theorem setStore_prescale (f : Store → Store) (s : State) : (setStore f s).prescale = s.prescale := rfl
@[simp] theorem setStore_loader (f : Store → Store) (s : State) : (setStore f s).loader = s.loader := rfl
@[simp] theorem setStore_lines (f : Store → Store) (s : State) : (setStore f s).lines = s.lines := rfl
@[simp] theorem setStore_notices (f : Store → Store) (s : State) : (setStore f s).notices = s.notices := rfl
@[simp] theorem setStore_share (f : Store → Store) (s : State) : (setStore f s).share = s.share := rfl
@[simp] theorem setStore_store (f : Store → Store) (s : State) : (setStore f s).store = f s.store := rfl
@[simp] theorem setStore_sched (f : Store → Store) (s : State) : (setStore f s).sched = s.sched := rfl
@[simp] theorem setStore_dist (f : Store → Store) (s : State) : (setStore f s).dist = s.dist := rfl
@[simp] theorem setStore_sup (f : Store → Store) (s : State) : (setStore f s).sup = s.sup := rfl
@[simp] theorem setStore_claims (f : Store → Store) (s : State) : (setStore f s).claims = s.claims := rfl
@[simp] theorem setStore_seq (f : Store → Store) (s : State) : (setStore f s).seq = s.seq := rfl
@[simp] theorem setStore_meas (f : Store → Store) (s : State) : (setStore f s).meas = s.meas := rfl
@[simp] theorem setStore_mgmt (f : Store → Store) (s : State) : (setStore f s).mgmt = s.mgmt := rfl
@[simp] theorem setStore_settings (f : Store → Store) (s : State) : (setStore f s).settings = s.settings := rfl
@[simp] theorem setStore_station (f : Store → Store) (s : State) : (setStore f s).station = s.station := rfl

/-! ### setSched -/

@[simp] theorem setSched_pending (f : Scheduler → Scheduler) (s : State) : (setSched f s).pending = s.pending := rfl
@[simp] theorem setSched_power (f : Scheduler → Scheduler) (s : State) : (setSched f s).power = s.power := rfl
@[simp] theorem setSched_start (f : Scheduler → Scheduler) (s : State) : (setSched f s).start = s.start := rfl
@[simp] theorem setSched_time (f : Scheduler → Scheduler) (s : State) : (setSched f s).time = s.time := rfl
@[simp] theorem setSched_micros (f : Scheduler → Scheduler) (s : State) : (setSched f s).micros = s.micros := rfl
@[simp] theorem setSched_prescale (f : Scheduler → Scheduler) (s : State) : (setSched f s).prescale = s.prescale := rfl
@[simp] theorem setSched_loader (f : Scheduler → Scheduler) (s : State) : (setSched f s).loader = s.loader := rfl
@[simp] theorem setSched_lines (f : Scheduler → Scheduler) (s : State) : (setSched f s).lines = s.lines := rfl
@[simp] theorem setSched_notices (f : Scheduler → Scheduler) (s : State) : (setSched f s).notices = s.notices := rfl
@[simp] theorem setSched_share (f : Scheduler → Scheduler) (s : State) : (setSched f s).share = s.share := rfl
@[simp] theorem setSched_store (f : Scheduler → Scheduler) (s : State) : (setSched f s).store = s.store := rfl
@[simp] theorem setSched_sched (f : Scheduler → Scheduler) (s : State) : (setSched f s).sched = f s.sched := rfl
@[simp] theorem setSched_dist (f : Scheduler → Scheduler) (s : State) : (setSched f s).dist = s.dist := rfl
@[simp] theorem setSched_sup (f : Scheduler → Scheduler) (s : State) : (setSched f s).sup = s.sup := rfl
@[simp] theorem setSched_claims (f : Scheduler → Scheduler) (s : State) : (setSched f s).claims = s.claims := rfl
@[simp] theorem setSched_seq (f : Scheduler → Scheduler) (s : State) : (setSched f s).seq = s.seq := rfl
@[simp] theorem setSched_meas (f : Scheduler → Scheduler) (s : State) : (setSched f s).meas = s.meas := rfl
@[simp] theorem setSched_mgmt (f : Scheduler → Scheduler) (s : State) : (setSched f s).mgmt = s.mgmt := rfl
@[simp] theorem setSched_settings (f : Scheduler → Scheduler) (s : State) : (setSched f s).settings = s.settings := rfl
@[simp] theorem setSched_station (f : Scheduler → Scheduler) (s : State) : (setSched f s).station = s.station := rfl

/-! ### setDist -/

@[simp] theorem setDist_pending (f : Distributor → Distributor) (s : State) : (setDist f s).pending = s.pending := rfl
@[simp] theorem setDist_power (f : Distributor → Distributor) (s : State) : (setDist f s).power = s.power := rfl
@[simp] theorem setDist_start (f : Distributor → Distributor) (s : State) : (setDist f s).start = s.start := rfl
@[simp] theorem setDist_time (f : Distributor → Distributor) (s : State) : (setDist f s).time = s.time := rfl
@[simp] theorem setDist_micros (f : Distributor → Distributor) (s : State) : (setDist f s).micros = s.micros := rfl
@[simp] theorem setDist_prescale (f : Distributor → Distributor) (s : State) : (setDist f s).prescale = s.prescale := rfl
@[simp] theorem setDist_loader (f : Distributor → Distributor) (s : State) : (setDist f s).loader = s.loader := rfl
@[simp] theorem setDist_lines (f : Distributor → Distributor) (s : State) : (setDist f s).lines = s.lines := rfl
@[simp] theorem setDist_notices (f : Distributor → Distributor) (s : State) : (setDist f s).notices = s.notices := rfl
@[simp] theorem setDist_share (f : Distributor → Distributor) (s : State) : (setDist f s).share = s.share := rfl
@[simp] theorem setDist_store (f : Distributor → Distributor) (s : State) : (setDist f s).store = s.store := rfl
@[simp] theorem setDist_sched (f : Distributor → Distributor) (s : State) : (setDist f s).sched = s.sched := rfl
@[simp] theorem setDist_dist (f : Distributor → Distributor) (s : State) : (setDist f s).dist = f s.dist := rfl
@[simp] theorem setDist_sup (f : Distributor → Distributor) (s : State) : (setDist f s).sup = s.sup := rfl
@[simp] theorem setDist_claims (f : Distributor → Distributor) (s : State) : (setDist f s).claims = s.claims := rfl
@[simp] theorem setDist_seq (f : Distributor → Distributor) (s : State) : (setDist f s).seq = s.seq := rfl
@[simp] theorem setDist_meas (f : Distributor → Distributor) (s : State) : (setDist f s).meas = s.meas := rfl
@[simp] theorem setDist_mgmt (f : Distributor → Distributor) (s : State) : (setDist f s).mgmt = s.mgmt := rfl
@[simp] theorem setDist_settings (f : Distributor → Distributor) (s : State) : (setDist f s).settings = s.settings := rfl
@[simp] theorem setDist_station (f : Distributor → Distributor) (s : State) : (setDist f s).station = s.station := rfl

/-! ### setClaims -/

@[simp] theorem setClaims_pending (f : Claims → Claims) (s : State) : (setClaims f s).pending = s.pending := rfl
@[simp] theorem setClaims_power (f : Claims → Claims) (s : State) : (setClaims f s).power = s.power := rfl
@[simp] theorem setClaims_start (f : Claims → Claims) (s : State) : (setClaims f s).start = s.start := rfl
@[simp] theorem setClaims_time (f : Claims → Claims) (s : State) : (setClaims f s).time = s.time := rfl
@[simp] theorem setClaims_micros (f : Claims → Claims) (s : State) : (setClaims f s).micros = s.micros := rfl
@[simp] theorem setClaims_prescale (f : Claims → Claims) (s : State) : (setClaims f s).prescale = s.prescale := rfl
@[simp] theorem setClaims_loader (f : Claims → Claims) (s : State) : (setClaims f s).loader = s.loader := rfl
@[simp] theorem setClaims_lines (f : Claims → Claims) (s : State) : (setClaims f s).lines = s.lines := rfl
@[simp] theorem setClaims_notices (f : Claims → Claims) (s : State) : (setClaims f s).notices = s.notices := rfl
@[simp] theorem setClaims_share (f : Claims → Claims) (s : State) : (setClaims f s).share = s.share := rfl
@[simp] theorem setClaims_store (f : Claims → Claims) (s : State) : (setClaims f s).store = s.store := rfl
@[simp] theorem setClaims_sched (f : Claims → Claims) (s : State) : (setClaims f s).sched = s.sched := rfl
@[simp] theorem setClaims_dist (f : Claims → Claims) (s : State) : (setClaims f s).dist = s.dist := rfl
@[simp] theorem setClaims_sup (f : Claims → Claims) (s : State) : (setClaims f s).sup = s.sup := rfl
@[simp] theorem setClaims_claims (f : Claims → Claims) (s : State) : (setClaims f s).claims = f s.claims := rfl
@[simp] theorem setClaims_seq (f : Claims → Claims) (s : State) : (setClaims f s).seq = s.seq := rfl
@[simp] theorem setClaims_meas (f : Claims → Claims) (s : State) : (setClaims f s).meas = s.meas := rfl
@[simp] theorem setClaims_mgmt (f : Claims → Claims) (s : State) : (setClaims f s).mgmt = s.mgmt := rfl
@[simp] theorem setClaims_settings (f : Claims → Claims) (s : State) : (setClaims f s).settings = s.settings := rfl
@[simp] theorem setClaims_station (f : Claims → Claims) (s : State) : (setClaims f s).station = s.station := rfl

/-! ### setSeq -/

@[simp] theorem setSeq_pending (f : Sequencer → Sequencer) (s : State) : (setSeq f s).pending = s.pending := rfl
@[simp] theorem setSeq_power (f : Sequencer → Sequencer) (s : State) : (setSeq f s).power = s.power := rfl
@[simp] theorem setSeq_start (f : Sequencer → Sequencer) (s : State) : (setSeq f s).start = s.start := rfl
@[simp] theorem setSeq_time (f : Sequencer → Sequencer) (s : State) : (setSeq f s).time = s.time := rfl
@[simp] theorem setSeq_micros (f : Sequencer → Sequencer) (s : State) : (setSeq f s).micros = s.micros := rfl
@[simp] theorem setSeq_prescale (f : Sequencer → Sequencer) (s : State) : (setSeq f s).prescale = s.prescale := rfl
@[simp] theorem setSeq_loader (f : Sequencer → Sequencer) (s : State) : (setSeq f s).loader = s.loader := rfl
@[simp] theorem setSeq_lines (f : Sequencer → Sequencer) (s : State) : (setSeq f s).lines = s.lines := rfl
@[simp] theorem setSeq_notices (f : Sequencer → Sequencer) (s : State) : (setSeq f s).notices = s.notices := rfl
@[simp] theorem setSeq_share (f : Sequencer → Sequencer) (s : State) : (setSeq f s).share = s.share := rfl
@[simp] theorem setSeq_store (f : Sequencer → Sequencer) (s : State) : (setSeq f s).store = s.store := rfl
@[simp] theorem setSeq_sched (f : Sequencer → Sequencer) (s : State) : (setSeq f s).sched = s.sched := rfl
@[simp] theorem setSeq_dist (f : Sequencer → Sequencer) (s : State) : (setSeq f s).dist = s.dist := rfl
@[simp] theorem setSeq_sup (f : Sequencer → Sequencer) (s : State) : (setSeq f s).sup = s.sup := rfl
@[simp] theorem setSeq_claims (f : Sequencer → Sequencer) (s : State) : (setSeq f s).claims = s.claims := rfl
@[simp] theorem setSeq_seq (f : Sequencer → Sequencer) (s : State) : (setSeq f s).seq = f s.seq := rfl
@[simp] theorem setSeq_meas (f : Sequencer → Sequencer) (s : State) : (setSeq f s).meas = s.meas := rfl
@[simp] theorem setSeq_mgmt (f : Sequencer → Sequencer) (s : State) : (setSeq f s).mgmt = s.mgmt := rfl
@[simp] theorem setSeq_settings (f : Sequencer → Sequencer) (s : State) : (setSeq f s).settings = s.settings := rfl
@[simp] theorem setSeq_station (f : Sequencer → Sequencer) (s : State) : (setSeq f s).station = s.station := rfl

/-! ### setMeas -/

@[simp] theorem setMeas_pending (f : Measurement → Measurement) (s : State) : (setMeas f s).pending = s.pending := rfl
@[simp] theorem setMeas_power (f : Measurement → Measurement) (s : State) : (setMeas f s).power = s.power := rfl
@[simp] theorem setMeas_start (f : Measurement → Measurement) (s : State) : (setMeas f s).start = s.start := rfl
@[simp] theorem setMeas_time (f : Measurement → Measurement) (s : State) : (setMeas f s).time = s.time := rfl
@[simp] theorem setMeas_micros (f : Measurement → Measurement) (s : State) : (setMeas f s).micros = s.micros := rfl
@[simp] theorem setMeas_prescale (f : Measurement → Measurement) (s : State) : (setMeas f s).prescale = s.prescale := rfl
@[simp] theorem setMeas_loader (f : Measurement → Measurement) (s : State) : (setMeas f s).loader = s.loader := rfl
@[simp] theorem setMeas_lines (f : Measurement → Measurement) (s : State) : (setMeas f s).lines = s.lines := rfl
@[simp] theorem setMeas_notices (f : Measurement → Measurement) (s : State) : (setMeas f s).notices = s.notices := rfl
@[simp] theorem setMeas_share (f : Measurement → Measurement) (s : State) : (setMeas f s).share = s.share := rfl
@[simp] theorem setMeas_store (f : Measurement → Measurement) (s : State) : (setMeas f s).store = s.store := rfl
@[simp] theorem setMeas_sched (f : Measurement → Measurement) (s : State) : (setMeas f s).sched = s.sched := rfl
@[simp] theorem setMeas_dist (f : Measurement → Measurement) (s : State) : (setMeas f s).dist = s.dist := rfl
@[simp] theorem setMeas_sup (f : Measurement → Measurement) (s : State) : (setMeas f s).sup = s.sup := rfl
@[simp] theorem setMeas_claims (f : Measurement → Measurement) (s : State) : (setMeas f s).claims = s.claims := rfl
@[simp] theorem setMeas_seq (f : Measurement → Measurement) (s : State) : (setMeas f s).seq = s.seq := rfl
@[simp] theorem setMeas_meas (f : Measurement → Measurement) (s : State) : (setMeas f s).meas = f s.meas := rfl
@[simp] theorem setMeas_mgmt (f : Measurement → Measurement) (s : State) : (setMeas f s).mgmt = s.mgmt := rfl
@[simp] theorem setMeas_settings (f : Measurement → Measurement) (s : State) : (setMeas f s).settings = s.settings := rfl
@[simp] theorem setMeas_station (f : Measurement → Measurement) (s : State) : (setMeas f s).station = s.station := rfl

/-! ### setMgmt -/

@[simp] theorem setMgmt_pending (f : Management → Management) (s : State) : (setMgmt f s).pending = s.pending := rfl
@[simp] theorem setMgmt_power (f : Management → Management) (s : State) : (setMgmt f s).power = s.power := rfl
@[simp] theorem setMgmt_start (f : Management → Management) (s : State) : (setMgmt f s).start = s.start := rfl
@[simp] theorem setMgmt_time (f : Management → Management) (s : State) : (setMgmt f s).time = s.time := rfl
@[simp] theorem setMgmt_micros (f : Management → Management) (s : State) : (setMgmt f s).micros = s.micros := rfl
@[simp] theorem setMgmt_prescale (f : Management → Management) (s : State) : (setMgmt f s).prescale = s.prescale := rfl
@[simp] theorem setMgmt_loader (f : Management → Management) (s : State) : (setMgmt f s).loader = s.loader := rfl
@[simp] theorem setMgmt_lines (f : Management → Management) (s : State) : (setMgmt f s).lines = s.lines := rfl
@[simp] theorem setMgmt_notices (f : Management → Management) (s : State) : (setMgmt f s).notices = s.notices := rfl
@[simp] theorem setMgmt_share (f : Management → Management) (s : State) : (setMgmt f s).share = s.share := rfl
@[simp] theorem setMgmt_store (f : Management → Management) (s : State) : (setMgmt f s).store = s.store := rfl
@[simp] theorem setMgmt_sched (f : Management → Management) (s : State) : (setMgmt f s).sched = s.sched := rfl
@[simp] theorem setMgmt_dist (f : Management → Management) (s : State) : (setMgmt f s).dist = s.dist := rfl
@[simp] theorem setMgmt_sup (f : Management → Management) (s : State) : (setMgmt f s).sup = s.sup := rfl
@[simp] theorem setMgmt_claims (f : Management → Management) (s : State) : (setMgmt f s).claims = s.claims := rfl
@[simp] theorem setMgmt_seq (f : Management → Management) (s : State) : (setMgmt f s).seq = s.seq := rfl
@[simp] theorem setMgmt_meas (f : Management → Management) (s : State) : (setMgmt f s).meas = s.meas := rfl
@[simp] theorem setMgmt_mgmt (f : Management → Management) (s : State) : (setMgmt f s).mgmt = f s.mgmt := rfl
@[simp] theorem setMgmt_settings (f : Management → Management) (s : State) : (setMgmt f s).settings = s.settings := rfl
@[simp] theorem setMgmt_station (f : Management → Management) (s : State) : (setMgmt f s).station = s.station := rfl

/-! ### setLine -/

@[simp] theorem setLine_pending (l : Line) (f : LineRec → LineRec) (s : State) : (setLine l f s).pending = s.pending := rfl
@[simp] theorem setLine_power (l : Line) (f : LineRec → LineRec) (s : State) : (setLine l f s).power = s.power := rfl
@[simp] theorem setLine_start (l : Line) (f : LineRec → LineRec) (s : State) : (setLine l f s).start = s.start := rfl
@[simp] theorem setLine_time (l : Line) (f : LineRec → LineRec) (s : State) : (setLine l f s).time = s.time := rfl
@[simp] theorem setLine_micros (l : Line) (f : LineRec → LineRec) (s : State) : (setLine l f s).micros = s.micros := rfl
@[simp] theorem setLine_prescale (l : Line) (f : LineRec → LineRec) (s : State) : (setLine l f s).prescale = s.prescale := rfl
@[simp] theorem setLine_loader (l : Line) (f : LineRec → LineRec) (s : State) : (setLine l f s).loader = s.loader := rfl
@[simp] theorem setLine_lines (l : Line) (f : LineRec → LineRec) (s : State) : (setLine l f s).lines = alter s.lines l f := rfl
@[simp] theorem setLine_notices (l : Line) (f : LineRec → LineRec) (s : State) : (setLine l f s).notices = s.notices := rfl
@[simp] theorem setLine_share (l : Line) (f : LineRec → LineRec) (s : State) : (setLine l f s).share = s.share := rfl
@[simp] theorem setLine_store (l : Line) (f : LineRec → LineRec) (s : State) : (setLine l f s).store = s.store := rfl
@[simp] theorem setLine_sched (l : Line) (f : LineRec → LineRec) (s : State) : (setLine l f s).sched = s.sched := rfl
@[simp] theorem setLine_dist (l : Line) (f : LineRec → LineRec) (s : State) : (setLine l f s).dist = s.dist := rfl
@[simp] theorem setLine_sup (l : Line) (f : LineRec → LineRec) (s : State) : (setLine l f s).sup = s.sup := rfl
@[simp] theorem setLine_claims (l : Line) (f : LineRec → LineRec) (s : State) : (setLine l f s).claims = s.claims := rfl
@[simp] theorem setLine_seq (l : Line) (f : LineRec → LineRec) (s : State) : (setLine l f s).seq = s.seq := rfl
@[simp] theorem setLine_meas (l : Line) (f : LineRec → LineRec) (s : State) : (setLine l f s).meas = s.meas := rfl
@[simp] theorem setLine_mgmt (l : Line) (f : LineRec → LineRec) (s : State) : (setLine l f s).mgmt = s.mgmt := rfl
@[simp] theorem setLine_settings (l : Line) (f : LineRec → LineRec) (s : State) : (setLine l f s).settings = s.settings := rfl
@[simp] theorem setLine_station (l : Line) (f : LineRec → LineRec) (s : State) : (setLine l f s).station = s.station := rfl

/-! ### setSup -/

@[simp] theorem setSup_pending (l : Line) (f : Supervision → Supervision) (s : State) : (setSup l f s).pending = s.pending := rfl
@[simp] theorem setSup_power (l : Line) (f : Supervision → Supervision) (s : State) : (setSup l f s).power = s.power := rfl
@[simp] theorem setSup_start (l : Line) (f : Supervision → Supervision) (s : State) : (setSup l f s).start = s.start := rfl
@[simp] theorem setSup_time (l : Line) (f : Supervision → Supervision) (s : State) : (setSup l f s).time = s.time := rfl
@[simp] theorem setSup_micros (l : Line) (f : Supervision → Supervision) (s : State) : (setSup l f s).micros = s.micros := rfl
@[simp] theorem setSup_prescale (l : Line) (f : Supervision → Supervision) (s : State) : (setSup l f s).prescale = s.prescale := rfl
@[simp] theorem setSup_loader (l : Line) (f : Supervision → Supervision) (s : State) : (setSup l f s).loader = s.loader := rfl
@[simp] theorem setSup_lines (l : Line) (f : Supervision → Supervision) (s : State) : (setSup l f s).lines = s.lines := rfl
@[simp] theorem setSup_notices (l : Line) (f : Supervision → Supervision) (s : State) : (setSup l f s).notices = s.notices := rfl
@[simp] theorem setSup_share (l : Line) (f : Supervision → Supervision) (s : State) : (setSup l f s).share = s.share := rfl
@[simp] theorem setSup_store (l : Line) (f : Supervision → Supervision) (s : State) : (setSup l f s).store = s.store := rfl
@[simp] theorem setSup_sched (l : Line) (f : Supervision → Supervision) (s : State) : (setSup l f s).sched = s.sched := rfl
@[simp] theorem setSup_dist (l : Line) (f : Supervision → Supervision) (s : State) : (setSup l f s).dist = s.dist := rfl
@[simp] theorem setSup_sup (l : Line) (f : Supervision → Supervision) (s : State) : (setSup l f s).sup = alter s.sup l f := rfl
@[simp] theorem setSup_claims (l : Line) (f : Supervision → Supervision) (s : State) : (setSup l f s).claims = s.claims := rfl
@[simp] theorem setSup_seq (l : Line) (f : Supervision → Supervision) (s : State) : (setSup l f s).seq = s.seq := rfl
@[simp] theorem setSup_meas (l : Line) (f : Supervision → Supervision) (s : State) : (setSup l f s).meas = s.meas := rfl
@[simp] theorem setSup_mgmt (l : Line) (f : Supervision → Supervision) (s : State) : (setSup l f s).mgmt = s.mgmt := rfl
@[simp] theorem setSup_settings (l : Line) (f : Supervision → Supervision) (s : State) : (setSup l f s).settings = s.settings := rfl
@[simp] theorem setSup_station (l : Line) (f : Supervision → Supervision) (s : State) : (setSup l f s).station = s.station := rfl

/-! ### setAllLines -/

@[simp] theorem setAllLines_pending (f : Line → LineRec → LineRec) (s : State) : (setAllLines f s).pending = s.pending := rfl
@[simp] theorem setAllLines_power (f : Line → LineRec → LineRec) (s : State) : (setAllLines f s).power = s.power := rfl
@[simp] theorem setAllLines_start (f : Line → LineRec → LineRec) (s : State) : (setAllLines f s).start = s.start := rfl
@[simp] theorem setAllLines_time (f : Line → LineRec → LineRec) (s : State) : (setAllLines f s).time = s.time := rfl
@[simp] theorem setAllLines_micros (f : Line → LineRec → LineRec) (s : State) : (setAllLines f s).micros = s.micros := rfl
@[simp] theorem setAllLines_prescale (f : Line → LineRec → LineRec) (s : State) : (setAllLines f s).prescale = s.prescale := rfl
@[simp] theorem setAllLines_loader (f : Line → LineRec → LineRec) (s : State) : (setAllLines f s).loader = s.loader := rfl
@[simp] theorem setAllLines_lines (f : Line → LineRec → LineRec) (s : State) : (setAllLines f s).lines = tabulate 12 fun l => f l (look s.lines l) := rfl
@[simp] theorem setAllLines_notices (f : Line → LineRec → LineRec) (s : State) : (setAllLines f s).notices = s.notices := rfl
@[simp] theorem setAllLines_share (f : Line → LineRec → LineRec) (s : State) : (setAllLines f s).share = s.share := rfl
@[simp] theorem setAllLines_store (f : Line → LineRec → LineRec) (s : State) : (setAllLines f s).store = s.store := rfl
@[simp] theorem setAllLines_sched (f : Line → LineRec → LineRec) (s : State) : (setAllLines f s).sched = s.sched := rfl
@[simp] theorem setAllLines_dist (f : Line → LineRec → LineRec) (s : State) : (setAllLines f s).dist = s.dist := rfl
@[simp] theorem setAllLines_sup (f : Line → LineRec → LineRec) (s : State) : (setAllLines f s).sup = s.sup := rfl
@[simp] theorem setAllLines_claims (f : Line → LineRec → LineRec) (s : State) : (setAllLines f s).claims = s.claims := rfl
@[simp] theorem setAllLines_seq (f : Line → LineRec → LineRec) (s : State) : (setAllLines f s).seq = s.seq := rfl
@[simp] theorem setAllLines_meas (f : Line → LineRec → LineRec) (s : State) : (setAllLines f s).meas = s.meas := rfl
@[simp] theorem setAllLines_mgmt (f : Line → LineRec → LineRec) (s : State) : (setAllLines f s).mgmt = s.mgmt := rfl
@[simp] theorem setAllLines_settings (f : Line → LineRec → LineRec) (s : State) : (setAllLines f s).settings = s.settings := rfl
@[simp] theorem setAllLines_station (f : Line → LineRec → LineRec) (s : State) : (setAllLines f s).station = s.station := rfl

/-! ### Lines and supervision, read back -/

@[simp] theorem lineOf_setLine_same (l : Line) (f : LineRec → LineRec) (s : State) :
    lineOf (setLine l f s) l = f (lineOf s l) := by
  simp [lineOf]

theorem lineOf_setLine_ne (l k : Line) (f : LineRec → LineRec) (s : State) (h : l ≠ k) :
    lineOf (setLine l f s) k = lineOf s k := by
  simp [lineOf, look_alter_ne _ _ _ _ h]

theorem lineOf_setLine (l k : Line) (f : LineRec → LineRec) (s : State) :
    lineOf (setLine l f s) k = if l = k then f (lineOf s k) else lineOf s k := by
  by_cases h : l = k
  · subst h; simp
  · simp [lineOf_setLine_ne l k f s h, h]

@[simp] theorem supOf_setSup_same (l : Line) (f : Supervision → Supervision) (s : State) :
    supOf (setSup l f s) l = f (supOf s l) := by
  simp [supOf]

theorem supOf_setSup_ne (l k : Line) (f : Supervision → Supervision) (s : State) (h : l ≠ k) :
    supOf (setSup l f s) k = supOf s k := by
  simp [supOf, look_alter_ne _ _ _ _ h]

@[simp] theorem lineOf_setAllLines (f : Line → LineRec → LineRec) (s : State) (l : Line) :
    lineOf (setAllLines f s) l = f l (lineOf s l) := by
  simp [lineOf]

@[simp] theorem lineOf_setNotices (f : Notices → Notices) (s : State) (k : Line) : lineOf (setNotices f s) k = lineOf s k := rfl
@[simp] theorem supOf_setNotices (f : Notices → Notices) (s : State) (k : Line) : supOf (setNotices f s) k = supOf s k := rfl
@[simp] theorem lineOf_setShare (f : Share → Share) (s : State) (k : Line) : lineOf (setShare f s) k = lineOf s k := rfl
@[simp] theorem supOf_setShare (f : Share → Share) (s : State) (k : Line) : supOf (setShare f s) k = supOf s k := rfl
@[simp] theorem lineOf_setStore (f : Store → Store) (s : State) (k : Line) : lineOf (setStore f s) k = lineOf s k := rfl
@[simp] theorem supOf_setStore (f : Store → Store) (s : State) (k : Line) : supOf (setStore f s) k = supOf s k := rfl
@[simp] theorem lineOf_setSched (f : Scheduler → Scheduler) (s : State) (k : Line) : lineOf (setSched f s) k = lineOf s k := rfl
@[simp] theorem supOf_setSched (f : Scheduler → Scheduler) (s : State) (k : Line) : supOf (setSched f s) k = supOf s k := rfl
@[simp] theorem lineOf_setDist (f : Distributor → Distributor) (s : State) (k : Line) : lineOf (setDist f s) k = lineOf s k := rfl
@[simp] theorem supOf_setDist (f : Distributor → Distributor) (s : State) (k : Line) : supOf (setDist f s) k = supOf s k := rfl
@[simp] theorem lineOf_setClaims (f : Claims → Claims) (s : State) (k : Line) : lineOf (setClaims f s) k = lineOf s k := rfl
@[simp] theorem supOf_setClaims (f : Claims → Claims) (s : State) (k : Line) : supOf (setClaims f s) k = supOf s k := rfl
@[simp] theorem lineOf_setSeq (f : Sequencer → Sequencer) (s : State) (k : Line) : lineOf (setSeq f s) k = lineOf s k := rfl
@[simp] theorem supOf_setSeq (f : Sequencer → Sequencer) (s : State) (k : Line) : supOf (setSeq f s) k = supOf s k := rfl
@[simp] theorem lineOf_setMeas (f : Measurement → Measurement) (s : State) (k : Line) : lineOf (setMeas f s) k = lineOf s k := rfl
@[simp] theorem supOf_setMeas (f : Measurement → Measurement) (s : State) (k : Line) : supOf (setMeas f s) k = supOf s k := rfl
@[simp] theorem lineOf_setMgmt (f : Management → Management) (s : State) (k : Line) : lineOf (setMgmt f s) k = lineOf s k := rfl
@[simp] theorem supOf_setMgmt (f : Management → Management) (s : State) (k : Line) : supOf (setMgmt f s) k = supOf s k := rfl
@[simp] theorem supOf_setLine (l : Line) (f : LineRec → LineRec) (s : State) (k : Line) : supOf (setLine l f s) k = supOf s k := rfl
@[simp] theorem lineOf_setSup (l : Line) (f : Supervision → Supervision) (s : State) (k : Line) : lineOf (setSup l f s) k = lineOf s k := rfl
@[simp] theorem supOf_setAllLines (f : Line → LineRec → LineRec) (s : State) (k : Line) : supOf (setAllLines f s) k = supOf s k := rfl

/-- Two tables that read alike are one. -/
theorem table_ext {α : Type} {n : Nat} {t u : Table α n} (h : ∀ i, look t i = look u i) : t = u := by
  apply Vector.ext
  intro i hi
  exact h ⟨i, hi⟩

/-- A change of one line is a change of all lines that leaves the others as they are. -/
theorem setLine_eq_setAllLines (l : Line) (f : LineRec → LineRec) (s : State) :
    setLine l f s = setAllLines (fun k x => if l = k then f x else x) s := by
  unfold setLine setAllLines
  congr 1
  apply table_ext
  intro i
  by_cases h : l = i
  · subst h; simp
  · simp [look_alter_ne _ _ _ _ h, h]

end Sys2Proof.Machine
end

