-- ==== Sys2Proof/Laws/Changes.lean ====
section
/-! SUPPORT. What a command can do, said once: a chain of elementary changes of one block each. Every function that
a command of a running part is made of is such a chain (Chains.lean), so a law that each elementary change keeps is
kept by every command. -/

namespace Sys2Proof.Machine

/-- A change of a line record that leaves its profile and everything that its service state is derived from as they
are, and its service state too. -/
structure KeepsInputs (x y : LineRec) : Prop where
  equipped : y.equipped = x.equipped
  profile : y.profile = x.profile
  barred : y.barred = x.barred
  sync : y.sync = x.sync
  test : y.test = .connected ↔ x.test = .connected
  service : y.service = x.service

/-- A record with its service state derived from its inputs (R7). -/
def derived (x : LineRec) : LineRec := { x with service := deriveService x }

/-- Memory after some bytes have been written. -/
inductive Written : List Host.Cell → List Host.Cell → Prop where
  | refl (m) : Written m m
  | byte {m m'} (a : Nat) (x : Byte) : Written m m' → Written m (memWrite m' a x)

/-- What one change of the scheduler does to levels, deficits and the station bucket. -/
structure SchedMoves (s : State) (sc : Scheduler) : Prop where
  levels : ∀ e, look sc.levels e = look s.sched.levels e ∨
    look sc.levels e = refill (entryDepth s e) (look s.sched.levels e) ∨
    (∃ n : Nat, look sc.levels e = debit n (look s.sched.levels e)) ∨
    (∃ l, e = entryOf l ∧ look sc.levels e = ((lineOf s l).profile.burst : Int))
  deficits : ∀ e, look sc.deficits e ≤ look s.sched.deficits e ∨
    look sc.deficits e = min (look s.sched.deficits e + quantumOf s e) (quantumOf s e + Config.maxFrame)
  station : sc.stationLevel = s.sched.stationLevel ∨
    sc.stationLevel = refill s.sched.stationDepth s.sched.stationLevel ∨
    (∃ n : Nat, sc.stationLevel = debit n s.sched.stationLevel)
  depth : sc.stationDepth = s.sched.stationDepth

/-- A value within its quantity's clamp (10.4). -/
def InClamp (q : Quantity) (v : Int) : Prop := (quantityRange q).1 ≤ v ∧ v ≤ (quantityRange q).2

/-- The kinds of change that a chain may hold, beyond those that every chain may hold: the share unit's values,
entries of the line map, slots of step memory, entries of the results table, the barred flags, the restart wait,
what the notice interface keeps beside its outgoing queue, and the holder view. -/
structure Scope where
  share   : Bool
  map     : Bool
  steps   : Bool
  results : Bool
  barred  : Bool
  wait    : Bool
  bus     : Bool
  view    : Bool
  deriving DecidableEq, Repr

/-- The scope of a chain with none of these. -/
def Scope.none : Scope := ⟨false, false, false, false, false, false, false, false⟩

/-- What may be put at an index of the line map (R94, R96): nothing, or an entry whose tag is neither 0 nor the
management tag, and which no entry holds or the index itself held. -/
def Placeable (s : State) (x : MapIndex) (e : Option MapEntry) : Prop :=
  ∀ m ∈ e, m.tag ≠ 0 ∧ m.tag ≠ s.settings.mgmtTag ∧
    ((∀ y, ∀ n ∈ look s.dist.map y, n.tag ≠ m.tag) ∨ ∃ n ∈ look s.dist.map x, n.tag = m.tag)

/-- What the asking of a notice leaves alone of the notice interface: all but the queue, and the attempt and the
passed gap while the gap has not passed. -/
structure BusKept (x y : Notices) : Prop where
  other : { y with queue := [], attempt := none, gapPassed := false } =
    { x with queue := [], attempt := none, gapPassed := false }
  attempt : x.gapPassed = false → y.attempt = x.attempt
  gap : x.gapPassed = false → y.gapPassed = false

/-- A change of the claim unit that leaves the holder view alone. -/
structure ViewKept (x y : Claims) : Prop where
  holder : y.holder = x.holder
  expiry : y.expiry = x.expiry
  queue : y.queue = x.queue
  turn : y.turnFrom = x.turnFrom
  present : y.present = x.present

/-- What the rules do to the holder view (R123 to R128, R132). -/
inductive ViewMove (time : Nat) (own : StationNo) (cl : Claims) : Claims → Prop where
  | claim (k p h) : ViewMove time own cl (withTurn time (viewClaim k p h) cl)
  | take (k h) : ViewMove time own cl (withTurn time (viewTake time k h) cl)
  | held (k r) : ViewMove time own cl (withTurn time (viewHeld time k r) cl)
  | release (k) : ViewMove time own cl (withTurn time (viewRelease k) cl)
  | status (k b) : ViewMove time own cl (withTurn time (viewStatus k b) cl)
  | gone (k) : ViewMove time own cl (withTurn time (viewGone k) cl)
  | ended : ViewMove time own cl (withTurn time endHold cl)
  | endedOwn (k) : ViewMove time own cl (withTurn time (endOwnHold k) cl)
  | lapse : ViewMove time own cl (withTurn time viewLapse cl)
  | present (k) : ViewMove time own cl { cl with present := put cl.present k true }
  | absent (k) (h : k ≠ own) :
    ViewMove time own cl (withTurn time (viewGone k) { cl with present := put cl.present k false })

/-- One elementary change within a scope. -/
inductive Change (sc : Scope) : State → State → Prop where
  | lines (F : Line → LineRec → LineRec) (h : ∀ l x, KeepsInputs x (F l x)) (s) : Change sc s (setAllLines F s)
  | input (l : Line) (f : LineRec → LineRec) (h : ∀ x, (f x).equipped = x.equipped ∧ (f x).profile = x.profile)
    (hb : sc.barred = true ∨ ∀ x, (f x).barred = x.barred) (s) : Change sc s (setLine l (fun x => derived (f x)) s)
  | sup (x) (s : State) : Change sc s { s with sup := x }
  | notices (f : Notices → Notices) (s : State) (h : sc.bus = true ∨ BusKept s.notices (f s.notices)) :
    Change sc s (setNotices f s)
  | claims (f : Claims → Claims) (h : ∀ cl, ViewKept cl (f cl)) (s) : Change sc s (setClaims f s)
  | view (f : Claims → Claims) (s : State) (hs : sc.view = true)
    (h : ViewMove s.time s.station s.claims (f s.claims)) : Change sc s (setClaims f s)
  | dist (f : Distributor → Distributor) (s : State) (h : (f s.dist).map = s.dist.map) : Change sc s (setDist f s)
  | map (x : MapIndex) (e : Option MapEntry) (s : State) (hs : sc.map = true) (h : Placeable s x e) :
    Change sc s (setDist (fun d => { d with map := put d.map x e }) s)
  | share (f : Share → Share) (hs : sc.share = true)
    (h : ∀ sh, (f sh).share = sh.share ∧ (f sh).allowance = sh.allowance ∧ (f sh).rise = sh.rise) (s) :
    Change sc s (setShare f s)
  | recompute (hs : sc.share = true) (s) : Change sc s (recompute s)
  | riseCheck (hs : sc.share = true) (s) : Change sc s (takeRiseCheck s)
  | store (f : Store → Store)
    (h : ∀ st, Written st.memory (f st).memory ∧ (f st).um.length ≤ st.um.length) (s) : Change sc s (setStore f s)
  | enterUm (bytes : List Byte) (w : Bool) (s : State) (h : fitsUm s.store bytes = true) :
    Change sc s (setStore (enterUm s.time bytes w) s)
  | report (r : Report) (s : State) (h : s.mgmt.reports.length < Config.reportFrames) :
    Change sc s (setMgmt (fun m => { m with reports := m.reports ++ [r] }) s)
  | mgmt (f : Management → Management) (s : State) (h : (f s.mgmt).reports.length ≤ s.mgmt.reports.length)
    (hw : sc.wait = true ∨ (f s.mgmt).wait = s.mgmt.wait) : Change sc s (setMgmt f s)
  | sched (f : Scheduler → Scheduler) (s) (h : SchedMoves s (f s.sched)) : Change sc s (setSched f s)
  | seq (f : Sequencer → Sequencer) (s : State)
    (h : SoundRuns s.seq.queue → SoundRuns (f s.seq).queue)
    (hs : sc.steps = true ∨ (f s.seq).steps = s.seq.steps) : Change sc s (setSeq f s)
  | meas (f : Measurement → Measurement) (h : ∀ m, (f m).results = m.results) (s) : Change sc s (setMeas f s)
  | result (l : Line) (q : Quantity) (r : Result) (hs : sc.results = true) (h : InClamp q r.value) (s) :
    Change sc s (setMeas (fun m =>
      { m with results := alter m.results l fun row => put row (quantityIndex q) (some r) }) s)

/-- A chain of elementary changes within a scope. -/
abbrev Leads (sc : Scope) : State → State → Prop := Relation.ReflTransGen (Change sc)

/-! ### What no elementary change touches -/

theorem changeAllowance_other (a : Nat) (s : State) :
    (changeAllowance a s).pending = s.pending ∧ (changeAllowance a s).power = s.power ∧
    (changeAllowance a s).start = s.start ∧ (changeAllowance a s).time = s.time ∧
    (changeAllowance a s).micros = s.micros ∧ (changeAllowance a s).prescale = s.prescale ∧
    (changeAllowance a s).loader = s.loader := by
  unfold changeAllowance; split <;> simp

theorem applyShare_other (v : Nat) (s : State) :
    (applyShare v s).pending = s.pending ∧ (applyShare v s).power = s.power ∧ (applyShare v s).start = s.start ∧
    (applyShare v s).time = s.time ∧ (applyShare v s).micros = s.micros ∧ (applyShare v s).prescale = s.prescale ∧
    (applyShare v s).loader = s.loader := by
  unfold applyShare; split <;> simp [changeAllowance_other]

theorem recompute_other (s : State) :
    (recompute s).pending = s.pending ∧ (recompute s).power = s.power ∧ (recompute s).start = s.start ∧
    (recompute s).time = s.time ∧ (recompute s).micros = s.micros ∧ (recompute s).prescale = s.prescale ∧
    (recompute s).loader = s.loader := by
  unfold recompute; simp [applyShare_other]

theorem takeRiseCheck_other (s : State) :
    (takeRiseCheck s).pending = s.pending ∧ (takeRiseCheck s).power = s.power ∧
    (takeRiseCheck s).start = s.start ∧ (takeRiseCheck s).time = s.time ∧ (takeRiseCheck s).micros = s.micros ∧
    (takeRiseCheck s).prescale = s.prescale ∧ (takeRiseCheck s).loader = s.loader := by
  unfold takeRiseCheck; split <;> simp [changeAllowance_other]

/-- The queue of commands, the clocks, the power state, the kind of the last start and the settings stand through
every elementary change. -/
theorem Change.other {sc : Scope} {s t : State} (h : Change sc s t) :
    t.pending = s.pending ∧ t.power = s.power ∧ t.start = s.start ∧ t.time = s.time ∧ t.micros = s.micros ∧
    t.prescale = s.prescale ∧ t.loader = s.loader := by
  cases h with
  | recompute => exact recompute_other s
  | riseCheck => exact takeRiseCheck_other s
  | _ => simp

theorem Leads.other {sc : Scope} {s t : State} (h : Leads sc s t) :
    t.pending = s.pending ∧ t.power = s.power ∧ t.start = s.start ∧ t.time = s.time ∧ t.micros = s.micros ∧
    t.prescale = s.prescale ∧ t.loader = s.loader := by
  induction h with
  | refl => simp
  | tail _ c ih =>
    have := c.other
    simp_all

theorem Leads.pending {sc : Scope} {s t : State} (h : Leads sc s t) : t.pending = s.pending := h.other.1
theorem Leads.power {sc : Scope} {s t : State} (h : Leads sc s t) : t.power = s.power := h.other.2.1
theorem Leads.start {sc : Scope} {s t : State} (h : Leads sc s t) : t.start = s.start := h.other.2.2.1
theorem Leads.time {sc : Scope} {s t : State} (h : Leads sc s t) : t.time = s.time := h.other.2.2.2.1
theorem Leads.loader {sc : Scope} {s t : State} (h : Leads sc s t) : t.loader = s.loader := h.other.2.2.2.2.2.2

theorem BusKept.trans {x y z : Notices} (h : BusKept x y) (k : BusKept y z) : BusKept x z :=
  ⟨k.other.trans h.other, fun g => (k.attempt (h.gap g)).trans (h.attempt g), fun g => k.gap (h.gap g)⟩

/-- An elementary change with neither the bus nor the share in its scope does to the notice interface only what the asking
of a notice does. -/
theorem Change.busKept {sc : Scope} (hb : sc.bus = false) (hs : sc.share = false) {s t : State} (h : Change sc s t) :
    BusKept s.notices t.notices := by
  cases h with
  | notices f s h => exact h.resolve_left (by simp [hb])
  | recompute h => simp [hs] at h
  | riseCheck h => simp [hs] at h
  | _ => exact ⟨rfl, fun _ => rfl, id⟩

/-- So does a chain: what follows a contention loss, the handling of a discarded or absorbed notice, leaves the bus as the
loss has left it. -/
theorem Leads.busKept {sc : Scope} (hb : sc.bus = false) (hs : sc.share = false) {s t : State} (h : Leads sc s t) :
    BusKept s.notices t.notices := by
  induction h with
  | refl => exact ⟨rfl, fun _ => rfl, id⟩
  | tail _ c ih => exact ih.trans (c.busKept hb hs)

/-- A law that every elementary change keeps is kept by every chain. -/
theorem Leads.keeps {sc : Scope} {P : State → Prop} (hP : ∀ s t, Change sc s t → P s → P t) {s t : State}
    (h : Leads sc s t) (hs : P s) :
    P t := by
  induction h with
  | refl => exact hs
  | tail _ c ih => exact hP _ _ c ih

end Sys2Proof.Machine
end

