-- ==== Sys2Proof/Laws/Chains.lean ====
section
/-! SUPPORT. Each function that the commands of a running part are made of is a chain of elementary changes. The
lemmas are stated for the end of a chain, so that they are applied from the outermost function inward. -/

namespace Sys2Proof.Machine

variable {sc : Scope} {s t : State}

/-! ### The updates of one block -/

theorem leads_bus (hs : sc.bus = true) (f) (h : Leads sc s t) : Leads sc s (setNotices f t) :=
  h.tail (.notices f t (.inl hs))

theorem leads_notices (f : Notices → Notices) (hf : BusKept t.notices (f t.notices)) (h : Leads sc s t) :
    Leads sc s (setNotices f t) := h.tail (.notices f t (.inr hf))

theorem leads_claims (f : Claims → Claims) (hf : ∀ cl, ViewKept cl (f cl)) (h : Leads sc s t) :
    Leads sc s (setClaims f t) := h.tail (.claims f hf t)

theorem leads_view (hs : sc.view = true) (f : Claims → Claims)
    (hf : ViewMove t.time t.station t.claims (f t.claims)) (h : Leads sc s t) : Leads sc s (setClaims f t) :=
  h.tail (.view f t hs hf)

theorem leads_dist (f : Distributor → Distributor) (h : Leads sc s t)
    (hm : (f t.dist).map = t.dist.map := by first | (dsimp only; done) | rfl) : Leads sc s (setDist f t) := h.tail (.dist f t hm)
theorem leads_sup (l f) (h : Leads sc s t) : Leads sc s (setSup l f t) := h.tail (.sup _ t)

theorem leads_allLines (F : Line → LineRec → LineRec) (hF : ∀ l x, KeepsInputs x (F l x)) (h : Leads sc s t) :
    Leads sc s (setAllLines F t) := h.tail (.lines F hF t)

theorem leads_line (l : Line) (f : LineRec → LineRec) (hf : ∀ x, KeepsInputs x (f x)) (h : Leads sc s t) :
    Leads sc s (setLine l f t) := by
  rw [setLine_eq_setAllLines]
  refine leads_allLines _ ?_ h
  intro k x
  by_cases hk : l = k
  · simp [hk, hf]
  · simp only [hk, if_false]; exact ⟨rfl, rfl, rfl, rfl, Iff.rfl, rfl⟩

theorem leads_input (l : Line) (f : LineRec → LineRec)
    (hf : ∀ x, (f x).equipped = x.equipped ∧ (f x).profile = x.profile)
    (hb : sc.barred = true ∨ ∀ x, (f x).barred = x.barred) (h : Leads sc s t) :
    Leads sc s (setLine l (fun x => derived (f x)) t) := h.tail (.input l f hf hb t)

theorem leads_share (hs : sc.share = true) (f : Share → Share)
    (hf : ∀ sh, (f sh).share = sh.share ∧ (f sh).allowance = sh.allowance ∧ (f sh).rise = sh.rise) (h : Leads sc s t) :
    Leads sc s (setShare f t) := h.tail (.share f hs hf t)

theorem leads_recompute (hs : sc.share = true) (h : Leads sc s t) : Leads sc s (recompute t) :=
  h.tail (.recompute hs t)

theorem leads_riseCheck (hs : sc.share = true) (h : Leads sc s t) : Leads sc s (takeRiseCheck t) :=
  h.tail (.riseCheck hs t)

theorem leads_store (f : Store → Store)
    (hf : ∀ st, Written st.memory (f st).memory ∧ (f st).um.length ≤ st.um.length) (h : Leads sc s t) :
    Leads sc s (setStore f t) := h.tail (.store f hf t)

theorem leads_mgmt (f : Management → Management) (hf : (f t.mgmt).reports.length ≤ t.mgmt.reports.length)
    (h : Leads sc s t) (hw : (f t.mgmt).wait = t.mgmt.wait := by first | (dsimp only; done) | rfl) :
    Leads sc s (setMgmt f t) := h.tail (.mgmt f t hf (.inr hw))

theorem leads_sched (f : Scheduler → Scheduler) (hf : SchedMoves t (f t.sched)) (h : Leads sc s t) :
    Leads sc s (setSched f t) := h.tail (.sched f t hf)

theorem leads_seq (f : Sequencer → Sequencer)
    (hf : SoundRuns t.seq.queue → SoundRuns (f t.seq).queue) (h : Leads sc s t)
    (hk : (f t.seq).steps = t.seq.steps := by first | (dsimp only; done) | rfl) :
    Leads sc s (setSeq f t) := h.tail (.seq f t hf (.inr hk))

theorem leads_meas (f : Measurement → Measurement) (hf : ∀ m, (f m).results = m.results) (h : Leads sc s t) :
    Leads sc s (setMeas f t) := h.tail (.meas f hf t)

/-! ### Stores that write no byte -/

theorem dropCell_bytes (st : Store) (c : CellNo) : (dropCell st c).memory = st.memory ∧ (dropCell st c).um = st.um :=
  ⟨rfl, rfl⟩

theorem dropHolder_bytes (cells : List CellNo) (st : Store) :
    (dropHolder cells st).memory = st.memory ∧ (dropHolder cells st).um = st.um := by
  induction cells generalizing st with
  | nil => exact ⟨rfl, rfl⟩
  | cons c cs ih =>
    have h := ih (dropCell st c)
    simpa [dropHolder, dropCell_bytes] using h

theorem dropEntries_bytes (es : List Entry) (st : Store) :
    (dropEntries es st).memory = st.memory ∧ (dropEntries es st).um = st.um := by
  induction es generalizing st with
  | nil => exact ⟨rfl, rfl⟩
  | cons e es ih =>
    have h := ih (dropHolder e.cells st)
    have k := dropHolder_bytes e.cells st
    simp only [dropEntries, List.foldl_cons] at h ⊢
    exact ⟨h.1.trans k.1, h.2.trans k.2⟩

theorem Written.of_eq {m m' : List Host.Cell} (h : m' = m) : Written m m' := h ▸ Written.refl m

theorem writeFrame_written (cells : List CellNo) (m m' : List Host.Cell) (h : Written m m') (k : Nat) (xs : List Byte) :
    Written m (writeFrame cells m' k xs) := by
  induction xs generalizing m' k with
  | nil => exact h
  | cons x xs ih =>
    refine ih _ ?_ (k + 1)
    cases frameAddress cells k with
    | none => exact h
    | some a => exact .byte a x h

/-! ### Reports, references and responses (R63, R164, R167) -/

theorem leads_offerUpTo (n : Nat) (h : Leads sc s t) : Leads sc s (offerUpTo n t) := by
  induction n generalizing t with
  | zero => exact h
  | succ n ih =>
    unfold offerUpTo
    split
    · exact h
    · next r rest hr =>
      split
      · next hf =>
        refine ih (leads_mgmt _ ?_ (h.tail (.enterUm _ _ t hf)))
        simp [hr]
      · exact h

theorem leads_offer (h : Leads sc s t) : Leads sc s (offer t) := leads_offerUpTo _ h

theorem leads_queueReport (body : ReportBody) (h : Leads sc s t) : Leads sc s (queueReport body t) := by
  unfold queueReport
  split
  · exact leads_mgmt _ (Nat.le_refl _) h
  · next hl =>
    have hr := h.tail (.report ⟨t.time, body⟩ t (Nat.lt_of_not_le hl))
    dsimp only
    split
    · exact leads_offer hr
    · exact hr

theorem leads_releaseEntries (es : List Entry) (h : Leads sc s t) : Leads sc s (releaseEntries es t) :=
  leads_offer (leads_store _ (fun st => by simp [dropEntries_bytes, Written.refl]) h)

theorem leads_releaseChain (cells : List CellNo) (h : Leads sc s t) : Leads sc s (releaseChain cells t) :=
  leads_offer (leads_store _ (fun st => by simp [dropHolder_bytes, Written.refl]) h)

theorem leads_respond (code num : Byte) (a : Answer) (data : List Byte) (w : Bool) (h : Leads sc s t) :
    Leads sc s (respond code num a data w t) := by
  unfold respond
  refine leads_offer ?_
  split
  · next hf => exact h.tail (.enterUm _ w t hf)
  · exact leads_mgmt _ (Nat.le_refl _) h

/-! ### The scheduler (5.3 to 5.5) -/

/-- A change of the scheduler that leaves levels, deficits and the station bucket alone. -/
theorem SchedMoves.still (s : State) (sc : Scheduler) (h1 : sc.levels = s.sched.levels)
    (h2 : sc.deficits = s.sched.deficits) (h3 : sc.stationLevel = s.sched.stationLevel)
    (h4 : sc.stationDepth = s.sched.stationDepth) : SchedMoves s sc :=
  ⟨fun e => .inl (by rw [h1]), fun e => .inl (by rw [h2]), .inl h3, h4⟩

theorem putQueue_bytes (e : RoundEntry) (q : List Entry) (st : Store)
    (h : lineOfEntry e = none → q.length ≤ st.um.length) :
    Written st.memory (putQueue e q st).memory ∧ (putQueue e q st).um.length ≤ st.um.length := by
  unfold putQueue
  split
  · exact ⟨.refl _, Nat.le_refl _⟩
  · next hn => exact ⟨.refl _, h hn⟩

theorem lookAt_length (time sojourn : Nat) (mapped : Bool) (q : List Entry) :
    (lookAt time sojourn mapped q).kept.length ≤ q.length := by
  induction q with
  | nil => simp [lookAt]
  | cons e es ih =>
    unfold lookAt
    split
    · simp; omega
    · split
      · simp; omega
      · simp

theorem leads_countLook (e : RoundEntry) (r : Looked) (h : Leads sc s t) : Leads sc s (countLook e r t) := by
  unfold countLook
  split
  · exact leads_line _ _ (fun x => ⟨rfl, rfl, rfl, rfl, Iff.rfl, rfl⟩) h
  · split
    · exact leads_mgmt _ (Nat.le_refl _) h
    · exact h

/-- A change of the store whose side condition is about this store only. -/
theorem leads_storeAt (f : Store → Store) (st' : Store) (he : f t.store = st')
    (hf : Written t.store.memory st'.memory ∧ st'.um.length ≤ t.store.um.length) (h : Leads sc s t) :
    Leads sc s (setStore f t) := by
  have : setStore f t = setStore (fun st => if st = t.store then st' else st) t := by simp [setStore, he]
  rw [this]
  refine leads_store _ (fun st => ?_) h
  by_cases hs : st = t.store
  · simp only [hs, if_true]; exact hf
  · simp only [hs, if_false]; exact ⟨.refl _, Nat.le_refl _⟩

theorem leads_putQueue (e : RoundEntry) (q : List Entry) (hq : q.length ≤ (queueOf t e).length) (h : Leads sc s t) :
    Leads sc s (setStore (putQueue e q) t) :=
  leads_storeAt _ _ rfl (putQueue_bytes e q t.store fun hn => by simpa [queueOf, hn] using hq) h

theorem leads_lookQueue (e : RoundEntry) (h : Leads sc s t) : Leads sc s (lookQueue e t) := by
  unfold lookQueue
  refine leads_releaseEntries _ (leads_countLook _ _ (leads_putQueue _ _ ?_ h))
  exact lookAt_length _ _ _ _

theorem leads_endTurn (c : Bool) (h : Leads sc s t) : Leads sc s (endTurn c t) := by
  refine leads_sched _ ?_ h
  refine ⟨fun e => .inl rfl, fun e => .inl ?_, .inl rfl, rfl⟩
  cases c
  · exact Nat.le_refl _
  · simp only [look_put, if_true]; split
    · exact Nat.zero_le _
    · exact Nat.le_refl _

theorem leads_holdTurn (x : Turn) (h : Leads sc s t) : Leads sc s (holdTurn x t) :=
  leads_sched _ (.still _ _ rfl rfl rfl rfl) h

theorem leads_startFrame (e : RoundEntry) (x : Entry) (rest : List Entry) (hq : rest.length ≤ (queueOf t e).length)
    (h : Leads sc s t) : Leads sc s (startFrame e x rest t) := by
  refine leads_sched _ ?_ (leads_putQueue _ _ hq h)
  refine ⟨fun k => ?_, fun k => .inl ?_, .inr (.inr ⟨x.length, rfl⟩), rfl⟩
  · simp only [look_alter]; split
    · next hk => subst hk; exact .inr (.inr (.inl ⟨x.length, rfl⟩))
    · exact .inl rfl
  · simp only [look_alter]; split
    · next hk => subst hk; exact Nat.sub_le _ _
    · exact Nat.le_refl _

theorem leads_startOpportunity (h : Leads sc s t) : Leads sc s (startOpportunity t) := by
  unfold startOpportunity
  have h1 := leads_lookQueue t.sched.pointer h
  dsimp only
  split
  · exact leads_endTurn _ h1
  · split
    · exact leads_endTurn _ h1
    · next x rest hq =>
      split
      · exact leads_endTurn _ h1
      · split
        · exact leads_holdTurn _ h1
        · split
          · exact leads_holdTurn _ h1
          · refine leads_offer ?_
            have h2 := leads_startFrame t.sched.pointer x rest (by rw [hq]; simp) h1
            split
            · exact leads_endTurn _ h2
            · exact leads_holdTurn _ h2

theorem leads_takeTurn (e : RoundEntry) (h : Leads sc s t) : Leads sc s (takeTurn e t) := by
  refine leads_sched _ ⟨fun k => .inl rfl, fun k => ?_, .inl rfl, rfl⟩ h
  simp only [look_alter]; split
  · next hk => subst hk; exact .inr rfl
  · exact .inl (Nat.le_refl _)

theorem leads_searchUpTo (n : Nat) (h : Leads sc s t) : Leads sc s (searchUpTo n t) := by
  induction n generalizing t with
  | zero => exact h
  | succ n ih =>
    unfold searchUpTo
    split
    · split
      · exact h
      · exact ih (leads_startOpportunity (leads_takeTurn _ h))
    · exact h

theorem leads_settle (h : Leads sc s t) : Leads sc s (settle t) := by
  unfold settle; split
  · exact leads_searchUpTo _ h
  · exact h

/-- An expiry acts where its timer is due, and nothing happens where it is not (assumption 4). -/
theorem leads_whenDue (due : State → Bool) {f : State → State} (hf : due t = true → Leads sc s (f t)) (h : Leads sc s t) :
    Leads sc s (whenDue due f t) := by
  unfold whenDue; split
  · next hd => exact hf hd
  · exact h

theorem leads_live (f : State → State) (hf : Leads sc s (f s)) : Leads sc s (live f s) := by
  unfold live; split
  · exact leads_settle hf
  · exact .refl

end Sys2Proof.Machine
end

