-- ==== Sys2Proof/Laws/ChainsLines.lean ====
section
/-! SUPPORT. The line table and line supervision as chains of elementary changes. -/

namespace Sys2Proof.Machine

variable {sc : Scope} {s t : State}

/-! ### Two updates of one line -/

theorem setLine_setLine (l : Line) (f g : LineRec → LineRec) (s : State) :
    setLine l f (setLine l g s) = setLine l (fun x => f (g x)) s := by
  unfold setLine
  congr 1
  apply table_ext
  intro i
  by_cases h : l = i
  · subst h; simp
  · simp [look_alter_ne _ _ _ _ h]

theorem setLine_congr (l : Line) (f g : LineRec → LineRec) (s : State) (h : f (lineOf s l) = g (lineOf s l)) :
    setLine l f s = setLine l g s := by
  unfold setLine
  congr 1
  apply table_ext
  intro i
  by_cases hi : l = i
  · subst hi; simpa [lineOf] using h
  · simp [look_alter_ne _ _ _ _ hi]

/-- A line's record and its supervision are changed apart. -/
theorem setSup_setLine (l k : Line) (g : Supervision → Supervision) (f : LineRec → LineRec) (s : State) :
    setSup l g (setLine k f s) = setLine k f (setSup l g s) := rfl

/-- The derivation does not read the service state it derives. -/
@[simp] theorem deriveService_service (x : LineRec) (v : Service) :
    deriveService { x with service := v } = deriveService x := rfl

/-! ### Leaving service (R9) -/

theorem leads_followTimer (l : Line) (h : Leads sc s t) : Leads sc s (followTimer l t) := leads_sup _ _ h

theorem leads_countDrop (l : Line) (h : Leads sc s t) : Leads sc s (countDrop l t) :=
  leads_line _ _ (fun _ => ⟨rfl, rfl, rfl, rfl, Iff.rfl, rfl⟩) h

/-- A change of the store that touches neither bytes nor UM. -/
theorem leads_storeOther (f : Store → Store) (hf : ∀ st, (f st).memory = st.memory ∧ (f st).um = st.um)
    (h : Leads sc s t) : Leads sc s (setStore f t) :=
  leads_store _ (fun st => ⟨.of_eq (hf st).1, by rw [(hf st).2]⟩) h

theorem leads_countFlood (h : Leads sc s t) : Leads sc s (countFlood t) := leads_storeOther _ (fun _ => ⟨rfl, rfl⟩) h

theorem leads_flushLine (l : Line) (h : Leads sc s t) : Leads sc s (flushLine l t) :=
  leads_releaseEntries _ (leads_line _ _ (fun _ => ⟨rfl, rfl, rfl, rfl, Iff.rfl, rfl⟩)
    (leads_storeOther _ (fun _ => ⟨rfl, rfl⟩) h))

theorem leads_dropLineRx (l : Line) (h : Leads sc s t) : Leads sc s (dropLineRx l t) := by
  unfold dropLineRx; split
  · exact leads_releaseChain _ (leads_countDrop _ (leads_storeOther _ (fun _ => ⟨rfl, rfl⟩) h))
  · exact h

theorem leads_dropUplinkRx (l : Line) (h : Leads sc s t) : Leads sc s (dropUplinkRx l t) := by
  unfold dropUplinkRx; split
  · split
    · exact leads_releaseChain _ (leads_countDrop _ (leads_storeOther _ (fun _ => ⟨rfl, rfl⟩) h))
    · exact h
  · split
    · dsimp only; split
      · exact leads_releaseChain _ (leads_countFlood (leads_countDrop _ (leads_storeOther _ (fun _ => ⟨rfl, rfl⟩) h)))
      · exact leads_countDrop _ (leads_storeOther _ (fun _ => ⟨rfl, rfl⟩) h)
    · exact h
  · exact h

theorem leads_abandonFrame (l : Line) (h : Leads sc s t) : Leads sc s (abandonFrame l t) := by
  unfold abandonFrame; split
  · exact leads_releaseChain _ (leads_line _ _ (fun _ => ⟨rfl, rfl, rfl, rfl, Iff.rfl, rfl⟩) (leads_dist _ h))
  · exact h

theorem leads_stopLine (l : Line) (h : Leads sc s t) : Leads sc s (stopLine l t) := by
  unfold stopLine
  have h1 := leads_sched (fun sc =>
    { sc with
      deficits := put sc.deficits (entryOf l) 0
      counters := alter sc.counters (entryOf l) stopCounter
      levels := put sc.levels (entryOf l) ((lineOf t l).profile.burst : Int) }) (t := t) (by
    refine ⟨fun e => ?_, fun e => .inl ?_, .inl rfl, rfl⟩
    · simp only [look_put]; split
      · next he => exact .inr (.inr (.inr ⟨l, he.symm, rfl⟩))
      · exact .inl rfl
    · simp only [look_put]; split
      · exact Nat.zero_le _
      · exact Nat.le_refl _) h
  dsimp only
  split
  · exact leads_endTurn _ h1
  · exact h1

theorem leads_leaveService (l : Line) (h : Leads sc s t) : Leads sc s (leaveService l t) :=
  leads_line _ _ (fun _ => ⟨rfl, rfl, rfl, rfl, Iff.rfl, rfl⟩)
    (leads_stopLine _ (leads_abandonFrame _ (leads_dropUplinkRx _ (leads_dropLineRx _ (leads_flushLine _ h)))))

theorem leads_paceLine (l : Line) (v : Service) (h : Leads sc s t) : Leads sc s (paceLine l v t) :=
  leads_sched _ (.still _ _ rfl rfl rfl rfl) h

theorem leads_serviceEffects (l : Line) (old new : Service) (h : Leads sc s t) : Leads sc s (serviceEffects l old new t) := by
  unfold serviceEffects
  have h1 : Leads sc s (if inService old && !inService new then leaveService l t else t) := by
    split
    · exact leads_leaveService _ h
    · exact h
  have h2 : Leads sc s (if new = .testing then
      setSup l suspendSup (if inService old && !inService new then leaveService l t else t)
      else (if inService old && !inService new then leaveService l t else t)) := by
    split
    · exact leads_sup _ _ h1
    · exact h1
  dsimp only
  split
  · exact leads_paceLine _ _ h2
  · exact h2

/-! ### Input changes (R7) -/

theorem leads_rederive (l : Line) (f : LineRec → LineRec)
    (hf : ∀ x, (f x).equipped = x.equipped ∧ (f x).profile = x.profile)
    (hb : sc.barred = true ∨ ∀ x, (f x).barred = x.barred) (h : Leads sc s t) :
    Leads sc s (rederive l (setLine l f t)) := by
  have hi := leads_input l f hf hb h
  unfold rederive
  dsimp only
  split
  · next he =>
    rw [setLine_congr l f (fun x => derived (f x)) t]
    · exact hi
    · simp only [lineOf_setLine_same] at he
      simp [derived, he]
  · rw [setLine_setLine]
    have : setLine l (fun x => { f x with service := deriveService (lineOf (setLine l f t) l) }) t =
        setLine l (fun x => derived (f x)) t := by
      apply setLine_congr; simp [derived]
    rw [this]
    exact leads_queueReport _ (leads_serviceEffects _ _ _ hi)

theorem leads_setBarred (hs : sc.barred = true) (l : Line) (b : Bool) (h : Leads sc s t) :
    Leads sc s (setBarred l b t) := leads_rederive l _ (fun _ => ⟨rfl, rfl⟩) (.inl hs) h

theorem leads_setSync (l : Line) (x : Sync) (h : Leads sc s t) : Leads sc s (setSync l x t) := by
  unfold setSync
  dsimp only
  split
  · exact h
  · refine leads_followTimer _ ?_
    split
    · rw [setSup_setLine]
      exact leads_rederive l _ (fun _ => ⟨rfl, rfl⟩) (.inr fun _ => rfl) (leads_sup l _ h)
    · exact leads_rederive l _ (fun _ => ⟨rfl, rfl⟩) (.inr fun _ => rfl) h

theorem leads_setTest (l : Line) (x : TestCond) (h : Leads sc s t) : Leads sc s (setTest l x t) := by
  unfold setTest
  dsimp only
  split
  · exact h
  · refine leads_followTimer _ ?_
    split
    · rw [setLine_setLine]
      exact leads_rederive l _ (fun _ => ⟨rfl, rfl⟩) (.inr fun _ => rfl) (leads_sup _ _ h)
    · exact leads_rederive l _ (fun _ => ⟨rfl, rfl⟩) (.inr fun _ => rfl) h

/-! ### Supervision (chapter 7) -/

theorem leads_alignerLoss (l : Line) (h : Leads sc s t) : Leads sc s (alignerLoss l t) :=
  leads_sup _ _ (leads_line _ _ (fun _ => ⟨rfl, rfl, rfl, rfl, Iff.rfl, rfl⟩) h)

theorem leads_alarmIfChanged (l : Line) (a : Alarm) (o n : Bool) (h : Leads sc s t) :
    Leads sc s (alarmIfChanged l a o n t) := by
  unfold alarmIfChanged; split
  · exact h
  · exact leads_queueReport _ h

theorem leads_debounceFlags (l : Line) (w : BitVec 48) (h : Leads sc s t) : Leads sc s (debounceFlags l w t) :=
  leads_followTimer _ (leads_alarmIfChanged _ _ _ _ (leads_alarmIfChanged _ _ _ _
    (leads_alarmIfChanged _ _ _ _ (leads_sup _ _ h))))

theorem leads_decideSync (l : Line) (h : Leads sc s t) : Leads sc s (decideSync l t) := by
  unfold decideSync
  dsimp only
  split
  · exact leads_setSync _ _ h
  · split
    · exact leads_setSync _ _ h
    · exact h

theorem leads_useReport (l : Line) (w : BitVec 48) (h : Leads sc s t) : Leads sc s (useReport l w t) :=
  leads_decideSync _ (leads_debounceFlags _ _ (leads_line _ _ (fun _ => ⟨rfl, rfl, rfl, rfl, Iff.rfl, rfl⟩)
    (leads_sup _ _ h)))

theorem leads_closeSecond (l : Line) (d : Second) (h : Leads sc s t) : Leads sc s (closeSecond l d t) :=
  leads_sup _ _ (leads_line _ _ (fun _ => ⟨rfl, rfl, rfl, rfl, Iff.rfl, rfl⟩) h)

theorem leads_closeWindow (l : Line) (h : Leads sc s t) : Leads sc s (closeWindow l t) := leads_setSync _ _ (leads_sup _ _ h)

theorem leads_usePosition (l : Line) (w : BitVec 48) (h : Leads sc s t) : Leads sc s (usePosition l w t) := by
  unfold usePosition
  split
  · exact h
  · split
    · exact leads_sup _ _ h
    · exact leads_useReport _ _ h

theorem leads_endSecond (l : Line) (d : Second) (h : Leads sc s t) : Leads sc s (endSecond l d t).1 := by
  unfold endSecond
  dsimp only
  split
  · exact leads_closeWindow _ (leads_closeSecond _ _ h)
  · exact leads_closeSecond _ _ h

theorem leads_closePosition (l : Line) (h : Leads sc s t) : Leads sc s (closePosition l t).1 := by
  unfold closePosition
  dsimp only
  split
  · exact leads_sup _ _ h
  · exact leads_endSecond _ _ (leads_sup _ _ h)

theorem leads_takePosition (l : Line) (w : BitVec 48) (h : Leads sc s t) : Leads sc s (takePosition l w t).1 := by
  unfold takePosition
  dsimp only
  split
  · exact leads_sup _ _ (leads_alignerLoss _ (leads_sup _ _ h))
  · exact leads_closePosition _ (leads_usePosition _ _ (leads_sup _ _ h))

end Sys2Proof.Machine
end

