-- ==== Sys2Proof/Laws/ChainsTests.lean ====
section
/-! SUPPORT. The claim unit, the test sequencer and the measurement unit as chains of elementary changes. -/

namespace Sys2Proof.Machine

variable {sc : Scope} {s t : State}

/-! ### Notices and claims -/

theorem leads_startHead (h : Leads sc s t) : Leads sc s (startHead t) := by
  unfold startHead; dsimp only; split
  · next hg =>
    split
    · exact h
    · have hp : t.notices.gapPassed = true := by simp only [Bool.and_eq_true] at hg; exact hg.2
      unfold beginAttempt
      refine leads_notices _ ?_ h
      exact ⟨rfl, fun hn => by simp [hp] at hn, fun hn => by simp [hp] at hn⟩
  · exact h

theorem queueNotice_kept (a : Ask) (n : Notices) : BusKept n (queueNotice a n) := by
  unfold queueNotice; split <;> exact ⟨rfl, fun _ => rfl, id⟩

theorem leads_askNotice (a : Ask) (h : Leads sc s t) : Leads sc s (askNotice a t) :=
  leads_startHead (leads_notices _ (queueNotice_kept a t.notices) h)

theorem leads_followTurn (h : Leads sc s t) : Leads sc s (followTurn t) := by
  unfold followTurn; split
  · exact leads_askNotice _ (leads_claims _ (fun _ => ⟨rfl, rfl, rfl, rfl, rfl⟩) h)
  · exact h

theorem leads_enterQueued (h : Leads sc s t) : Leads sc s (enterQueued t) :=
  leads_followTurn (leads_askNotice _ (leads_claims _ (fun _ => ⟨rfl, rfl, rfl, rfl, rfl⟩) h))

theorem leads_claimFromNone (x : ClaimTerms) (h : Leads sc s t) : Leads sc s (claimFromNone x t) := by
  unfold claimFromNone; dsimp only; split
  · exact leads_claims _ (fun _ => ⟨rfl, rfl, rfl, rfl, rfl⟩) (leads_claims _ (fun _ => ⟨rfl, rfl, rfl, rfl, rfl⟩) h)
  · exact leads_enterQueued (leads_claims _ (fun _ => ⟨rfl, rfl, rfl, rfl, rfl⟩) h)

theorem leads_claimHead (x : ClaimTerms) (h : Leads sc s t) : Leads sc s (claimHead x t) := by
  unfold claimHead; split
  · exact leads_claimFromNone _ h
  · exact leads_enterQueued (leads_claims _ (fun _ => ⟨rfl, rfl, rfl, rfl, rfl⟩) h)
  · exact leads_claims _ (fun _ => ⟨rfl, rfl, rfl, rfl, rfl⟩) h
  · exact leads_claims _ (fun _ => ⟨rfl, rfl, rfl, rfl, rfl⟩) h
  · exact h
  · exact leads_claims _ (fun _ => ⟨rfl, rfl, rfl, rfl, rfl⟩) h

theorem leads_disconnect (h : Leads sc s t) : Leads sc s (disconnect t) := by
  unfold disconnect; split
  · exact h
  · exact leads_setTest _ _ (leads_claims _ (fun _ => ⟨rfl, rfl, rfl, rfl, rfl⟩) h)

theorem soundRuns_sublist {q r : List Run} (h : r.Sublist q) (hq : SoundRuns q) : SoundRuns r :=
  ⟨Nat.le_trans h.length_le hq.1, hq.2.sublist h⟩

/-- A change of the sequencer that at most takes runs out of the run queue. -/
theorem leads_seqOther (f : Sequencer → Sequencer) (hf : (f t.seq).queue.Sublist t.seq.queue)
    (h : Leads sc s t) (hk : (f t.seq).steps = t.seq.steps := by first | (dsimp only; done) | rfl) :
    Leads sc s (setSeq f t) := leads_seq _ (soundRuns_sublist hf) h hk

/-- A change of the sequencer that leaves the run queue and step memory alone. -/
theorem leads_seqSame (f : Sequencer → Sequencer) (hf : ∀ q, (f q).queue = q.queue ∧ (f q).steps = q.steps)
    (h : Leads sc s t) : Leads sc s (setSeq f t) := leads_seqOther f (by rw [(hf _).1]) h (hf _).2

theorem leads_startOperate (h : Leads sc s t) : Leads sc s (startOperate t) := leads_seqSame _ (fun _ => ⟨rfl, rfl⟩) h

theorem leads_closeRelay (l : Line) (h : Leads sc s t) : Leads sc s (closeRelay l t) :=
  leads_startOperate (leads_setTest _ _ (leads_claims _ (fun _ => ⟨rfl, rfl, rfl, rfl, rfl⟩) h))

theorem leads_connect (l : Line) (h : Leads sc s t) : Leads sc s (connect l t) := by
  unfold connect; split
  · exact h
  · split
    · exact leads_claims _ (fun _ => ⟨rfl, rfl, rfl, rfl, rfl⟩) h
    · split
      · exact leads_closeRelay _ h
      · split
        · exact leads_startOperate h
        · exact leads_claims _ (fun _ => ⟨rfl, rfl, rfl, rfl, rfl⟩) (leads_disconnect h)

theorem leads_drive (x : Stimulus) (h : Leads sc s t) : Leads sc s (drive x t) := leads_claims _ (fun _ => ⟨rfl, rfl, rfl, rfl, rfl⟩) h

theorem leads_leaveHolding (h : Leads sc s t) : Leads sc s (leaveHolding t) := leads_claims _ (fun _ => ⟨rfl, rfl, rfl, rfl, rfl⟩) (leads_disconnect h)

theorem leads_giveUp (h : Leads sc s t) : Leads sc s (giveUp t) := by
  unfold giveUp; split
  · exact leads_claims _ (fun _ => ⟨rfl, rfl, rfl, rfl, rfl⟩) h
  · exact leads_askNotice _ (leads_claims _ (fun _ => ⟨rfl, rfl, rfl, rfl, rfl⟩) h)
  · exact leads_askNotice _ (leads_claims _ (fun _ => ⟨rfl, rfl, rfl, rfl, rfl⟩) h)
  · exact leads_askNotice _ (leads_claims _ (fun _ => ⟨rfl, rfl, rfl, rfl, rfl⟩) h)
  · exact leads_leaveHolding h
  · exact leads_claims _ (fun _ => ⟨rfl, rfl, rfl, rfl, rfl⟩) h

/-! ### The test sequencer -/

theorem leads_refreshTests (h : Leads sc s t) : Leads sc s (refreshTests t) := by
  refine leads_allLines _ (fun l x => ?_) h
  have hr : restingTest t l ≠ .connected := by
    intro he; unfold restingTest at he; split at he <;> split at he <;> cases he
  split
  · exact ⟨rfl, rfl, rfl, rfl, Iff.rfl, rfl⟩
  · next hx => exact ⟨rfl, rfl, rfl, rfl, ⟨fun h => absurd h hr, fun h => absurd h hx⟩, rfl⟩

theorem leads_endRecord (r : Run) (o : RunOutcome) (k : Slot) (h : Leads sc s t) : Leads sc s (endRecord r o k t) := by
  unfold endRecord; dsimp only; split
  · exact leads_seqSame _ (fun _ => ⟨rfl, rfl⟩) (leads_meas _ (fun _ => rfl) (leads_queueReport _ h))
  · exact leads_meas _ (fun _ => rfl) (leads_queueReport _ h)

theorem placeFront_length (q : List Run) (r : Run) : (placeFront q r).length = q.length + 1 := by
  unfold placeFront
  have := congrArg List.length (List.takeWhile_append_dropWhile (p := isTriggered) (l := q))
  simp only [List.length_append, List.length_cons] at this ⊢
  omega

theorem roomIn_sublist (q : List Run) : (roomIn q).Sublist q := by
  unfold roomIn; split
  · exact List.Sublist.refl _
  · exact List.dropLast_sublist _

theorem mem_takeWhile_triggered {q : List Run} {a : Run} (h : a ∈ q.takeWhile isTriggered) : isTriggered a = true := by
  induction q with
  | nil => simp at h
  | cons x xs ih =>
    simp only [List.takeWhile_cons] at h
    split at h
    · next hx =>
      rcases List.mem_cons.mp h with rfl | h
      · exact hx
      · exact ih h
    · simp at h

/-- In a sound queue nothing behind the first OPERATOR run is TRIGGERED. -/
theorem dropWhile_untriggered {q : List Run}
    (h : q.Pairwise fun a b => isTriggered b = true → isTriggered a = true) :
    ∀ b ∈ q.dropWhile isTriggered, isTriggered b = false := by
  induction q with
  | nil => simp
  | cons x xs ih =>
    intro b hb
    simp only [List.dropWhile_cons] at hb
    split at hb
    · exact ih (List.pairwise_cons.mp h).2 b hb
    · next hx =>
      rcases List.mem_cons.mp hb with rfl | hb
      · simpa using hx
      · by_contra hc
        exact hx ((List.pairwise_cons.mp h).1 b hb (by simpa using hc))

/-- A run placed directly behind the last TRIGGERED run leaves TRIGGERED runs first (R142). -/
theorem placeFront_ordered (q : List Run) (r : Run)
    (h : q.Pairwise fun a b => isTriggered b = true → isTriggered a = true) :
    (placeFront q r).Pairwise fun a b => isTriggered b = true → isTriggered a = true := by
  unfold placeFront
  refine List.pairwise_append.mpr ⟨h.sublist (List.takeWhile_sublist _), List.pairwise_cons.mpr ⟨?_, ?_⟩, ?_⟩
  · intro b hb hc; rw [dropWhile_untriggered h b hb] at hc; cases hc
  · exact h.sublist (List.dropWhile_sublist _)
  · intro a ha b _ _; exact mem_takeWhile_triggered ha

theorem roomIn_length (q : List Run) (h : q.length ≤ Config.queuedRuns) (r : Run) :
    (placeFront (roomIn q) r).length ≤ Config.queuedRuns := by
  rw [placeFront_length]
  unfold roomIn
  split
  · omega
  · simp only [Config.queuedRuns] at *
    simp; omega

theorem leads_enterFront (r : Run) (h : Leads sc s t) : Leads sc s (enterFront r t) := by
  have h1 := leads_seq (fun q => { q with queue := placeFront (roomIn q.queue) r }) (t := t)
    (fun hq => ⟨roomIn_length _ hq.1 r, placeFront_ordered _ r (hq.2.sublist (roomIn_sublist _))⟩) h
  unfold enterFront
  refine leads_refreshTests ?_
  split
  · exact leads_endRecord _ _ _ h1
  · exact h1

theorem leads_clearActive (h : Leads sc s t) : Leads sc s (clearActive t) := leads_seqSame _ (fun _ => ⟨rfl, rfl⟩) h
theorem leads_setActive (f) (h : Leads sc s t) : Leads sc s (setActive f t) := leads_seqSame _ (fun _ => ⟨rfl, rfl⟩) h

theorem leads_decideHold (o : RunOutcome) (h : Leads sc s t) : Leads sc s (decideHold o t) := by
  unfold decideHold; split
  · exact h
  · exact leads_giveUp h

theorem leads_becomeActive (r : Run) (h : Leads sc s t) : Leads sc s (becomeActive r t) := by
  unfold becomeActive; split
  · exact leads_connect _ (leads_refreshTests (leads_seqSame _ (fun _ => ⟨rfl, rfl⟩) h))
  · exact leads_claimHead _ (leads_refreshTests (leads_seqSame _ (fun _ => ⟨rfl, rfl⟩) h))

theorem leads_endAtActivation (r : Run) (o : RunOutcome) (h : Leads sc s t) : Leads sc s (endAtActivation r o t) :=
  leads_refreshTests (leads_endRecord _ _ _ (leads_decideHold _ h))

theorem leads_activateUpTo (n : Nat) (h : Leads sc s t) : Leads sc s (activateUpTo n t) := by
  induction n generalizing t with
  | zero => exact h
  | succ n ih =>
    unfold activateUpTo; split
    · exact h
    · split
      · exact h
      · next r rest hq =>
        have h1 := leads_seqOther (fun q => { q with queue := rest }) (t := t) (by rw [hq]; simp) h
        dsimp only; split
        · exact ih (leads_endAtActivation _ _ h1)
        · exact leads_becomeActive _ h1

theorem leads_activate (h : Leads sc s t) : Leads sc s (activate t) := leads_activateUpTo _ h

theorem leads_finishEnding (a : Active) (h : Leads sc s t) : Leads sc s (finishEnding a t) :=
  leads_activate (leads_refreshTests (leads_endRecord _ _ _ (leads_clearActive
    (leads_decideHold _ (leads_disconnect h)))))

theorem leads_beginEnding (o : RunOutcome) (a : Active) (h : Leads sc s t) : Leads sc s (beginEnding o a t) := by
  unfold beginEnding; dsimp only; split
  · exact leads_drive _ (leads_setActive _ h)
  · exact leads_finishEnding _ (leads_setActive _ h)

theorem leads_startSampling (h : Leads sc s t) : Leads sc s (startSampling t) :=
  leads_meas _ (fun _ => rfl) (leads_setActive _ h)

theorem leads_startSettling (b : Bool) (a : Active) (h : Leads sc s t) : Leads sc s (startSettling b a t) := by
  unfold startSettling; split
  · exact h
  · dsimp only; split
    · exact leads_startSampling (leads_drive _ (leads_meas _ (fun _ => rfl) (leads_setActive _ h)))
    · exact leads_drive _ (leads_meas _ (fun _ => rfl) (leads_setActive _ h))

theorem leads_startDischarging (h : Leads sc s t) : Leads sc s (startDischarging t) := leads_drive _ (leads_setActive _ h)

theorem leads_suspendRun (a : Active) (k : Slot) (h : Leads sc s t) : Leads sc s (suspendRun a k t) :=
  leads_enterFront _ (leads_clearActive h)

theorem leads_nextPhase (a : Active) (h : Leads sc s t) : Leads sc s (nextPhase a t) := by
  unfold nextPhase; split
  · exact h
  · dsimp only; split
    · exact leads_beginEnding _ _ (leads_setActive _ h)
    · split
      · exact leads_beginEnding _ _ (leads_setActive _ h)
      · split
        · exact leads_beginEnding _ _ (leads_line _ _ (fun _ => ⟨rfl, rfl, rfl, rfl, Iff.rfl, rfl⟩)
            (leads_setActive _ h))
        · split
          · exact leads_setActive _ h
          · split
            · exact leads_activate (leads_suspendRun _ _ (leads_setActive _ h))
            · exact leads_startSettling _ _ (leads_setActive _ (leads_setActive _ h))

theorem leads_startConnecting (a : Active) (h : Leads sc s t) : Leads sc s (startConnecting a t) := by
  unfold startConnecting; dsimp only; split
  · exact leads_beginEnding _ _ (leads_setActive _ h)
  · exact leads_connect _ (leads_setActive _ h)

theorem leads_headHeld (h : Leads sc s t) : Leads sc s (headHeld t) := by
  unfold headHeld; split
  · split
    · exact leads_startConnecting _ h
    · exact leads_giveUp h
  · exact leads_giveUp h

theorem leads_limitTaken (h : Leads sc s t) : Leads sc s (limitTaken t) := by
  unfold limitTaken; split
  · exact h
  · split
    · exact h
    · split
      · exact leads_beginEnding _ _ h
      · dsimp only; split
        · exact leads_drive _ (leads_seqSame _ (fun _ => ⟨rfl, rfl⟩) (leads_suspendRun _ _ h))
        · exact leads_activate (leads_giveUp (leads_disconnect (leads_suspendRun _ _ h)))

theorem leads_holdLost (h : Leads sc s t) : Leads sc s (holdLost t) := by
  unfold holdLost; split
  · exact leads_activate (leads_seqSame _ (fun _ => ⟨rfl, rfl⟩) h)
  · split
    · exact h
    · split
      · exact h
      · split
        · exact leads_finishEnding _ h
        · split
          · exact leads_activate (leads_suspendRun _ _ h)
          · exact leads_activate (leads_refreshTests (leads_endRecord _ _ _ (leads_clearActive
              (leads_seqSame _ (fun _ => ⟨rfl, rfl⟩) h))))

theorem leads_setHazard (l : Line) (b : Bool) (h : Leads sc s t) : Leads sc s (setHazard l b t) :=
  leads_line _ _ (fun _ => ⟨rfl, rfl, rfl, rfl, Iff.rfl, rfl⟩) h

theorem leads_faultRun (r : Run) (k : Slot) (h : Leads sc s t) : Leads sc s (faultRun r k t) :=
  leads_endRecord _ _ _ (leads_decideHold _ (leads_seqSame _ (fun _ => ⟨rfl, rfl⟩) h))

theorem leads_protectiveStop (h : Leads sc s t) : Leads sc s (protectiveStop t) := by
  unfold protectiveStop; split
  · next c _ =>
    have h1 := leads_setHazard c.line true (leads_disconnect
      (leads_seqSame (fun q => { q with closing := none }) (fun _ => ⟨rfl, rfl⟩) h))
    dsimp only; split
    · exact leads_activate (leads_refreshTests (leads_faultRun _ _
        (leads_seqOther _ List.filter_sublist h1)))
    · exact leads_activate (leads_decideHold _ h1)
  · exact leads_activate (leads_refreshTests (leads_faultRun _ _ (leads_clearActive
        (leads_setHazard _ _ (leads_disconnect (leads_setActive _ h))))))
  · exact leads_disconnect h

theorem leads_takeId (h : Leads sc s t) : Leads sc s (takeId t) := by
  unfold takeId
  exact leads_seqSame _ (fun _ => ⟨by dsimp only, by dsimp only⟩) h

theorem leads_displaceWaiting (h : Leads sc s t) : Leads sc s (displaceWaiting t) := by
  unfold displaceWaiting; split
  · split
    · exact leads_enterFront _ (leads_clearActive h)
    · exact h
  · exact h

theorem leads_triggeredRequest (l : Line) (c : Cause) (h : Leads sc s t) : Leads sc s (triggeredRequest l c t) := by
  unfold triggeredRequest; split
  · exact h
  · dsimp only; split
    · exact leads_endRecord _ _ _ (leads_takeId h)
    · exact leads_activate (leads_displaceWaiting (leads_enterFront _ (leads_takeId h)))

theorem leads_raiseTrigger (l : Line) (c : Cause) (h : Leads sc s t) : Leads sc s (raiseTrigger l c t) := by
  unfold raiseTrigger; dsimp only; split
  · exact h
  · exact leads_triggeredRequest _ _ h

/-! ### The measurement unit -/

theorem clampTo_inClamp (q : Quantity) (v : Int) : InClamp q (clampTo q v) := by
  cases q <;> simp only [InClamp, clampTo, quantityRange] <;> omega

/-- A number within a clamp that starts at 0. -/
theorem inClamp_nat (q : Quantity) (n : Nat) (h0 : (quantityRange q).1 = 0) (h : (n : Int) ≤ (quantityRange q).2) :
    InClamp q n := ⟨by rw [h0]; exact Int.natCast_nonneg n, h⟩

theorem capacitance_inClamp (a : Accumulators) : InClamp .capacitance (capacitance a).value := by
  unfold capacitance; split
  · exact inClamp_nat _ 0 rfl (by decide)
  · dsimp only; split
    · exact inClamp_nat _ 10000000 rfl (by decide)
    · next h => exact inClamp_nat _ _ rfl (by simp only [quantityRange]; exact_mod_cast Nat.le_of_not_lt h)

theorem formResult_inClamp (x : Settings) (q : Quantity) (n : Nat) (a : Accumulators) :
    InClamp q (formResult x q n a).value := by
  cases q with
  | foreignDc => exact clampTo_inClamp _ _
  | foreignAc => exact clampTo_inClamp _ _
  | resistance =>
    simp only [formResult]
    unfold resistance; dsimp only; split
    · exact inClamp_nat _ 2000000000 rfl (by decide)
    · split
      · exact inClamp_nat _ 2000000000 rfl (by decide)
      · next h => exact inClamp_nat _ _ rfl (by simp only [quantityRange]; exact_mod_cast Nat.le_of_not_lt h)
  | capacitance => exact capacitance_inClamp a
  | length =>
    simp only [formResult]
    unfold pairLength; dsimp only; split
    · exact inClamp_nat _ 65535 rfl (by decide)
    · next h => exact inClamp_nat _ _ rfl (by simp only [quantityRange]; exact_mod_cast Nat.le_of_not_lt h)

theorem leads_storeResult (run : Run) (p : Step) (q : Quantity) (r : Result) (hs : sc.results = true)
    (hr : InClamp q r.value) (h : Leads sc s t) : Leads sc s (storeResult run p q r t) := by
  unfold storeResult; dsimp only; split
  · exact leads_queueReport _ (h.tail (.result _ _ _ hs hr _))
  · exact h.tail (.result _ _ _ hs hr _)

theorem leads_afterFinal (a : Active) (p : Step) (h : Leads sc s t) : Leads sc s (afterFinal a p t) := by
  unfold afterFinal; split
  · split
    · exact leads_beginEnding _ _ h
    · exact leads_startDischarging h
  · exact leads_nextPhase _ h

theorem leads_afterAnother (p : Step) (h : Leads sc s t) : Leads sc s (afterAnother p t) := by
  unfold afterAnother; split
  · exact leads_startDischarging h
  · exact leads_startSampling h

theorem leads_endMeasurement (a : Active) (p : Step) (q : Quantity) (w : Wires) (hs : sc.results = true)
    (h : Leads sc s t) : Leads sc s (endMeasurement a p q w t) := by
  unfold endMeasurement; dsimp only; split
  · exact leads_protectiveStop (leads_storeResult _ _ _ _ hs (formResult_inClamp _ _ _ _) h)
  · split
    · exact leads_afterAnother _ (leads_meas _ (fun _ => rfl) h)
    · exact leads_afterFinal _ _ (leads_storeResult _ _ _ _ hs (formResult_inClamp _ _ _ _) (leads_meas _ (fun _ => rfl) h))

theorem leads_takePair (hs : sc.results = true) (a : Active) (v i : Int) (h : Leads sc s t) : Leads sc s (takePair a v i t) := by
  unfold takePair; dsimp only; split
  · exact leads_meas _ (fun _ => rfl) h
  · split
    · exact leads_endMeasurement _ _ _ _ hs (leads_meas _ (fun _ => rfl) h)
    · exact leads_meas _ (fun _ => rfl) h

theorem leads_samplePair (hs : sc.results = true) (v i : Int) (h : Leads sc s t) : Leads sc s (samplePair v i t) := by
  unfold samplePair; split
  · exact leads_protectiveStop h
  · split
    · split
      · exact leads_takePair hs _ _ _ h
      · exact h
    · exact h

/-! ### What notices and timers do to claims -/

theorem leads_loseHold (h : Leads sc s t) : Leads sc s (loseHold t) := leads_holdLost (leads_leaveHolding h)

theorem leads_followOwn (h : Leads sc s t) : Leads sc s (followOwn t) := by
  unfold followOwn; split
  · exact leads_followTurn h
  · split
    · exact h
    · exact leads_enterQueued h
  · split
    · exact h
    · exact leads_loseHold h
  · exact h

theorem leads_changeView (hs : sc.view = true) (f)
    (hf : ViewMove t.time t.station t.claims (withTurn t.time f t.claims)) (h : Leads sc s t) :
    Leads sc s (changeView f t) := leads_followOwn (leads_view hs _ hf h)

theorem leads_heardTake (hs : sc.view = true) (k : StationNo) (n : Nat) (h : Leads sc s t) : Leads sc s (heardTake k n t) := by
  unfold heardTake; dsimp only; split
  · exact leads_askNotice _ (leads_changeView hs _ (.take _ _) h)
  · exact leads_changeView hs _ (.take _ _) h

theorem leads_backToQueued (h : Leads sc s t) : Leads sc s (backToQueued t) := by
  unfold backToQueued; split
  · exact leads_followTurn (leads_claims _ (fun _ => ⟨rfl, rfl, rfl, rfl, rfl⟩) h)
  · exact leads_enterQueued h

theorem leads_ownTakeEnd (hs : sc.view = true) (n : Nat) (h : Leads sc s t) : Leads sc s (ownTakeEnd n t) := by
  unfold ownTakeEnd; dsimp only; split
  · split
    · exact leads_claims _ (fun _ => ⟨rfl, rfl, rfl, rfl, rfl⟩) (leads_view hs _ (.take _ _) h)
    · exact leads_backToQueued (leads_view hs _ (.take _ _) h)
  · exact leads_followOwn (leads_view hs _ (.take _ _) h)

theorem leads_endReleasing (h : Leads sc s t) : Leads sc s (endReleasing t) := by
  unfold endReleasing; dsimp only; split
  · exact leads_claimFromNone _ (leads_claims _ (fun _ => ⟨rfl, rfl, rfl, rfl, rfl⟩) h)
  · exact leads_claims _ (fun _ => ⟨rfl, rfl, rfl, rfl, rfl⟩) h

theorem leads_ownHoldOver (hs : sc.view = true) (f)
    (hf : ViewMove t.time t.station t.claims (withTurn t.time f t.claims)) (h : Leads sc s t) :
    Leads sc s (ownHoldOver f t) := by
  unfold ownHoldOver; split
  · exact leads_endReleasing (leads_view hs _ hf h)
  · exact leads_changeView hs _ hf h

theorem leads_ownStatusEnd (hs : sc.view = true) (b : Bool) (h : Leads sc s t) : Leads sc s (ownStatusEnd b t) := by
  have h1 : Leads sc s (releaseWaitingClaim (changeView (viewStatus t.station b) t)) := by
    unfold releaseWaitingClaim; split
    · exact leads_enterQueued (leads_changeView hs _ (.status _ _) h)
    · exact leads_changeView hs _ (.status _ _) h
  unfold ownStatusEnd reclaimAfterStatus; split
  · dsimp only; split
    · exact leads_enterQueued (leads_claims _ (fun _ => ⟨rfl, rfl, rfl, rfl, rfl⟩) h1)
    · exact leads_claims _ (fun _ => ⟨rfl, rfl, rfl, rfl, rfl⟩) h1
  · exact h1

theorem leads_noticeDiscarded (hs : sc.view = true) (k : NoticeKind) (h : Leads sc s t) :
    Leads sc s (noticeDiscarded k t) := by
  unfold noticeDiscarded; split
  · exact leads_enterQueued h
  · split
    · exact leads_askNotice _ h
    · exact leads_backToQueued h
  · exact leads_ownHoldOver hs _ (.endedOwn _) h
  · split
    · exact leads_changeView hs _ (.endedOwn _) (leads_claims _ (fun _ => ⟨rfl, rfl, rfl, rfl, rfl⟩) h)
    · exact h
  · split
    · exact leads_changeView hs _ (.endedOwn _) h
    · exact h
  · split
    · exact leads_changeView hs _ (.endedOwn _) h
    · exact h
  · exact h

theorem leads_releaseAbsorbed (hs : sc.view = true) (h : Leads sc s t) : Leads sc s (releaseAbsorbed t) := by
  unfold releaseAbsorbed; split
  · split
    · exact h
    · exact leads_ownHoldOver hs _ (.endedOwn _) h
  · exact h

theorem leads_takeHoldExpiry (hs : sc.view = true) (h : Leads sc s t) : Leads sc s (takeHoldExpiry t) :=
  leads_changeView hs _ .ended h

theorem leads_takeLapse (hs : sc.view = true) (h : Leads sc s t) : Leads sc s (takeLapse t) :=
  leads_changeView hs _ .lapse h

theorem leads_takeConfirm (b : Bool) (h : Leads sc s t) : Leads sc s (takeConfirm b t) := by
  unfold takeConfirm; dsimp only; split
  · exact leads_enterQueued (leads_askNotice _ (leads_queueReport _ (leads_claims _ (fun _ => ⟨rfl, rfl, rfl, rfl, rfl⟩) h)))
  · exact leads_headHeld (leads_claims _ (fun _ => ⟨rfl, rfl, rfl, rfl, rfl⟩) (leads_claims _ (fun _ => ⟨rfl, rfl, rfl, rfl, rfl⟩) h))

theorem leads_takeReleaseEnd (hs : sc.view = true) (h : Leads sc s t) : Leads sc s (takeReleaseEnd t) := by
  unfold takeReleaseEnd; dsimp only; split
  · unfold releaseOccupancy; dsimp only; split
    · exact leads_releaseAbsorbed hs (leads_askNotice _ (leads_claims _ (fun _ => ⟨rfl, rfl, rfl, rfl, rfl⟩) (leads_claims _ (fun _ => ⟨rfl, rfl, rfl, rfl, rfl⟩) h)))
    · exact leads_askNotice _ (leads_claims _ (fun _ => ⟨rfl, rfl, rfl, rfl, rfl⟩) (leads_claims _ (fun _ => ⟨rfl, rfl, rfl, rfl, rfl⟩) h))
  · split
    · exact leads_connect _ (leads_claims _ (fun _ => ⟨rfl, rfl, rfl, rfl, rfl⟩) h)
    · exact leads_claims _ (fun _ => ⟨rfl, rfl, rfl, rfl, rfl⟩) h

theorem leads_takeOwnLimit (h : Leads sc s t) : Leads sc s (takeOwnLimit t) :=
  leads_limitTaken (leads_claims _ (fun _ => ⟨rfl, rfl, rfl, rfl, rfl⟩) h)

theorem leads_takeOccupancyLoss (h : Leads sc s t) : Leads sc s (takeOccupancyLoss t) := by
  unfold takeOccupancyLoss; split
  · exact leads_loseHold (leads_queueReport _ (leads_claims _ (fun _ => ⟨rfl, rfl, rfl, rfl, rfl⟩) h))
  · exact h

/-! ### The timed events of the sequencer and of supervision -/

theorem leads_takeOperateEnd (h : Leads sc s t) : Leads sc s (takeOperateEnd t) := by
  unfold takeOperateEnd; split
  · split
    · exact leads_beginEnding _ _ h
    · exact leads_startSettling _ _ h
  · exact h

theorem leads_takeSettleEnd (h : Leads sc s t) : Leads sc s (takeSettleEnd t) := by
  unfold takeSettleEnd; split
  · split
    · exact leads_beginEnding _ _ h
    · exact leads_startSampling h
  · exact h

theorem leads_takeDischargeEnd (h : Leads sc s t) : Leads sc s (takeDischargeEnd t) := by
  unfold takeDischargeEnd; split
  · split
    · exact leads_beginEnding _ _ h
    · split
      · exact leads_nextPhase _ h
      · exact leads_startSettling _ _ h
  · exact h

theorem leads_takeEndingEnd (h : Leads sc s t) : Leads sc s (takeEndingEnd t) := by
  unfold takeEndingEnd; split
  · exact leads_activate (leads_giveUp (leads_disconnect (leads_seqSame _ (fun _ => ⟨rfl, rfl⟩) h)))
  · exact leads_finishEnding _ h
  · exact h

theorem leads_endHoldoff (l : Line) (h : Leads sc s t) : Leads sc s (endHoldoff l t) := by
  unfold endHoldoff
  exact leads_seqSame _ (fun _ => ⟨by dsimp only, by dsimp only⟩) h

theorem leads_takeMarker (l : Line) (n : Nat) (h : Leads sc s t) : Leads sc s (takeMarker l n t) := by
  unfold takeMarker; split
  · split
    · exact leads_sup _ _ h
    · exact leads_sup _ _ h
    · unfold confirm; dsimp only; split
      · exact leads_sup _ _ h
      · split
        · exact leads_sup _ _ h
        · exact leads_queueReport _ (leads_sup _ _ h)
  · exact h

theorem leads_takeSearchTime (l : Line) (h : Leads sc s t) : Leads sc s (takeSearchTime l t) := leads_setSync _ _ h

theorem leads_takeReport (l : Line) (w : BitVec 48) (h : Leads sc s t) : Leads sc s (takeReport l w t) := by
  unfold takeReport; split
  · dsimp only; split
    · exact leads_raiseTrigger _ _ (leads_takePosition _ _ h)
    · exact leads_takePosition _ _ h
  · split
    · exact leads_sup _ _ h
    · exact h

theorem leads_takeLosTimer (l : Line) (h : Leads sc s t) : Leads sc s (takeLosTimer l t) :=
  leads_raiseTrigger _ _ (leads_sup _ _ h)

end Sys2Proof.Machine
end

