-- ==== Sys2Proof/Laws/ChainsEvents.lean ====
section
/-! SUPPORT. The share unit, the notice interface, the frames, the scheduler's events and the requests as chains of
elementary changes, and with them every command of a running part. -/

namespace Sys2Proof.Machine

variable {sc : Scope} {s t : State}

/-! ### Peers and share -/

theorem leads_setPeer (hs : sc.share = true) (k : StationNo) (f) (h : Leads sc s t) : Leads sc s (setPeer k f t) :=
  leads_share hs _ (fun _ => ⟨rfl, rfl, rfl⟩) h

theorem leads_tellPresence (hv : sc.view = true) (k : StationNo) (o n : Presence) (hk : n = .absent → k ≠ t.station)
    (h : Leads sc s t) : Leads sc s (tellPresence k o n t) := by
  unfold tellPresence; split
  · next hn =>
    exact leads_followOwn (leads_view hv (fun cl => withTurn t.time (viewGone k)
      { cl with present := put cl.present k false }) (.absent k (hk hn)) h)
  · split
    · exact leads_view hv _ (.present k) h
    · exact h

theorem leads_setPresence (hs : sc.share = true) (hv : sc.view = true) (k : StationNo) (n : Presence)
    (hk : n = .absent → k ≠ t.station) (h : Leads sc s t) : Leads sc s (setPresence k n t) := by
  unfold setPresence; dsimp only; split
  · exact h
  · have h1 : ∀ {s}, Leads sc s t → Leads sc s (recompute (queueReport (.peer k (peerOf t k).presence n)
        (setPeer k (fun p => { p with
          presence := n, joinedAt := if n = .joining then some t.time else p.joinedAt }) t))) :=
      fun h => leads_recompute hs (leads_queueReport _ (leads_setPeer hs _ _ h))
    refine leads_tellPresence hv _ _ _ (fun hn => ?_) (h1 h)
    have he := (h1 (.refl : Leads sc t t)).loader
    simpa [State.station, he] using hk hn

theorem leads_peerStatus (hs : sc.share = true) (hv : sc.view = true) (k : StationNo) (n : Nat) (r b : Bool) (w d a : Nat)
    (h : Leads sc s t) : Leads sc s (peerStatus k n r b w d a t) := by
  unfold peerStatus; dsimp only
  have hp : ∀ {x : Presence} {P : Prop}, presenceAfterStatus x = .absent → P := by
    intro x P hx; cases x <;> cases hx
  refine leads_recompute hs ?_
  split
  · exact leads_changeView hv _ (.gone _) (leads_setPresence hs hv _ _ hp (leads_setPeer hs _ _ h))
  · exact leads_setPresence hs hv _ _ hp (leads_setPeer hs _ _ h)

theorem leads_takeCapacity (hs : sc.share = true) (v : Nat) (h : Leads sc s t) : Leads sc s (takeCapacity v t) :=
  leads_recompute hs (leads_share hs _ (fun _ => ⟨rfl, rfl, rfl⟩) h)

theorem leads_ownStatusEntry (hs : sc.share = true) (n : Nat) (b : Bool) (h : Leads sc s t) :
    Leads sc s (ownStatusEntry n b t) :=
  leads_recompute hs (leads_setPeer hs _ _ h)

/-- The own entry has no presence timer (R43). -/
theorem presenceDue_ne {s : State} {k : StationNo} (h : presenceDue s k = true) : k ≠ s.station := by
  rintro rfl
  simp [presenceDue, presenceAt, reached] at h

theorem leads_takePresenceExpiry (hs : sc.share = true) (hv : sc.view = true) (k : StationNo) (hk : k ≠ t.station)
    (h : Leads sc s t) : Leads sc s (takePresenceExpiry k t) := leads_setPresence hs hv _ _ (fun _ => hk) h

theorem leads_takeCapacityExpiry (hs : sc.share = true) (h : Leads sc s t) : Leads sc s (takeCapacityExpiry t) :=
  leads_share hs _ (fun _ => ⟨rfl, rfl, rfl⟩) h

theorem leads_updateDemands (h : Leads sc s t) : Leads sc s (updateDemands t) :=
  leads_allLines _ (fun _ _ => ⟨rfl, rfl, rfl, rfl, Iff.rfl, rfl⟩) h

theorem leads_takeNoticePeriod (hs : sc.share = true) (h : Leads sc s t) : Leads sc s (takeNoticePeriod t) :=
  leads_askNotice _ (leads_setPeer hs _ _ (leads_recompute hs (leads_setPeer hs _ _ (leads_updateDemands
    (leads_share hs _ (fun _ => ⟨rfl, rfl, rfl⟩) h)))))

/-! ### The notice interface -/

theorem leads_setCondition (hb : sc.bus = true) (hs : sc.share = true) (n : BusCondition) (h : Leads sc s t) : Leads sc s (setCondition n t) := by
  unfold setCondition; dsimp only; split
  · exact h
  · exact leads_recompute hs (leads_queueReport _ (leads_bus hb _ h))

theorem leads_countNotice (hb : sc.bus = true) (hs : sc.share = true) (h : Leads sc s t) :
    Leads sc s (countNotice t) := by
  unfold countNotice; split
  · exact h
  · exact leads_setCondition hb hs _ (leads_bus hb _ h)

theorem leads_takeIsolation (hb : sc.bus = true) (hs : sc.share = true) (h : Leads sc s t) :
    Leads sc s (takeIsolation t) := leads_setCondition hb hs _ (leads_bus hb _ h)

theorem leads_reportDuplicate (hb : sc.bus = true) (g : GoodNotice) (h : Leads sc s t) :
    Leads sc s (reportDuplicate g t) := by
  unfold reportDuplicate; split
  · exact h
  · exact leads_bus hb _ (leads_queueReport _ h)

theorem leads_handToClaims (hv : sc.view = true) (k : StationNo) (x : Heard) (h : Leads sc s t) :
    Leads sc s (handToClaims k x t) := by
  unfold handToClaims; split
  · exact leads_changeView hv _ (.status _ _) h
  · exact h
  · exact leads_changeView hv _ (.claim _ _ _) h
  · exact leads_heardTake hv _ _ h
  · exact leads_changeView hv _ (.held _ _) h
  · exact leads_changeView hv _ (.release _) h

theorem leads_handToPeers (hs : sc.share = true) (hv : sc.view = true) (k : StationNo) (n : Nat) (x : Heard)
    (h : Leads sc s t) : Leads sc s (handToPeers k n x t) := by
  unfold handToPeers; split
  · exact leads_peerStatus hs hv _ _ _ _ _ _ _ h
  · exact leads_setPeer hs _ _ h

theorem leads_handOn (hs : sc.share = true) (hv : sc.view = true) (g : GoodNotice) (h : Leads sc s t) :
    Leads sc s (handOn g t) := by
  unfold handOn; dsimp only; split
  · exact leads_takeCapacity hs _ h
  · split
    · split
      · exact h
      · exact leads_handToClaims hv _ _ (leads_handToPeers hs hv _ _ _ h)
    · exact h

theorem leads_takeGood (hb : sc.bus = true) (hs : sc.share = true) (hv : sc.view = true) (g : GoodNotice)
    (h : Leads sc s t) : Leads sc s (takeGood g t) := by
  unfold takeGood; dsimp only
  refine leads_handOn hs hv _ (leads_countNotice hb hs ?_)
  split
  · exact leads_reportDuplicate hb _ (leads_bus hb _ h)
  · exact leads_bus hb _ h

theorem leads_takeNotice (hb : sc.bus = true) (hs : sc.share = true) (hv : sc.view = true) (levels : List Bool)
    (h : Leads sc s t) : Leads sc s (takeNotice levels t) := by
  unfold takeNotice; split
  · dsimp only; split
    · exact leads_takeGood hb hs hv _ (leads_bus hb _ h)
    · exact leads_bus hb _ (leads_bus hb _ h)
  · exact h

theorem leads_handOwn (hb : sc.bus = true) (hs : sc.share = true) (hv : sc.view = true) (a : Ask) (x : Attempt)
    (h : Leads sc s t) : Leads sc s (handOwn a x t) := by
  unfold handOwn; split
  · exact leads_ownStatusEnd hv _ (leads_ownStatusEntry hs _ _ (leads_bus hb _ h))
  · exact leads_changeView hv _ (.claim _ _ _) h
  · exact leads_ownTakeEnd hv _ h
  · exact leads_changeView hv _ (.held _ _) h
  · exact leads_ownHoldOver hv _ (.release _) h

theorem leads_takeCompletion (hb : sc.bus = true) (hs : sc.share = true) (hv : sc.view = true) (h : Leads sc s t) :
    Leads sc s (takeCompletion t) := by
  unfold takeCompletion; split
  · exact leads_handOwn hb hs hv _ _ (leads_bus hb _ h)
  · exact h

theorem leads_reportDropped (hv : sc.view = true) (e : OutNotice) (h : Leads sc s t) :
    Leads sc s (reportDropped e t) := leads_noticeDiscarded hv _ (leads_queueReport _ h)

theorem leads_takeLoss (hb : sc.bus = true) (hv : sc.view = true) (h : Leads sc s t) : Leads sc s (takeLoss t) := by
  unfold takeLoss; split
  · next a e w _ _ =>
    dsimp only
    have h2 : Leads sc s (match (settleLoss { e with losses := e.losses + 1 } w).dropped with
        | some d => reportDropped d
            (setNotices (loseAttempt (settleLoss { e with losses := e.losses + 1 } w).queue a) t)
        | none => setNotices (loseAttempt (settleLoss { e with losses := e.losses + 1 } w).queue a) t) := by
      split
      · exact leads_reportDropped hv _ (leads_bus hb _ h)
      · exact leads_bus hb _ h
    split
    · exact leads_releaseAbsorbed hv h2
    · exact h2
  · exact h

theorem leads_takeGap (hb : sc.bus = true) (h : Leads sc s t) : Leads sc s (takeGap t) := leads_startHead (leads_bus hb _ h)

theorem leads_takeQuiet (hb : sc.bus = true) (h : Leads sc s t) : Leads sc s (takeQuiet t) :=
  leads_startHead (leads_bus hb _ h)

theorem leads_takeRecessiveRun (hb : sc.bus = true) (h : Leads sc s t) : Leads sc s (takeRecessiveRun t) := by
  unfold takeRecessiveRun; split
  · exact h
  · exact leads_bus hb _ h

theorem leads_takeStartBit (hb : sc.bus = true) (h : Leads sc s t) : Leads sc s (takeStartBit t) := by
  unfold takeStartBit; split
  · exact leads_bus hb _ h
  · exact h

/-! ### Line-port transmitters -/

theorem leads_lookDown (l : Line) (h : Leads sc s t) : Leads sc s (lookDown l t) :=
  leads_releaseEntries _ (leads_line _ _ (fun _ => ⟨rfl, rfl, rfl, rfl, Iff.rfl, rfl⟩)
    (leads_storeOther _ (fun _ => ⟨rfl, rfl⟩) h))

theorem leads_takeDown (l : Line) (h : Leads sc s t) : Leads sc s (takeDown l t) := by
  unfold takeDown; split
  · exact h
  · exact leads_dist _ (leads_storeOther _ (fun _ => ⟨rfl, rfl⟩) h)

theorem leads_checkPort (l : Line) (h : Leads sc s t) : Leads sc s (checkPort l t) := by
  have h1 : Leads sc s (readReady l t) := by
    unfold readReady; split
    · exact leads_dist _ h
    · exact h
  unfold checkPort takeIfReady; split
  · exact leads_takeDown _ (leads_lookDown _ h1)
  · exact h1

theorem leads_setReady (l : Line) (b : Bool) (h : Leads sc s t) : Leads sc s (setReady l b t) := leads_dist _ h

theorem leads_completeDown (l : Line) (h : Leads sc s t) : Leads sc s (completeDown l t) := by
  unfold completeDown; split
  · exact h
  · exact leads_checkPort _ (leads_releaseChain _ (leads_dist _ h))

/-! ### Reception of frames -/

theorem leads_setLineRx (l : Line) (r : LineRx) (h : Leads sc s t) : Leads sc s (setLineRx l r t) :=
  leads_storeOther _ (fun _ => ⟨rfl, rfl⟩) h

theorem leads_setUplinkRx (r : UplinkRx) (h : Leads sc s t) : Leads sc s (setUplinkRx r t) :=
  leads_storeOther _ (fun _ => ⟨rfl, rfl⟩) h

theorem leads_countMalformed (h : Leads sc s t) : Leads sc s (countMalformed t) := leads_dist _ h
theorem leads_countUnmapped (h : Leads sc s t) : Leads sc s (countUnmapped t) := leads_dist _ h

theorem leads_storeFirst (c : CellNo) (b : Byte) (cs rest : List CellNo) (h : Leads sc s t) :
    Leads sc s (setStore (fun st => storeFirst c b (claimCells st cs rest)) t) :=
  leads_store _ (fun _ => ⟨.byte _ _ (.refl _), Nat.le_refl _⟩) h

theorem leads_storeMore (chain : List CellNo) (n : Nat) (b : List Byte) (cs rest : List CellNo) (h : Leads sc s t) :
    Leads sc s (setStore (fun st => storeMore chain n b (claimCells st cs rest)) t) :=
  leads_store _ (fun _ => ⟨writeFrame_written _ _ _ (.refl _) _ _, Nat.le_refl _⟩) h

theorem leads_classify (tag : Nat) (k : Byte) (n : Nat) (h : Leads sc s t) : Leads sc s (classify tag k n t) := by
  unfold classify; split
  · split
    · exact leads_setUplinkRx _ h
    · exact leads_countMalformed (leads_setUplinkRx _ h)
  · split
    · split
      · exact leads_countMalformed (leads_setUplinkRx _ h)
      · split
        · exact leads_setUplinkRx _ h
        · split
          · exact leads_setUplinkRx _ h
          · exact leads_countUnmapped (leads_setUplinkRx _ h)
    · exact leads_countMalformed (leads_setUplinkRx _ h)

theorem leads_takeHeader (header : List Byte) (h : Leads sc s t) : Leads sc s (takeHeader header t) := by
  unfold takeHeader; split
  · exact leads_classify _ _ _ h
  · exact leads_classify _ _ _ h
  · exact h

theorem leads_admitLine (l : Line) (b : Byte) (h : Leads sc s t) : Leads sc s (admitLine l b t) := by
  unfold admitLine; split
  · exact h
  · split
    · split
      · exact leads_setLineRx _ _ (leads_storeFirst _ _ _ _ h)
      · exact leads_countDrop _ (leads_setLineRx _ _ h)
    · exact leads_countDrop _ (leads_setLineRx _ _ h)

theorem leads_admitUplink (b : Byte) (h : Leads sc s t) : Leads sc s (admitUplink b t) := by
  unfold admitUplink; split
  · split
    · exact leads_setUplinkRx _ (leads_storeFirst _ _ _ _ h)
    · exact leads_countDrop _ (leads_setUplinkRx _ h)
  · exact leads_countDrop _ (leads_setUplinkRx _ h)
  · split
    · exact leads_countFlood (leads_setUplinkRx _ h)
    · exact leads_setUplinkRx _ (leads_storeFirst _ _ _ _ h)
  · exact leads_countFlood (leads_setUplinkRx _ h)
  · exact leads_setUplinkRx _ h
  · exact h

theorem leads_growLine (l : Line) (b : List Byte) (h : Leads sc s t) : Leads sc s (growLine l b t) := by
  unfold growLine; split
  · split
    · split
      · exact leads_setLineRx _ _ (leads_storeMore _ _ _ _ _ h)
      · exact leads_dropLineRx _ h
    · exact leads_dropLineRx _ h
  · exact h

theorem leads_dropDownstream (r x : UplinkRx) (h : Leads sc s t) : Leads sc s (dropDownstream r x t) := by
  unfold dropDownstream; split
  · exact leads_releaseChain _ (leads_countDrop _ (leads_setUplinkRx _ h))
  · exact leads_releaseChain _ (leads_countFlood (leads_setUplinkRx _ h))
  · exact leads_countDrop _ (leads_setUplinkRx _ h)
  · exact leads_countFlood (leads_setUplinkRx _ h)
  · exact h

theorem leads_growUplink (b : List Byte) (h : Leads sc s t) : Leads sc s (growUplink b t) := by
  unfold growUplink; split
  · split
    · exact leads_setUplinkRx _ (leads_storeMore _ _ _ _ _ h)
    · exact leads_dropDownstream _ _ h
  · split
    · exact leads_setUplinkRx _ (leads_storeMore _ _ _ _ _ h)
    · exact leads_dropDownstream _ _ h
  · exact leads_dropDownstream _ _ h
  · exact leads_dropDownstream _ _ h
  · exact leads_setUplinkRx _ h
  · exact h

theorem leads_endLine (l : Line) (b : List Byte) (h : Leads sc s t) : Leads sc s (endLine l b t) := by
  unfold endLine; split
  · exact leads_countDrop _ h
  · exact leads_setLineRx _ _ h
  · dsimp only; split
    · exact leads_releaseChain _ (leads_countDrop _ (leads_setLineRx _ _ h))
    · exact leads_setLineRx _ _
        (leads_store _ (fun _ => ⟨writeFrame_written _ _ _ (.refl _) _ _, Nat.le_refl _⟩) h)

theorem addHolders_bytes (cells : List CellNo) (ls : List Line) (st : Store) :
    (ls.foldl (fun t _ => addHolder cells t) st).memory = st.memory ∧
    (ls.foldl (fun t _ => addHolder cells t) st).um = st.um := by
  induction ls generalizing st with
  | nil => exact ⟨rfl, rfl⟩
  | cons l ls ih => exact ih (addHolder cells st)

theorem leads_enterDown (ls : List Line) (e : Entry) (chain : List CellNo) (n : Nat) (b : List Byte) (h : Leads sc s t) :
    Leads sc s (setStore (fun st => enterDown ls e (storeMore chain n b st)) t) := by
  refine leads_store _ (fun st => ?_) h
  have hb := addHolders_bytes e.cells (ls.drop 1) (storeMore chain n b st)
  simp only [enterDown, hb.1, hb.2]
  exact ⟨writeFrame_written _ _ _ (.refl _) _ _, Nat.le_refl _⟩

theorem leads_checkPorts (ls : List Line) (h : Leads sc s t) : Leads sc s (ls.foldl (fun s l => checkPort l s) t) := by
  induction ls generalizing t with
  | nil => exact h
  | cons l ls ih => exact ih (leads_checkPort l h)

theorem leads_endUplink (b : List Byte) (h : Leads sc s t) : Leads sc s (endUplink b t) := by
  unfold endUplink; split
  · exact leads_countMalformed h
  · exact leads_setUplinkRx _ h
  · exact h
  · exact leads_countDrop _ (leads_setUplinkRx _ h)
  · exact leads_countFlood (leads_setUplinkRx _ h)
  · dsimp only; split
    · exact leads_checkPort _ (leads_setUplinkRx _ (leads_enterDown _ _ _ _ _ h))
    · exact leads_dropDownstream _ _ h
  · dsimp only; split
    · exact leads_checkPorts _ (leads_setUplinkRx _ (leads_enterDown _ _ _ _ _ h))
    · exact leads_dropDownstream _ _ h

theorem leads_abortLine (l : Line) (h : Leads sc s t) : Leads sc s (abortLine l t) := by
  unfold abortLine; split
  · exact leads_countDrop _ h
  · exact leads_setLineRx _ _ h
  · exact leads_releaseChain _ (leads_countDrop _ (leads_setLineRx _ _ h))

theorem leads_abortUplink (h : Leads sc s t) : Leads sc s (abortUplink t) := by
  unfold abortUplink; split
  · exact leads_countMalformed h
  · exact leads_setUplinkRx _ h
  · exact leads_countMalformed (leads_setUplinkRx _ h)
  · exact leads_dropDownstream _ _ h

theorem leads_admitFirst (p : Port) (b : Byte) (h : Leads sc s t) : Leads sc s (admitFirst p b t) := by
  cases p
  · exact leads_admitLine _ _ h
  · exact leads_admitUplink _ h

theorem leads_growFrame (p : Port) (b : List Byte) (h : Leads sc s t) : Leads sc s (growFrame p b t) := by
  cases p
  · exact leads_growLine _ _ h
  · exact leads_growUplink _ h

theorem leads_endFrame (p : Port) (b : List Byte) (h : Leads sc s t) : Leads sc s (endFrame p b t) := by
  cases p
  · exact leads_endLine _ _ h
  · exact leads_endUplink _ h

theorem leads_abortFrame (p : Port) (h : Leads sc s t) : Leads sc s (abortFrame p t) := by
  cases p
  · exact leads_abortLine _ h
  · exact leads_abortUplink h

theorem leads_offerByte (l : Line) (h : Leads sc s t) : Leads sc s (offerByte l t) := by
  refine leads_line _ _ (fun x => ?_) h
  split <;> exact ⟨rfl, rfl, rfl, rfl, Iff.rfl, rfl⟩

/-! ### Pacing and the uplink port -/

theorem leads_takeUnderflow (p : Pacer) (h : Leads sc s t) : Leads sc s (takeUnderflow p t) := by
  unfold takeUnderflow; split
  · next e =>
    split
    · refine leads_sched _ ⟨fun k => ?_, fun _ => .inl (Nat.le_refl _), .inl rfl, rfl⟩ h
      simp only [look_alter]; split
      · next hk => subst hk; exact .inr (.inl rfl)
      · exact .inl rfl
    · exact h
  · split
    · unfold underflowStation; dsimp only
      have h1 := leads_sched (fun sc => { sc with
        stationLevel := refill sc.stationDepth sc.stationLevel
        stationCounter := underflowCounter sc.stationCounter })
        ⟨fun _ => .inl rfl, fun _ => .inl (Nat.le_refl _), .inr (.inl rfl), rfl⟩ h
      split
      · exact leads_startOpportunity h1
      · exact h1
    · exact h

theorem leads_endWait (hs : sc.wait = true) (h : Leads sc s t) : Leads sc s (setMgmt endWait t) := by
  refine h.tail (.mgmt _ _ ?_ (.inl hs))
  unfold endWait; split <;> exact Nat.le_refl _

theorem leads_endWaitFor (hs : sc.wait = true) (f : UplinkFrame) (h : Leads sc s t) : Leads sc s (endWaitFor f t) := by
  unfold endWaitFor; split
  · exact leads_endWait hs h
  · exact h

theorem leads_completeUp (hs : sc.wait = true) (h : Leads sc s t) : Leads sc s (completeUp t) := by
  unfold completeUp; split
  · exact h
  · next f _ =>
    dsimp only
    have h1 := leads_endWaitFor hs f (leads_releaseChain f.cells
      (leads_sched (fun sc => { sc with inFlight := none, lastEnd := some .close }) (.still _ _ rfl rfl rfl rfl) h))
    split
    · exact h1
    · exact leads_startOpportunity h1

theorem leads_startReports (h : Leads sc s t) : Leads sc s (startReports t) := by
  unfold startReports; dsimp only; split
  · exact leads_queueReport _ (leads_queueReport _ h)
  · exact leads_queueReport _ h

/-! ### Requests -/

theorem leads_request (f : State → State) (hf : ∀ t, Leads sc s t → Leads sc s (f t)) (h : Leads sc s t) :
    Leads sc s (request f t) := by
  have h1 : Leads sc s (setStore endRequestFrame t) :=
    leads_storeOther _ (fun st => by unfold endRequestFrame; split <;> exact ⟨rfl, rfl⟩) h
  unfold request; dsimp only; split
  · exact hf _ h1
  · exact h1

theorem leads_onLine (c n l : Byte) (f : Line → State → State) (hf : ∀ l t, Leads sc s t → Leads sc s (f l t))
    (h : Leads sc s t) : Leads sc s (onLine c n l f t) := by
  unfold onLine; split
  · exact hf _ _ h
  · exact leads_respond _ _ _ _ _ h

theorem leads_done (c n : Byte) (d : List Byte) (h : Leads sc s t) : Leads sc s (done c n d t) := leads_respond _ _ _ _ _ h
theorem leads_refuse (c n : Byte) (d : List Byte) (h : Leads sc s t) : Leads sc s (refuse c n d t) := leads_respond _ _ _ _ _ h
theorem leads_answer (c n : Byte) (a : Answer) (h : Leads sc s t) : Leads sc s (answer c n a t) := leads_respond _ _ _ _ _ h

theorem leads_barTo (hs : sc.barred = true) (c n : Byte) (b : Bool) (l : Line) (h : Leads sc s t) :
    Leads sc s (barTo c n b l t) := leads_done _ _ _ (leads_setBarred hs _ _ h)

/-- An index that holds a tag is found (R94). -/
theorem holderOfTag_none {map : Table (Option MapEntry) 32} {tag : Nat} (h : holderOfTag map tag = none)
    (y : MapIndex) : ∀ n ∈ look map y, n.tag ≠ tag := by
  intro n hn e
  have := (List.findSome?_eq_none_iff.mp h) y (List.mem_finRange y)
  simp only [Option.mem_def] at hn
  simp [hn, e] at this

theorem holderOfTag_some {map : Table (Option MapEntry) 32} {tag : Nat} {y : MapIndex} {e : MapEntry}
    (h : holderOfTag map tag = some (y, e)) : look map y = some e ∧ e.tag = tag := by
  obtain ⟨i, _, hi⟩ := List.exists_of_findSome?_eq_some h
  split at hi
  · next e' he =>
    split at hi
    · next ht =>
      simp only [Option.some.injEq, Prod.mk.injEq] at hi
      obtain ⟨rfl, rfl⟩ := hi
      exact ⟨he, ht⟩
    · cases hi
  · cases hi

theorem leads_putMap (hs : sc.map = true) (x : MapIndex) (e : Option MapEntry) (hp : Placeable t x e)
    (h : Leads sc s t) : Leads sc s (putMap x e t) := h.tail (.map x e t hs hp)

theorem leads_setTagRequest (hs : sc.map = true) (n x : Byte) (tag : BitVec 16) (l c : Byte) (h : Leads sc s t) :
    Leads sc s (setTagRequest n x tag l c t) := by
  unfold setTagRequest; split
  · exact leads_answer _ _ _ h
  · split
    · split
      · exact leads_respond _ _ _ _ _ h
      · next h0 =>
        have hz : tag.toNat ≠ 0 := fun e => h0 (BitVec.eq_of_toNat_eq (by simpa using e))
        unfold placeTag; split
        · exact leads_refuse _ _ _ h
        · next hm =>
          split
          · next y e hy =>
            split
            · next hyx =>
              refine leads_done _ _ _ (leads_putMap hs _ _ ?_ h)
              rintro m ⟨rfl⟩
              exact ⟨hz, hm, .inr ⟨e, hyx ▸ holderOfTag_some hy⟩⟩
            · exact leads_refuse _ _ _ h
          · next hn =>
            refine leads_done _ _ _ (leads_putMap hs _ _ ?_ h)
            rintro m ⟨rfl⟩
            exact ⟨hz, hm, .inl (holderOfTag_none hn)⟩
    · exact leads_respond _ _ _ _ _ h

theorem leads_clearTagRequest (hs : sc.map = true) (n x : Byte) (h : Leads sc s t) :
    Leads sc s (clearTagRequest n x t) := by
  unfold clearTagRequest; split
  · exact leads_answer _ _ _ h
  · exact leads_done _ _ _ (leads_putMap hs _ _ (fun _ hm => by cases hm) h)

theorem leads_writeStep (hs : sc.steps = true) (n : Byte) (k : Slot) (p : Option Step) (h : Leads sc s t) :
    Leads sc s (writeStep n k p t) := by
  unfold writeStep; split
  · exact leads_refuse _ _ _ h
  · exact leads_done _ _ _ (h.tail (.seq _ _ id (.inl hs)))

theorem leads_loadStepRequest (hs : sc.steps = true) (n k : Byte) (r : RawStep) (h : Leads sc s t) :
    Leads sc s (loadStepRequest n k r t) := by
  unfold loadStepRequest; split
  · exact leads_answer _ _ _ h
  · split
    · exact leads_writeStep hs _ _ _ h
    · exact leads_respond _ _ _ _ _ h

theorem leads_emptyStepRequest (hs : sc.steps = true) (n k : Byte) (h : Leads sc s t) :
    Leads sc s (emptyStepRequest n k t) := by
  unfold emptyStepRequest; split
  · exact leads_answer _ _ _ h
  · exact leads_writeStep hs _ _ _ h

theorem leads_enterTail (r : Run) (hr : t.seq.queue.length < Config.queuedRuns) (ho : isTriggered r = false)
    (h : Leads sc s t) : Leads sc s (enterTail r t) := by
  refine leads_refreshTests (leads_seq _ (fun hq => ⟨?_, ?_⟩) h)
  · simp only [List.length_append, List.length_cons, List.length_nil]; omega
  · refine List.pairwise_append.mpr ⟨hq.2, List.pairwise_singleton _ _, ?_⟩
    intro a _ b hb hc
    rw [List.mem_singleton.mp hb, ho] at hc; cases hc

theorem leads_submitRequest (n l k o : Byte) (h : Leads sc s t) : Leads sc s (submitRequest n l k o t) := by
  unfold submitRequest; split
  · split
    · exact leads_refuse _ _ _ h
    · next hr =>
      refine leads_done _ _ _ (leads_activate (leads_enterTail _ ?_ rfl (leads_takeId h)))
      unfold submitRefusal at hr
      split at hr
      · cases hr
      · next hq => exact Nat.lt_of_not_le hq
  · exact leads_answer _ _ _ h

theorem withoutRun_sublist (id : Nat) (q : List Run) : (withoutRun id q).Sublist q := List.filter_sublist

theorem leads_cancelRequest (n i : Byte) (h : Leads sc s t) : Leads sc s (cancelRequest n i t) := by
  unfold cancelRequest; split
  · exact leads_answer _ _ _ h
  · split
    · next s1 hs =>
      refine leads_done _ _ _ ?_
      unfold cancelRun at hs
      split at hs
      · cases hs
        exact leads_refreshTests (leads_endRecord _ _ _ (leads_seqOther _ (withoutRun_sublist _ _) h))
      · split at hs
        · cases hs; exact leads_seqSame _ (fun _ => ⟨rfl, rfl⟩) h
        · split at hs
          · split at hs
            · unfold cancelActive at hs
              split at hs
              · cases hs
                exact leads_activate (leads_refreshTests (leads_endRecord _ _ _ (leads_clearActive (leads_giveUp h))))
              · split at hs
                · cases hs
                · cases hs; exact leads_setActive _ h
            · cases hs
          · cases hs
    · exact leads_refuse _ _ _ h

theorem leads_clearFaultLine (n : Byte) (l : Line) (h : Leads sc s t) : Leads sc s (clearFaultLine n l t) := by
  unfold clearFaultLine; split
  · unfold clearLineFault; dsimp only
    have h1 : Leads sc s (discardFault l (setHazard l false t)) :=
      leads_seqSame _ (fun _ => ⟨rfl, rfl⟩) (leads_setHazard _ _ h)
    split
    · next r _ =>
      split
      · next horigin =>
        have ho : isTriggered (requeued r) = false := by simp [isTriggered, requeued, horigin]
        split
        · exact leads_refuse _ _ _ h
        · next hq =>
          exact leads_done _ _ _ (leads_activate (leads_enterTail _ (Nat.lt_of_not_le hq) ho h1))
      · exact leads_done _ _ _ h1
    · exact leads_done _ _ _ h1
  · exact leads_refuse _ _ _ h

theorem leads_clearLatch (n : Byte) (h : Leads sc s t) : Leads sc s (clearLatch n t) := by
  unfold clearLatch; split
  · exact leads_done _ _ _ (leads_seqSame _ (fun _ => ⟨rfl, rfl⟩) h)
  · exact leads_refuse _ _ _ h

theorem leads_realignLine (n : Byte) (l : Line) (h : Leads sc s t) : Leads sc s (realignLine n l t) := by
  unfold realignLine; split
  · exact leads_refuse _ _ _ h
  · dsimp only
    refine leads_done _ _ _ ?_
    split
    · exact leads_sup _ _ (leads_alignerLoss _ h)
    · exact leads_sup _ _ h

theorem leads_restartRequest (hs : sc.wait = true) (n : Byte) (h : Leads sc s t) : Leads sc s (restartRequest n t) :=
  (leads_respond _ _ _ _ _ h).tail (.mgmt _ _ (Nat.le_refl _) (.inl hs))

theorem leads_unknownRequest (c : List Byte) (h : Leads sc s t) : Leads sc s (unknownRequest c t) := by
  unfold unknownRequest; split <;> exact leads_answer _ _ _ h

/-! ### The commands -/

/-- The commands that do not start or hold the part. -/
def isLive : Instr → Bool
  | .powerOn | .pwrgoodFall | .restartStart | .configurationReadEnd .. => false
  | _ => true

/-- The kinds of change that a command may make beyond those that every command may make. -/
def scopeOf : Instr → Scope
  | .noticeEnd .. | .noticeCompletion => { Scope.none with share := true, bus := true, view := true }
  | .isolationTimerExpiry => { Scope.none with share := true, bus := true }
  | .presenceTimerExpiry _ => { Scope.none with share := true, view := true }
  | .noticePeriodExpiry | .capacityViewExpiry | .riseCheck => { Scope.none with share := true }
  | .contentionLoss => { Scope.none with bus := true, view := true }
  | .firstRecessiveRun | .duplicateNumberHoldoffExpiry | .accessGapExpiry | .busQuietTimeout | .startBitRead =>
    { Scope.none with bus := true }
  | .holdExpiry | .turnLapse | .relayReleaseTimeEnd => { Scope.none with view := true }
  | .setTag .. | .clearTag .. => { Scope.none with map := true }
  | .loadStep .. | .loadStepEmpty .. => { Scope.none with steps := true }
  | .sampleTaken .. => { Scope.none with results := true }
  | .barLine .. | .unbarLine .. => { Scope.none with barred := true }
  | .uplinkTransmissionComplete | .restart _ | .restartWaitTimeout => { Scope.none with wait := true }
  | _ => Scope.none

/-- The effect of a request is a chain within the request's scope. -/
theorem leads_requestEffect (c : Instr) (hs : sc = scopeOf c) (h : Leads sc s t) : Leads sc s (requestEffect c t) := by
  cases c <;> simp only [requestEffect]
  case readLine n l => exact leads_onLine _ _ _ _ (fun _ _ h => leads_done _ _ _ h) h
  case readStation n => exact leads_done _ _ _ h
  case readPeers n => exact leads_done _ _ _ h
  case readResults n l => exact leads_onLine _ _ _ _ (fun _ _ h => leads_done _ _ _ h) h
  case barLine n l => exact leads_onLine _ _ _ _ (fun _ _ h => leads_barTo (by rw [hs]; rfl) _ _ _ _ h) h
  case unbarLine n l => exact leads_onLine _ _ _ _ (fun _ _ h => leads_barTo (by rw [hs]; rfl) _ _ _ _ h) h
  case setTag n x t l c => exact leads_setTagRequest (by rw [hs]; rfl) _ _ _ _ _ h
  case clearTag n x => exact leads_clearTagRequest (by rw [hs]; rfl) _ _ h
  case loadStep n k r => exact leads_loadStepRequest (by rw [hs]; rfl) _ _ _ h
  case loadStepEmpty n k => exact leads_emptyStepRequest (by rw [hs]; rfl) _ _ h
  case submitRun n l k o => exact leads_submitRequest _ _ _ _ h
  case cancelRun n i => exact leads_cancelRequest _ _ h
  case clearFault n l => exact leads_onLine _ _ _ _ (fun _ _ h => leads_clearFaultLine _ _ h) h
  case clearFaultLatch n => exact leads_clearLatch _ h
  case realign n l => exact leads_onLine _ _ _ _ (fun _ _ h => leads_realignLine _ _ h) h
  case restart n => exact leads_restartRequest (by rw [hs]; rfl) _ h
  case unknown c => exact leads_unknownRequest _ h
  all_goals exact h

/-- A request command is a chain within its scope: it is taken as it is, or as UNKNOWN. -/
theorem leads_takeRequest (c : Instr) : Leads (scopeOf c) s (live (takeRequest c) s) := by
  refine leads_live _ (leads_request _ (fun t h => ?_) .refl)
  have hu : ∀ u, Leads (scopeOf c) s (requestEffect (.unknown u) t) := fun u => leads_unknownRequest _ h
  unfold asReceived; split
  · split
    · exact leads_requestEffect c rfl h
    · exact hu _
  · exact leads_requestEffect c rfl h

/-- A command of the blocks answers a next state to which a chain of elementary changes leads, within the scope of the
command that it acts as. -/
theorem exec_leads (c : Instr) (hc : isLive c = true) (s : State) :
    ∃ t, exec c s = .next t ∧ Leads (scopeOf (acting s c)) s t := by
  have R := leads_takeRequest (s := s)
  cases c with
  | powerOn => cases hc
  | pwrgoodFall => cases hc
  | restartStart => cases hc
  | configurationReadEnd => cases hc
  | firstRecessiveRun => exact ⟨_, rfl, leads_live _ (leads_takeRecessiveRun rfl .refl)⟩
  | noticeEnd b e => exact ⟨_, rfl, leads_live _ (leads_takeNotice rfl rfl rfl _ .refl)⟩
  | duplicateNumberHoldoffExpiry => exact ⟨_, rfl, leads_live _ (leads_whenDue _ (fun _ => leads_bus rfl _ .refl) .refl)⟩
  | noticeCompletion => exact ⟨_, rfl, leads_live _ (leads_takeCompletion rfl rfl rfl .refl)⟩
  | contentionLoss => exact ⟨_, rfl, leads_live _ (leads_takeLoss rfl rfl .refl)⟩
  | accessGapExpiry => exact ⟨_, rfl, leads_live _ (leads_whenDue _ (fun _ => leads_takeGap rfl .refl) .refl)⟩
  | busQuietTimeout => exact ⟨_, rfl, leads_live _ (leads_whenDue _ (fun _ => leads_takeQuiet rfl .refl) .refl)⟩
  | isolationTimerExpiry =>
    exact ⟨_, rfl, leads_live _ (leads_whenDue _ (fun _ => leads_takeIsolation rfl rfl .refl) .refl)⟩
  | noticePeriodExpiry => exact ⟨_, rfl, leads_live _ (leads_whenDue _ (fun _ => leads_takeNoticePeriod rfl .refl) .refl)⟩
  | presenceTimerExpiry k =>
    exact ⟨_, rfl, leads_live _
      (leads_whenDue _ (fun h => leads_takePresenceExpiry rfl rfl k (presenceDue_ne h) .refl) .refl)⟩
  | capacityViewExpiry =>
    exact ⟨_, rfl, leads_live _ (leads_whenDue _ (fun _ => leads_takeCapacityExpiry rfl .refl) .refl)⟩
  | riseCheck => exact ⟨_, rfl, leads_live _ (leads_whenDue _ (fun _ => leads_riseCheck rfl .refl) .refl)⟩
  | firstCellAdmission p b => exact ⟨_, rfl, leads_live _ (leads_admitFirst p b .refl)⟩
  | furtherCellNeeded p b => exact ⟨_, rfl, leads_live _ (leads_growFrame p _ .refl)⟩
  | frameReceptionEnd p b =>
    refine ⟨_, rfl, leads_live _ ?_⟩
    cases p with
    | line l => cases hrx : s.store.uplinkRx <;> simp only [takeFrameEnd, acting] <;> exact leads_endFrame _ b .refl
    | uplink =>
      cases hrx : s.store.uplinkRx with
      | request l k n =>
        simp only [takeFrameEnd, acting, hrx]
        exact leads_request _ (fun t h => leads_requestEffect _ rfl h) .refl
      | _ =>
        simp only [takeFrameEnd, acting, hrx]
        exact leads_endFrame _ b .refl
  | frameAbortReceived p => exact ⟨_, rfl, leads_live _ (leads_abortFrame p .refl)⟩
  | uplinkHeaderEnd t k n => exact ⟨_, rfl, leads_live _ (leads_takeHeader _ .refl)⟩
  | pacingUnderflow p => exact ⟨_, rfl, leads_live _ (leads_takeUnderflow p .refl)⟩
  | uplinkTransmissionComplete => exact ⟨_, rfl, leads_live _ (leads_completeUp rfl .refl)⟩
  | lpRdyAsserted l => exact ⟨_, rfl, leads_live _ (leads_checkPort l (leads_setReady l true .refl))⟩
  | lpRdyWithdrawn l => exact ⟨_, rfl, leads_live _ (leads_setReady l false .refl)⟩
  | linePortTransmissionComplete l => exact ⟨_, rfl, leads_live _ (leads_completeDown l .refl)⟩
  | searchMarkerFound l n => exact ⟨_, rfl, leads_live _ (leads_takeMarker l n .refl)⟩
  | searchTimeExpiry l => exact ⟨_, rfl, leads_live _ (leads_whenDue _ (fun _ => leads_takeSearchTime l .refl) .refl)⟩
  | reportPositionEnd l w => exact ⟨_, rfl, leads_live _ (leads_takeReport l w .refl)⟩
  | losTriggerTimerExpiry l => exact ⟨_, rfl, leads_live _ (leads_whenDue _ (fun _ => leads_takeLosTimer l .refl) .refl)⟩
  | holdExpiry => exact ⟨_, rfl, leads_live _ (leads_whenDue _ (fun _ => leads_takeHoldExpiry rfl .refl) .refl)⟩
  | turnLapse => exact ⟨_, rfl, leads_live _ (leads_whenDue _ (fun _ => leads_takeLapse rfl .refl) .refl)⟩
  | confirmWindowEnd b => exact ⟨_, rfl, leads_live _ (leads_whenDue _ (fun _ => leads_takeConfirm b .refl) .refl)⟩
  | relayReleaseTimeEnd => exact ⟨_, rfl, leads_live _ (leads_whenDue _ (fun _ => leads_takeReleaseEnd rfl .refl) .refl)⟩
  | ownHoldLimit => exact ⟨_, rfl, leads_live _ (leads_whenDue _ (fun _ => leads_takeOwnLimit .refl) .refl)⟩
  | occupancyLoss => exact ⟨_, rfl, leads_live _ (leads_takeOccupancyLoss .refl)⟩
  | operateTimeEnd => exact ⟨_, rfl, leads_live _ (leads_whenDue _ (fun _ => leads_takeOperateEnd .refl) .refl)⟩
  | settleTimeEnd => exact ⟨_, rfl, leads_live _ (leads_whenDue _ (fun _ => leads_takeSettleEnd .refl) .refl)⟩
  | dischargeTimeEnd => exact ⟨_, rfl, leads_live _ (leads_whenDue _ (fun _ => leads_takeDischargeEnd .refl) .refl)⟩
  | endingDischargeEnd => exact ⟨_, rfl, leads_live _ (leads_whenDue _ (fun _ => leads_takeEndingEnd .refl) .refl)⟩
  | holdoffExpiry l => exact ⟨_, rfl, leads_live _ (leads_whenDue _ (fun _ => leads_endHoldoff l .refl) .refl)⟩
  | sampleTaken v i => exact ⟨_, rfl, leads_live _ (leads_samplePair rfl _ _ .refl)⟩
  | sampleFrameFault => exact ⟨_, rfl, leads_live _ (leads_meas _ (fun _ => rfl) .refl)⟩
  | readLine => exact ⟨_, rfl, R _⟩
  | readStation => exact ⟨_, rfl, R _⟩
  | readPeers => exact ⟨_, rfl, R _⟩
  | readResults => exact ⟨_, rfl, R _⟩
  | barLine => exact ⟨_, rfl, R _⟩
  | unbarLine => exact ⟨_, rfl, R _⟩
  | setTag => exact ⟨_, rfl, R _⟩
  | clearTag => exact ⟨_, rfl, R _⟩
  | loadStep => exact ⟨_, rfl, R _⟩
  | loadStepEmpty => exact ⟨_, rfl, R _⟩
  | submitRun => exact ⟨_, rfl, R _⟩
  | cancelRun => exact ⟨_, rfl, R _⟩
  | clearFault => exact ⟨_, rfl, R _⟩
  | clearFaultLatch => exact ⟨_, rfl, R _⟩
  | realign => exact ⟨_, rfl, R _⟩
  | restart => exact ⟨_, rfl, R _⟩
  | unknown => exact ⟨_, rfl, R _⟩
  | restartWaitTimeout => exact ⟨_, rfl, leads_live _ (leads_whenDue _ (fun _ => leads_endWait rfl .refl) .refl)⟩
  | startBitRead => exact ⟨_, rfl, leads_live _ (leads_takeStartBit rfl .refl)⟩
  | upstreamByteArrival l => exact ⟨_, rfl, leads_live _ (leads_offerByte l .refl)⟩

end Sys2Proof.Machine
end

