-- ==== Sys2Proof/Laws/Frames.lean ====
section
/-! SUPPORT. What the shared operations leave alone: reports and their offers, responses, references given up, the
scheduler's looks, turns and searches, a recomputation of the share, the asking of a notice, and the search of a report
position's bits. -/

namespace Sys2Proof.Machine

theorem Undisturbed.refl (s : State) : Undisturbed s s :=
  ⟨rfl, rfl, rfl, ⟨rfl, rfl, rfl⟩, rfl, rfl, rfl, rfl, rfl, rfl, rfl, rfl, rfl, fun _ => rfl, rfl, rfl, rfl, rfl, rfl, rfl, rfl⟩

theorem Undisturbed.trans {s t u : State} (h : Undisturbed s t) (k : Undisturbed t u) : Undisturbed s u where
  pending := k.pending.trans h.pending
  power := k.power.trans h.power
  start := k.start.trans h.start
  clocks := ⟨k.clocks.1.trans h.clocks.1, k.clocks.2.1.trans h.clocks.2.1, k.clocks.2.2.trans h.clocks.2.2⟩
  loader := k.loader.trans h.loader
  notices := k.notices.trans h.notices
  share := k.share.trans h.share
  dist := k.dist.trans h.dist
  sup := k.sup.trans h.sup
  claims := k.claims.trans h.claims
  seq := k.seq.trans h.seq
  meas := k.meas.trans h.meas
  wait := k.wait.trans h.wait
  lines := fun l => (k.lines l).trans (h.lines l)
  down := k.down.trans h.down
  lineRx := k.lineRx.trans h.lineRx
  uplinkRx := k.uplinkRx.trans h.uplinkRx
  floodDrop := k.floodDrop.trans h.floodDrop
  counters := k.counters.trans h.counters
  stationCounter := k.stationCounter.trans h.stationCounter
  stationDepth := k.stationDepth.trans h.stationDepth

/-- A change of the store alone that leaves the downstream queues, the receptions and the flood-drop tally alone. -/
theorem undisturbed_setStore {f : Store → Store} {s : State} (h1 : (f s.store).down = s.store.down)
    (h2 : (f s.store).lineRx = s.store.lineRx) (h3 : (f s.store).uplinkRx = s.store.uplinkRx)
    (h4 : (f s.store).floodDrop = s.store.floodDrop) : Undisturbed s (setStore f s) :=
  ⟨rfl, rfl, rfl, ⟨rfl, rfl, rfl⟩, rfl, rfl, rfl, rfl, rfl, rfl, rfl, rfl, rfl, fun _ => rfl, h1, h2, h3, h4, rfl, rfl, rfl⟩

theorem undisturbed_setMgmt {f : Management → Management} {s : State} (h : (f s.mgmt).wait = s.mgmt.wait) :
    Undisturbed s (setMgmt f s) :=
  ⟨rfl, rfl, rfl, ⟨rfl, rfl, rfl⟩, rfl, rfl, rfl, rfl, rfl, rfl, rfl, rfl, h, fun _ => rfl, rfl, rfl, rfl, rfl, rfl, rfl, rfl⟩

theorem undisturbed_setSched (f : Scheduler → Scheduler) (s : State)
    (h : ∀ sc, (f sc).counters = sc.counters ∧ (f sc).stationCounter = sc.stationCounter ∧
      (f sc).stationDepth = sc.stationDepth) : Undisturbed s (setSched f s) :=
  ⟨rfl, rfl, rfl, ⟨rfl, rfl, rfl⟩, rfl, rfl, rfl, rfl, rfl, rfl, rfl, rfl, rfl, fun _ => rfl, rfl, rfl, rfl, rfl,
    (h _).1, (h _).2.1, (h _).2.2⟩

/-! ### The store -/

theorem dropHolder_frame (cells : List CellNo) (st : Store) :
    (dropHolder cells st).down = st.down ∧ (dropHolder cells st).lineRx = st.lineRx ∧
    (dropHolder cells st).uplinkRx = st.uplinkRx ∧ (dropHolder cells st).floodDrop = st.floodDrop ∧
    (dropHolder cells st).up = st.up ∧ (dropHolder cells st).um = st.um ∧
    (dropHolder cells st).memory = st.memory ∧ (dropHolder cells st).lowMark = st.lowMark := by
  induction cells generalizing st with
  | nil => exact ⟨rfl, rfl, rfl, rfl, rfl, rfl, rfl, rfl⟩
  | cons c cs ih => exact ih (dropCell st c)

theorem dropEntries_frame (es : List Entry) (st : Store) :
    (dropEntries es st).down = st.down ∧ (dropEntries es st).lineRx = st.lineRx ∧
    (dropEntries es st).uplinkRx = st.uplinkRx ∧ (dropEntries es st).floodDrop = st.floodDrop ∧
    (dropEntries es st).up = st.up ∧ (dropEntries es st).um = st.um ∧
    (dropEntries es st).memory = st.memory ∧ (dropEntries es st).lowMark = st.lowMark := by
  induction es generalizing st with
  | nil => exact ⟨rfl, rfl, rfl, rfl, rfl, rfl, rfl, rfl⟩
  | cons e es ih =>
    have h := ih (dropHolder e.cells st)
    have k := dropHolder_frame e.cells st
    simp only [dropEntries, List.foldl_cons] at h ⊢
    exact ⟨h.1.trans k.1, h.2.1.trans k.2.1, h.2.2.1.trans k.2.2.1, h.2.2.2.1.trans k.2.2.2.1,
      h.2.2.2.2.1.trans k.2.2.2.2.1, h.2.2.2.2.2.1.trans k.2.2.2.2.2.1, h.2.2.2.2.2.2.1.trans k.2.2.2.2.2.2.1,
      h.2.2.2.2.2.2.2.trans k.2.2.2.2.2.2.2⟩

/-! ### Reports, references and responses -/

theorem offerUpTo_frame (n : Nat) (s : State) :
    Undisturbed s (offerUpTo n s) ∧ (offerUpTo n s).lines = s.lines ∧ (offerUpTo n s).sched = s.sched ∧
    (offerUpTo n s).store.up = s.store.up := by
  induction n generalizing s with
  | zero => exact ⟨.refl s, rfl, rfl, rfl⟩
  | succ n ih =>
    unfold offerUpTo
    split
    · exact ⟨.refl s, rfl, rfl, rfl⟩
    · next r rest _ =>
      split
      · obtain ⟨h1, h2, h3, h4⟩ := ih (sendReport r rest s)
        refine ⟨.trans ?_ h1, h2, h3, h4⟩
        exact .trans (undisturbed_setStore (f := enterUm s.time (reportFrame s.mgmt.missed r) false) rfl rfl rfl rfl)
          (undisturbed_setMgmt rfl)
      · exact ⟨.refl s, rfl, rfl, rfl⟩

/-- An offer touches cells, UM, the report queue and its flag alone (R167). -/
theorem offer_frame (s : State) :
    Undisturbed s (offer s) ∧ (offer s).lines = s.lines ∧ (offer s).sched = s.sched ∧
    (offer s).store.up = s.store.up := offerUpTo_frame _ s

/-- A report touches cells, UM, the report queue and its flag alone (R167, R168). -/
theorem queueReport_frame (body : ReportBody) (s : State) :
    Undisturbed s (queueReport body s) ∧ (queueReport body s).lines = s.lines ∧
    (queueReport body s).sched = s.sched ∧ (queueReport body s).store.up = s.store.up := by
  unfold queueReport
  split
  · exact ⟨undisturbed_setMgmt rfl, rfl, rfl, rfl⟩
  · dsimp only
    split
    · obtain ⟨h1, h2, h3, h4⟩ := offer_frame (setMgmt (fun m => { m with reports := m.reports ++ [⟨s.time, body⟩] }) s)
      exact ⟨.trans (undisturbed_setMgmt rfl) h1, h2, h3, h4⟩
    · exact ⟨undisturbed_setMgmt rfl, rfl, rfl, rfl⟩

/-- References given up touch cells, UM, the report queue and its flag alone (R63, R167). -/
theorem releaseEntries_frame (es : List Entry) (s : State) :
    Undisturbed s (releaseEntries es s) ∧ (releaseEntries es s).lines = s.lines ∧
    (releaseEntries es s).sched = s.sched ∧ (releaseEntries es s).store.up = s.store.up := by
  obtain ⟨h1, h2, h3, h4⟩ := offer_frame (setStore (dropEntries es) s)
  have k := dropEntries_frame es s.store
  exact ⟨.trans (undisturbed_setStore k.1 k.2.1 k.2.2.1 k.2.2.2.1) h1, h2, h3, h4.trans k.2.2.2.2.1⟩

theorem releaseChain_frame (cells : List CellNo) (s : State) :
    Undisturbed s (releaseChain cells s) ∧ (releaseChain cells s).lines = s.lines ∧
    (releaseChain cells s).sched = s.sched ∧ (releaseChain cells s).store.up = s.store.up := by
  obtain ⟨h1, h2, h3, h4⟩ := offer_frame (setStore (dropHolder cells) s)
  have k := dropHolder_frame cells s.store
  exact ⟨.trans (undisturbed_setStore k.1 k.2.1 k.2.2.1 k.2.2.2.1) h1, h2, h3, h4.trans k.2.2.2.2.1⟩

/-- A response touches cells, UM, the report queue and its flag alone (R164). -/
theorem respond_frame (code num : Byte) (a : Answer) (data : List Byte) (w : Bool) (s : State) :
    Undisturbed s (respond code num a data w s) ∧ (respond code num a data w s).lines = s.lines ∧
    (respond code num a data w s).sched = s.sched ∧ (respond code num a data w s).store.up = s.store.up := by
  unfold respond
  dsimp only
  split
  · obtain ⟨h1, h2, h3, h4⟩ := offer_frame (setStore (enterUm s.time (responseFrame code num a data) w) s)
    exact ⟨.trans (undisturbed_setStore rfl rfl rfl rfl) h1, h2, h3, h4⟩
  · obtain ⟨h1, h2, h3, h4⟩ := offer_frame (setMgmt (fun m => { m with missed := true }) s)
    exact ⟨.trans (undisturbed_setMgmt rfl) h1, h2, h3, h4⟩

/-! ### The scheduler -/

theorem putQueue_frame (e : RoundEntry) (q : List Entry) (s : State) : Undisturbed s (setStore (putQueue e q) s) := by
  apply undisturbed_setStore <;> (unfold putQueue; split <;> rfl)

theorem undisturbed_countLook (e : RoundEntry) (r : Looked) (s : State) : Undisturbed s (countLook e r s) := by
  unfold countLook
  split
  · next l _ =>
    refine ⟨rfl, rfl, rfl, ⟨rfl, rfl, rfl⟩, rfl, rfl, rfl, rfl, rfl, rfl, rfl, rfl, rfl, fun k => ?_, rfl, rfl, rfl, rfl, rfl,
      rfl, rfl⟩
    by_cases hk : l = k
    · subst hk; simp
    · rw [lineOf_setLine_ne _ _ _ _ hk]
  · split
    · exact undisturbed_setMgmt rfl
    · exact .refl s

theorem undisturbed_lookQueue (e : RoundEntry) (s : State) : Undisturbed s (lookQueue e s) :=
  .trans (putQueue_frame e _ s) (.trans (undisturbed_countLook e _ _) (releaseEntries_frame _ _).1)

theorem undisturbed_startFrame (e : RoundEntry) (h : Entry) (rest : List Entry) (s : State) :
    Undisturbed s (startFrame e h rest s) := .trans (putQueue_frame e rest s) (undisturbed_setSched _ _ fun _ => ⟨rfl, rfl, rfl⟩)

theorem undisturbed_startOpportunity (s : State) : Undisturbed s (startOpportunity s) := by
  unfold startOpportunity
  have h := undisturbed_lookQueue s.sched.pointer s
  dsimp only
  split
  · exact h.trans (undisturbed_setSched _ _ fun _ => ⟨rfl, rfl, rfl⟩)
  · split
    · exact h.trans (undisturbed_setSched _ _ fun _ => ⟨rfl, rfl, rfl⟩)
    · next x rest _ =>
      split
      · exact h.trans (undisturbed_setSched _ _ fun _ => ⟨rfl, rfl, rfl⟩)
      · split
        · exact h.trans (undisturbed_setSched _ _ fun _ => ⟨rfl, rfl, rfl⟩)
        · split
          · exact h.trans (undisturbed_setSched _ _ fun _ => ⟨rfl, rfl, rfl⟩)
          · have h2 := h.trans (undisturbed_startFrame s.sched.pointer x rest _)
            refine .trans ?_ (offer_frame _).1
            split
            · exact h2.trans (undisturbed_setSched _ _ fun _ => ⟨rfl, rfl, rfl⟩)
            · exact h2.trans (undisturbed_setSched _ _ fun _ => ⟨rfl, rfl, rfl⟩)

theorem undisturbed_takeTurn (e : RoundEntry) (s : State) : Undisturbed s (takeTurn e s) :=
  undisturbed_setSched _ _ fun _ => ⟨rfl, rfl, rfl⟩

theorem undisturbed_searchUpTo (n : Nat) (s : State) : Undisturbed s (searchUpTo n s) := by
  induction n generalizing s with
  | zero => exact .refl s
  | succ n ih =>
    unfold searchUpTo
    split
    · split
      · exact .refl s
      · exact .trans (undisturbed_takeTurn _ s) (.trans (undisturbed_startOpportunity _) (ih _))
    · exact .refl s

/-- What the searches at the end of a step leave alone (R85 to R89). -/
theorem undisturbed_settle (s : State) : Undisturbed s (settle s) := by
  unfold settle
  split
  · exact undisturbed_searchUpTo _ s
  · exact .refl s

/-- A command of a running part: its effect, then the searches. -/
theorem live_running {f : State → State} {s : State} (h : s.power = .running) : live f s = settle (f s) := by
  unfold live; rw [h]

/-- A part that does not run takes no event of its blocks (R171). -/
theorem live_still {f : State → State} {s : State} (h : s.power ≠ .running) : live f s = s := by
  unfold live; split
  · next hr => exact absurd hr h
  · rfl

/-! ### The share and the outgoing queue -/

/-- A recomputation touches the share unit's values and the scheduler's station counter and bucket alone (R55,
R60). -/
theorem recompute_frame (s : State) :
    (recompute s).pending = s.pending ∧ (recompute s).power = s.power ∧ (recompute s).time = s.time ∧
    (recompute s).loader = s.loader ∧ (recompute s).lines = s.lines ∧ (recompute s).notices = s.notices ∧
    (recompute s).store = s.store ∧ (recompute s).dist = s.dist ∧ (recompute s).sup = s.sup ∧
    (recompute s).claims = s.claims ∧ (recompute s).seq = s.seq ∧ (recompute s).meas = s.meas ∧
    (recompute s).mgmt = s.mgmt ∧ (recompute s).share.peers = s.share.peers ∧
    (recompute s).share.capacity = s.share.capacity ∧ (recompute s).share.periodAt = s.share.periodAt := by
  have hc : ∀ (a : Nat) (s : State), (changeAllowance a s).pending = s.pending ∧ (changeAllowance a s).power = s.power ∧
      (changeAllowance a s).time = s.time ∧ (changeAllowance a s).loader = s.loader ∧
      (changeAllowance a s).lines = s.lines ∧ (changeAllowance a s).notices = s.notices ∧
      (changeAllowance a s).store = s.store ∧ (changeAllowance a s).dist = s.dist ∧
      (changeAllowance a s).sup = s.sup ∧ (changeAllowance a s).claims = s.claims ∧
      (changeAllowance a s).seq = s.seq ∧ (changeAllowance a s).meas = s.meas ∧ (changeAllowance a s).mgmt = s.mgmt ∧
      (changeAllowance a s).share.peers = s.share.peers ∧ (changeAllowance a s).share.capacity = s.share.capacity ∧
      (changeAllowance a s).share.periodAt = s.share.periodAt := by
    intro a s; unfold changeAllowance; split <;> simp
  unfold recompute applyShare
  dsimp only
  split <;> simp [hc]

/-- The value that a recomputation gives the share, clamped to the rate of the uplink port (R55). -/
theorem recompute_share (s : State) : (recompute s).share.share = min Config.portRate (shareOf s) := by
  have hc : ∀ (a : Nat) (s : State), (changeAllowance a s).share.share = s.share.share := by
    intro a s; unfold changeAllowance; split <;> simp
  unfold recompute applyShare
  dsimp only
  split <;> simp [hc]

/-- The asking of a notice touches the notice interface alone (R28). -/
theorem askNotice_frame (a : Ask) (s : State) : ∃ n, askNotice a s = { s with notices := n } := by
  unfold askNotice startHead
  dsimp only
  split
  · split
    · exact ⟨_, rfl⟩
    · exact ⟨_, rfl⟩
  · exact ⟨_, rfl⟩

/-- While the gap has not passed, or a notice is on the bus, the asking of a notice places it and starts nothing
(R23, R25). -/
theorem askNotice_waits (a : Ask) (s : State) (h : s.notices.gapPassed = false ∨ s.notices.receiving = true ∨
    s.notices.attempt.isSome = true) : askNotice a s = setNotices (queueNotice a) s := by
  have hq : (queueNotice a s.notices).gapPassed = s.notices.gapPassed ∧
      (queueNotice a s.notices).receiving = s.notices.receiving ∧
      (queueNotice a s.notices).attempt = s.notices.attempt := by
    unfold queueNotice; split <;> exact ⟨rfl, rfl, rfl⟩
  unfold askNotice startHead
  simp only [setNotices_notices, busFree, hq.1, hq.2.1, hq.2.2]
  rcases h with h | h | h <;> simp [h]

/-! ### The cells -/

theorem mem_allCells (c : CellNo) : c ∈ allCells :=
  List.mem_map.mpr ⟨c.val, List.mem_range.mpr c.isLt, by simp⟩

theorem allCells_nodup : allCells.Nodup :=
  List.Nodup.map_on (fun a ha b hb h => by
    have h' := congrArg Fin.val h
    have ha' : a < 2048 := List.mem_range.mp ha
    have hb' : b < 2048 := List.mem_range.mp hb
    simpa [Nat.mod_eq_of_lt ha', Nat.mod_eq_of_lt hb'] using h') List.nodup_range

theorem startStore_free : startStore.free = allCells := by simp only [startStore]
theorem startStore_refs (c : CellNo) : look startStore.refs c = 0 := look_filled ..

/-- A fresh store has every cell free and none held (R63, R76). -/
theorem startStore_accounted (s : State) (hs : s.store = startStore) (hf : s.sched.inFlight = none)
    (hd : ∀ l, look s.dist.sending l = none) : CellsAccounted s where
  once := by rw [hs, startStore_free]; exact allCells_nodup
  counted c := by
    have h : ∀ x ∈ allChains s, x = [] := by
      simp only [allChains, heldChains, hs, hf, hd, startStore, look_filled, lineRxCells, uplinkRxCells]
      simp
      rintro x (⟨-, rfl⟩ | rfl) <;> rfl
    have hz : ((allChains s).map (·.count c)).sum = 0 := by
      refine List.sum_eq_zero fun n hn => ?_
      obtain ⟨x, hx, rfl⟩ := List.mem_map.mp hn
      rw [h x hx]; rfl
    rw [hz, hs, startStore_refs]
  free c := by
    rw [hs, startStore_free, startStore_refs]
    exact ⟨fun _ => rfl, fun _ => mem_allCells c⟩
  targets _ _ _ _ h := by rw [hs] at h; cases h
  reading _ := ⟨hf, hd⟩

/-! ### The search of a report position's bits (R111, R112) -/

/-- A bit index is found in a word exactly where a marker pattern begins there, whole in the word. -/
theorem mem_markersIn {first end_ b : Nat} {w : BitVec 48} :
    b ∈ markersIn first w end_ ↔
      ∃ o, first ≤ o ∧ o ≤ 40 ∧ w.extractLsb' (40 - o) 8 = 0xB2#8 ∧ b = end_ - 48 + o := by
  simp only [markersIn, List.mem_map, List.mem_filter, List.mem_range, Bool.and_eq_true, decide_eq_true_eq, beq_iff_eq]
  exact ⟨fun ⟨o, ⟨h, h1, h2⟩, e⟩ => ⟨o, h1, by omega, h2, e.symm⟩,
    fun ⟨o, h1, h, h2, e⟩ => ⟨o, ⟨by omega, h1, h2⟩, e.symm⟩⟩

/-- The candidates behind the search of a word: those from before, and its markers. -/
theorem mem_searchWord_candidates {first end_ b : Nat} {w : BitVec 48} {x : Supervision} :
    b ∈ (searchWord first w end_ x).candidates ↔ b ∈ x.candidates ∨ b ∈ markersIn first w end_ := by
  simp only [searchWord, List.mem_append, List.mem_filter, decide_eq_true_eq]
  tauto

/-- The bit index never goes back in the search of a word, and reaches its end. -/
theorem searchWord_bitIndex (first end_ : Nat) (w : BitVec 48) (x : Supervision) :
    (searchWord first w end_ x).bitIndex = max x.bitIndex end_ := rfl

end Sys2Proof.Machine
end

