-- ==== Sys2Proof/Laws/Memory.lean ====
section
/-! SUPPORT. The bytes of the frame store: reads after writes, and the canonical form that every write keeps. -/

namespace Sys2Proof.Machine

/-- A byte written is read back, and every other address reads as before (R62). -/
theorem memRead_memWrite (m : List Host.Cell) (a b : Nat) (x : Byte) (hm : memWf m = true) :
    memRead (memWrite m a x) b = if b = a then x else memRead m b := by
  induction m with
  | nil =>
    by_cases hx : x = unwritten <;> by_cases hb : b = a <;> simp [memWrite, memRead, hx, hb]
  | cons c rest ih =>
    obtain ⟨k, y⟩ := c
    have hrest : memWf rest = true := by
      cases rest with
      | nil => rfl
      | cons d r => simp only [memWf, Bool.and_eq_true] at hm; exact hm.2
    have hlow : ∀ q, q ≤ k → memRead rest q = unwritten := by
      clear ih
      induction rest generalizing k y with
      | nil => intro q _; rfl
      | cons d r ihr =>
        obtain ⟨j, z⟩ := d
        simp only [memWf, Bool.and_eq_true, decide_eq_true_eq] at hm
        intro q hq
        have hjq : q ≠ j := by omega
        have hr : memWf r = true := by
          cases r with
          | nil => rfl
          | cons d' r' => simp only [memWf, Bool.and_eq_true] at hrest; exact hrest.2
        simp only [memRead, hjq, if_false]
        exact ihr j z hm.2 hr q (by omega)
    simp only [memWrite]
    split
    · next hak =>
      split
      · next hx =>
        by_cases hb : b = a
        · subst hb
          have : b ≠ k := by omega
          simp [memRead, this, hlow b (by omega), hx]
        · simp [hb]
      · by_cases hb : b = a <;> simp [memRead, hb]
    · next hak =>
      split
      · next he =>
        subst he
        split
        · next hx =>
          by_cases hb : b = a
          · subst hb; simp [hlow b (Nat.le_refl _), hx]
          · simp [memRead, hb]
        · by_cases hb : b = a <;> simp [memRead, hb]
      · next he =>
        simp only [memRead, ih hrest]
        by_cases hb : b = k
        · subst hb
          have : b ≠ a := fun e => he e.symm
          simp [this]
        · simp [hb]

theorem memWf_tail {c : Host.Cell} {m : List Host.Cell} (h : memWf (c :: m) = true) : memWf m = true := by
  cases m with
  | nil => rfl
  | cons d r => obtain ⟨k, y⟩ := c; obtain ⟨j, z⟩ := d; simp only [memWf, Bool.and_eq_true] at h; exact h.2

/-- The canonical form, entry by entry: the first byte is written, and the next address is higher. -/
theorem memWf_cons (k : Nat) (y : Byte) (m : List Host.Cell) :
    memWf ((k, y) :: m) = true ↔ y ≠ unwritten ∧ (∀ c ∈ m.head?, k < c.1) ∧ memWf m = true := by
  cases m with
  | nil => simp [memWf]
  | cons d r => obtain ⟨j, z⟩ := d; simp [memWf, and_assoc]

theorem memWrite_head (m : List Host.Cell) (a k : Nat) (x : Byte) (hk : k < a) (h : ∀ c ∈ m.head?, k < c.1)
    (hm : memWf m = true) : ∀ c ∈ (memWrite m a x).head?, k < c.1 := by
  cases m with
  | nil => unfold memWrite; split <;> simp [hk]
  | cons d r =>
    obtain ⟨j, z⟩ := d
    have hj : k < j := by simpa using h
    unfold memWrite
    split
    · split <;> simp [hj, hk]
    · split
      · split
        · intro c hc
          have := ((memWf_cons j z r).mp hm).2.1 c hc
          omega
        · simp [hj]
      · simp [hj]

/-- A write keeps the canonical form. -/
theorem memWrite_wf (m : List Host.Cell) (a : Nat) (x : Byte) (hm : memWf m = true) : memWf (memWrite m a x) = true := by
  induction m with
  | nil => unfold memWrite; split <;> simp_all [memWf]
  | cons d r ih =>
    obtain ⟨j, z⟩ := d
    have hd := (memWf_cons j z r).mp hm
    unfold memWrite
    split
    · next hlt =>
      split
      · exact hm
      · next hx => exact (memWf_cons a x _).mpr ⟨hx, by simpa using hlt, hm⟩
    · split
      · split
        · exact hd.2.2
        · next hx => exact (memWf_cons j x r).mpr ⟨hx, hd.2⟩
      · next h1 h2 =>
        exact (memWf_cons j z _).mpr ⟨hd.1, memWrite_head r a j x (by omega) hd.2.1 hd.2.2, ih hd.2.2⟩

/-- Bytes written one after another keep the canonical form. -/
theorem Written.wf {m m' : List Host.Cell} (h : Written m m') (hm : memWf m = true) : memWf m' = true := by
  induction h with
  | refl => exact hm
  | byte a x _ ih => exact memWrite_wf _ a x ih

/-- Writing a frame's bytes keeps the canonical form (R62). -/
theorem writeFrame_wf (cells : List CellNo) (m : List Host.Cell) (k : Nat) (xs : List Byte) (hm : memWf m = true) :
    memWf (writeFrame cells m k xs) = true := by
  induction xs generalizing m k with
  | nil => exact hm
  | cons x xs ih =>
    refine ih _ _ ?_
    split
    · exact memWrite_wf _ _ _ hm
    · exact hm

end Sys2Proof.Machine
end

