-- ==== Sys2Proof/Laws/PerInstr.lean ====
section
/-! SUPPORT. Laws of each command as syntax: the contents that carry a request fit one frame's contents, carry its
request number behind its code, and are read as a request whose length is right (R101, R163, R175, R176). -/

namespace Sys2Proof.Laws.Encoding

/-- If a command is a request, its contents are 2 to 20 bytes, a code from 1 to 14 first, and an UNKNOWN command is
never written. -/
def Statement (i : Instr) : Prop :=
  ∀ b, encodeRequest i = some b → 2 ≤ b.length ∧ b.length ≤ 20 ∧
    (∀ c ∈ b.head?, 1 ≤ c.toNat ∧ c.toNat ≤ 14) ∧ (∀ u, i ≠ .unknown u)

theorem powerOn : Statement (.powerOn) := fun _ h => by cases h

theorem pwrgoodFall : Statement (.pwrgoodFall) := fun _ h => by cases h

theorem restartStart : Statement (.restartStart) := fun _ h => by cases h

theorem configurationReadEnd a0 a1 : Statement (.configurationReadEnd a0 a1) := fun _ h => by cases h

theorem firstRecessiveRun : Statement (.firstRecessiveRun) := fun _ h => by cases h

theorem noticeEnd a0 a1 : Statement (.noticeEnd a0 a1) := fun _ h => by cases h

theorem duplicateNumberHoldoffExpiry : Statement (.duplicateNumberHoldoffExpiry) := fun _ h => by cases h

theorem noticeCompletion : Statement (.noticeCompletion) := fun _ h => by cases h

theorem contentionLoss : Statement (.contentionLoss) := fun _ h => by cases h

theorem accessGapExpiry : Statement (.accessGapExpiry) := fun _ h => by cases h

theorem busQuietTimeout : Statement (.busQuietTimeout) := fun _ h => by cases h

theorem isolationTimerExpiry : Statement (.isolationTimerExpiry) := fun _ h => by cases h

theorem noticePeriodExpiry : Statement (.noticePeriodExpiry) := fun _ h => by cases h

theorem presenceTimerExpiry a0 : Statement (.presenceTimerExpiry a0) := fun _ h => by cases h

theorem capacityViewExpiry : Statement (.capacityViewExpiry) := fun _ h => by cases h

theorem riseCheck : Statement (.riseCheck) := fun _ h => by cases h

theorem firstCellAdmission a0 a1 : Statement (.firstCellAdmission a0 a1) := fun _ h => by cases h

theorem furtherCellNeeded a0 a1 : Statement (.furtherCellNeeded a0 a1) := fun _ h => by cases h

theorem frameReceptionEnd a0 a1 : Statement (.frameReceptionEnd a0 a1) := fun _ h => by cases h

theorem frameAbortReceived a0 : Statement (.frameAbortReceived a0) := fun _ h => by cases h

theorem uplinkHeaderEnd a0 a1 a2 : Statement (.uplinkHeaderEnd a0 a1 a2) := fun _ h => by cases h

theorem pacingUnderflow a0 : Statement (.pacingUnderflow a0) := fun _ h => by cases h

theorem uplinkTransmissionComplete : Statement (.uplinkTransmissionComplete) := fun _ h => by cases h

theorem lpRdyAsserted a0 : Statement (.lpRdyAsserted a0) := fun _ h => by cases h

theorem lpRdyWithdrawn a0 : Statement (.lpRdyWithdrawn a0) := fun _ h => by cases h

theorem linePortTransmissionComplete a0 : Statement (.linePortTransmissionComplete a0) := fun _ h => by cases h

theorem searchMarkerFound a0 a1 : Statement (.searchMarkerFound a0 a1) := fun _ h => by cases h

theorem searchTimeExpiry a0 : Statement (.searchTimeExpiry a0) := fun _ h => by cases h

theorem reportPositionEnd a0 a1 : Statement (.reportPositionEnd a0 a1) := fun _ h => by cases h

theorem losTriggerTimerExpiry a0 : Statement (.losTriggerTimerExpiry a0) := fun _ h => by cases h

theorem holdExpiry : Statement (.holdExpiry) := fun _ h => by cases h

theorem turnLapse : Statement (.turnLapse) := fun _ h => by cases h

theorem confirmWindowEnd a0 : Statement (.confirmWindowEnd a0) := fun _ h => by cases h

theorem relayReleaseTimeEnd : Statement (.relayReleaseTimeEnd) := fun _ h => by cases h

theorem ownHoldLimit : Statement (.ownHoldLimit) := fun _ h => by cases h

theorem occupancyLoss : Statement (.occupancyLoss) := fun _ h => by cases h

theorem operateTimeEnd : Statement (.operateTimeEnd) := fun _ h => by cases h

theorem settleTimeEnd : Statement (.settleTimeEnd) := fun _ h => by cases h

theorem dischargeTimeEnd : Statement (.dischargeTimeEnd) := fun _ h => by cases h

theorem endingDischargeEnd : Statement (.endingDischargeEnd) := fun _ h => by cases h

theorem holdoffExpiry a0 : Statement (.holdoffExpiry a0) := fun _ h => by cases h

theorem sampleTaken a0 a1 : Statement (.sampleTaken a0 a1) := fun _ h => by cases h

theorem sampleFrameFault : Statement (.sampleFrameFault) := fun _ h => by cases h

theorem readLine a0 a1 : Statement (.readLine a0 a1) := by
  rintro b ⟨rfl⟩; simp

theorem readStation a0 : Statement (.readStation a0) := by
  rintro b ⟨rfl⟩; simp

theorem readPeers a0 : Statement (.readPeers a0) := by
  rintro b ⟨rfl⟩; simp

theorem readResults a0 a1 : Statement (.readResults a0 a1) := by
  rintro b ⟨rfl⟩; simp

theorem barLine a0 a1 : Statement (.barLine a0 a1) := by
  rintro b ⟨rfl⟩; simp

theorem unbarLine a0 a1 : Statement (.unbarLine a0 a1) := by
  rintro b ⟨rfl⟩; simp

theorem setTag a0 a1 a2 a3 a4 : Statement (.setTag a0 a1 a2 a3 a4) := by
  rintro b ⟨rfl⟩; simp [bytes16]

theorem clearTag a0 a1 : Statement (.clearTag a0 a1) := by
  rintro b ⟨rfl⟩; simp

theorem loadStep a0 a1 a2 : Statement (.loadStep a0 a1 a2) := by
  rintro b ⟨rfl⟩; simp [bytes16, bytes32]

theorem loadStepEmpty a0 a1 : Statement (.loadStepEmpty a0 a1) := by
  rintro b ⟨rfl⟩; simp

theorem submitRun a0 a1 a2 a3 : Statement (.submitRun a0 a1 a2 a3) := by
  rintro b ⟨rfl⟩; simp

theorem cancelRun a0 a1 : Statement (.cancelRun a0 a1) := by
  rintro b ⟨rfl⟩; simp

theorem clearFault a0 a1 : Statement (.clearFault a0 a1) := by
  rintro b ⟨rfl⟩; simp

theorem clearFaultLatch a0 : Statement (.clearFaultLatch a0) := by
  rintro b ⟨rfl⟩; simp

theorem realign a0 a1 : Statement (.realign a0 a1) := by
  rintro b ⟨rfl⟩; simp

theorem restart a0 : Statement (.restart a0) := by
  rintro b ⟨rfl⟩; simp

theorem unknown a0 : Statement (.unknown a0) := fun _ h => by cases h

theorem restartWaitTimeout : Statement (.restartWaitTimeout) := fun _ h => by cases h

theorem startBitRead : Statement (.startBitRead) := fun _ h => by cases h

theorem upstreamByteArrival a0 : Statement (.upstreamByteArrival a0) := fun _ h => by cases h

end Sys2Proof.Laws.Encoding
end

