-- ==== Sys2Proof/Laws/Timers.lean ====
section
/-! SUPPORT. When each timer is due: the condition that the step tests is the one that `Due` states. -/

set_option Elab.async false

namespace Sys2Proof.Machine

theorem reached_iff (s : State) (t : Option Nat) : reached s t = true ↔ Elapsed s t := by
  cases t <;> simp [reached, Elapsed]

theorem whenDue_due {due : State → Bool} {s : State} (h : due s = true) (f : State → State) : whenDue due f s = f s := by
  simp [whenDue, h]

theorem whenDue_not {due : State → Bool} {s : State} (h : due s = false) (f : State → State) : whenDue due f s = s := by
  simp [whenDue, h]

theorem busFree_iff (n : Notices) : busFree n = true ↔ n.framing = true ∧ n.receiving = false ∧ n.attempt = none := by
  cases h : n.attempt <;> simp [busFree, h]

theorem gapDue_iff (s : State) : gapDue s = true ↔ Due s .accessGapExpiry := by
  simp only [gapDue, Due, Bool.and_eq_true, busFree_iff, Bool.not_eq_true', decide_eq_true_eq, and_assoc]
  rfl

theorem quietDue_iff (s : State) : quietDue s = true ↔ Due s .busQuietTimeout := by
  simp [quietDue, Due, busFree_iff, and_assoc]

theorem duplicateDue_iff (s : State) : duplicateDue s = true ↔ Due s .duplicateNumberHoldoffExpiry := reached_iff ..
theorem isolationDue_iff (s : State) : isolationDue s = true ↔ Due s .isolationTimerExpiry := reached_iff ..
theorem periodDue_iff (s : State) : periodDue s = true ↔ Due s .noticePeriodExpiry := reached_iff ..

theorem presenceDue_iff (s : State) (k : StationNo) : presenceDue s k = true ↔ Due s (.presenceTimerExpiry k) := by
  rw [presenceDue, reached_iff]
  by_cases hk : k = s.station
  · simp [presenceAt, Due, Elapsed, hk]
  · cases hp : (look s.share.peers k).presence <;> simp [presenceAt, Due, Elapsed, hk, hp, peerOf, period]

theorem capacityDue_iff (s : State) : capacityDue s = true ↔ Due s .capacityViewExpiry := by
  rw [capacityDue, reached_iff]
  cases hc : s.share.capacity.state <;> simp [capacityAt, Due, Elapsed, hc, period]

theorem riseDue_iff (s : State) : riseDue s = true ↔ Due s .riseCheck := by
  rw [riseDue, reached_iff]
  cases hr : s.share.rise <;> simp [Due, Elapsed, hr]

theorem searchTimeDue_iff (s : State) (l : Line) : searchTimeDue s l = true ↔ Due s (.searchTimeExpiry l) := by
  simp only [searchTimeDue, searching, Due, Bool.and_eq_true, Bool.not_eq_true', decide_eq_true_eq, and_assoc]
  rfl

theorem losTimerDue_iff (s : State) (l : Line) : losTimerDue s l = true ↔ Due s (.losTriggerTimerExpiry l) := by
  simp [losTimerDue, reached_iff, Due, Nat.mul_comm]

theorem holdDue_iff (s : State) : holdDue s = true ↔ Due s .holdExpiry := by
  simp [holdDue, reached_iff, Due, Option.isSome_iff_ne_none]

theorem turnDue_iff (s : State) : turnDue s = true ↔ Due s .turnLapse := by
  simp [turnDue, reached_iff, Due, Config.turnTime]

theorem confirmDue_iff (s : State) (b : Bool) : confirmDue s = true ↔ Due s (.confirmWindowEnd b) := by
  simp [confirmDue, reached_iff, Due]

theorem releaseDue_iff (s : State) : releaseDue s = true ↔ Due s .relayReleaseTimeEnd := reached_iff ..

theorem ownLimitDue_iff (s : State) : ownLimitDue s = true ↔ Due s .ownHoldLimit := by
  simp [ownLimitDue, reached_iff, Due, and_assoc]

theorem phaseDue_iff (s : State) (p : Phase) :
    phaseDue s p = true ↔ ∃ a, s.seq.active = some a ∧ a.phase = p ∧ Elapsed s a.until_ := by
  simp [phaseDue, reached_iff, Option.any_eq_true]

theorem operateDue_iff (s : State) : phaseDue s .connecting = true ↔ Due s .operateTimeEnd := phaseDue_iff ..
theorem settleDue_iff (s : State) : phaseDue s .settling = true ↔ Due s .settleTimeEnd := phaseDue_iff ..
theorem dischargeDue_iff (s : State) : phaseDue s .discharging = true ↔ Due s .dischargeTimeEnd := phaseDue_iff ..

theorem endingDue_iff (s : State) : endingDue s = true ↔ Due s .endingDischargeEnd := by
  cases hc : s.seq.closing <;> simp [endingDue, Due, hc, phaseDue_iff]

theorem holdoffDue_iff (s : State) (l : Line) : holdoffDue s l = true ↔ Due s (.holdoffExpiry l) := reached_iff ..

theorem restartDue_iff (s : State) : restartDue s = true ↔ Due s .restartWaitTimeout := by
  cases hw : s.mgmt.wait <;> simp [restartDue, Due, hw]

end Sys2Proof.Machine
end

