-- ==== Sys2Proof/Tests/Slice0.lean ====
section
/-! SUPPORT. Tests: the worked cases of the spec, an ill-formed command for each check, one step of each command, and
states that meet the hypotheses of each statement. -/

set_option Elab.async false

namespace Sys2Proof.Tests

open Sys2Proof Sys2Proof.Machine

/-! ### Ill-formed commands -/

theorem test_wellFormed_refuses_a_notice_that_goes_on : wellFormed (.noticeEnd (noticeLevels [1, 2]) 9) = false := by
  decide +kernel
theorem test_wellFormed_refuses_empty_notice : wellFormed (.noticeEnd [] 10) = false := by decide
theorem test_wellFormed_refuses_long_rest : wellFormed (.frameReceptionEnd .uplink (List.replicate 256 0)) = false := by
  decide +kernel
theorem test_wellFormed_refuses_mark_zero : wellFormed (.loadStep 1 0 ⟨0, 0, 0, 1, 0, 16, 0, 0, 0⟩) = false := by decide
theorem test_wellFormed_refuses_line_255 : wellFormed (.clearFault 1 255) = false := by decide
theorem test_wellFormed_refuses_long_unknown : wellFormed (.unknown (List.replicate 65 0)) = false := by decide +kernel

/-! ### Requests written out from R175 and R176 -/

theorem test_decode_reads : decodeRequest 3 3 [1, 9, 11] = .readLine 9 11 ∧ decodeRequest 2 2 [2, 9] = .readStation 9 ∧
    decodeRequest 2 2 [3, 9] = .readPeers 9 ∧ decodeRequest 3 3 [4, 9, 5] = .readResults 9 5 := by decide
theorem test_decode_lines : decodeRequest 3 3 [5, 1, 4] = .barLine 1 4 ∧ decodeRequest 3 3 [6, 1, 4] = .unbarLine 1 4 ∧
    decodeRequest 3 3 [13, 1, 4] = .realign 1 4 := by decide
theorem test_decode_map : decodeRequest 7 7 [7, 1, 9, 0x03, 0x34, 3, 0] = .setTag 1 9 820 3 0 ∧
    decodeRequest 3 3 [8, 1, 31] = .clearTag 1 31 := by decide
theorem test_decode_step :
    decodeRequest 20 20 [9, 1, 40, 1, 1, 2, 1, 0, 50, 0, 200, 0, 0, 0, 0, 0, 0, 0, 0, 0] =
      .loadStep 1 40 ⟨1, 1, 2, 1, 50, 200, 0, 0, 0⟩ ∧
    decodeRequest 20 20 ([9, 1, 40] ++ List.replicate 17 0) = .loadStepEmpty 1 40 := by decide
theorem test_decode_runs : decodeRequest 5 5 [10, 1, 3, 10, 1] = .submitRun 1 3 10 1 ∧
    decodeRequest 3 3 [11, 1, 17] = .cancelRun 1 17 ∧ decodeRequest 3 3 [12, 1, 3] = .clearFault 1 3 ∧
    decodeRequest 3 3 [12, 1, 255] = .clearFaultLatch 1 ∧ decodeRequest 2 2 [14, 1] = .restart 1 := by decide
theorem test_decode_refuses_wrong_lengths : decodeRequest 65 65 (List.replicate 64 1) = .unknown (List.replicate 64 1) ∧
    decodeRequest 4 4 [1, 2, 3, 4] = .unknown [1, 2, 3, 4] ∧ decodeRequest 2 2 [15, 1] = .unknown [15, 1] ∧
    decodeRequest 3 2 [2, 1] = .unknown [2, 1] := by decide

/-! ### Worked cases of the spec -/

/-- The worked case of 3.4: line 4 over four expiries (R50). -/
theorem test_smoothing : smooth 2000 12000 = 4500 ∧ smooth 4500 12000 = 6375 ∧ smooth 6375 12000 = 7782 ∧
    smooth 7782 1600 = 6236 := by decide
theorem test_demand_rounds_up : roundUp8 11248 = 11248 ∧ roundUp8 11249 = 11256 := by decide

/-- The worked cases of 3.5 and 3.9: one water-fill (R53, R54). -/
def cabinet : List Participant := [⟨0, 4000, 2⟩, ⟨1, 30000, 4⟩, ⟨3, 12000, 3⟩, ⟨6, 9000, 3⟩]

theorem test_waterFill : (waterFill 36000 cabinet).map (fun g => (g.1.station, g.2)) =
    [(0, 4000), (6, 9000), (3, 9857), (1, 13142)] := by decide
theorem test_waterFill_capacity_fall : (waterFill 28800 cabinet).map (fun g => (g.1.station, g.2)) =
    [(0, 4000), (6, 7440), (3, 7440), (1, 9920)] := by decide
theorem test_waterFill_without_station_6 :
    givenTo 3 (waterFill 36000 (cabinet.filter fun p => p.station ≠ 6)) = 12000 ∧
    givenTo 3 (waterFill 28800 (cabinet.filter fun p => p.station ≠ 6)) = 10628 := by decide

/-- The pacing figures of 5.1 (R78). -/
theorem test_paces : paceOf 524280 = (.fast, 1) ∧ paceOf 100000 = (.fast, 10) ∧ paceOf 20000 = (.fast, 51) ∧
    paceOf 9857 = (.fast, 103) ∧ paceOf 1843 = (.fast, 555) ∧ paceOf 256 = (.fast, 3999) ∧
    paceOf 16 = (.fast, 63999) ∧ paceOf 15 = (.slow, 1066) ∧ paceOf 6 = (.slow, 2666) ∧ paceOf 1 = (.slow, 15999) := by
  decide
theorem test_station_depth : stationDepthOf 3277 = 4096 ∧ stationDepthOf 9857 = 12321 ∧ stationDepthOf 52428 = 65535 := by
  decide

/-- The line rates of R4. -/
theorem test_line_rate : lineRate { builtInProfile with peak := 20000, degraded := 40 } .degraded = 8000 ∧
    lineRate { builtInProfile with peak := 64, degraded := 10 } .degraded = 6 ∧
    lineRate builtInProfile .up = 100000 ∧ lineRate builtInProfile .down = 0 := by decide

/-- The shortest and longest waits of R23. -/
theorem test_gaps : gapOf (rankOf 0 8) = 12 ∧ gapOf (rankOf 7 8) = 40 ∧ gapOf (rankOf 3 3) = 44 ∧
    gapOf (rankOf 4 3) = 12 := by decide

/-! ### The levels of the bus -/

theorem test_levels_of_a_byte : byteLevels 0xA1 =
    [false, true, false, true, false, false, false, false, true, true] := by decide

/-- Two bytes with 9 recessive bit times between them are one notice; 10 of them end it (R19). -/
theorem test_framing_gap : (frameLevels (noticeLevels [6] ++ List.replicate 9 true ++ noticeLevels [7])).bytes = [6, 7] ∧
    (frameLevels (busLevels (noticeLevels [6]) 10 ++ noticeLevels [7])).bytes = [6] := by decide +kernel

/-- A stop bit read dominant marks the notice bad, and its dominant level is no start bit of the next byte; only its
first 16 bytes are kept (R19). -/
theorem test_framing_errors :
    (let f := frameLevels (false :: byteBits 6 ++ [false] ++ List.replicate 10 true)
     f.bytes = [6] ∧ f.bad = true ∧ f.ended = true) ∧
    (let f := frameLevels (noticeLevels (List.replicate 17 1))
     f.bytes = List.replicate 16 1 ∧ f.bad = true) ∧
    (frameLevels (noticeLevels (List.replicate 16 1))).bad = false := by decide +kernel

/-- The catalogued check values of these two CRCs over the nine digits 1 to 9 (R20, R106). -/
theorem test_checks : crc16 [49, 50, 51, 52, 53, 54, 55, 56, 57] = 0x29B1#16 ∧
    crc8 [49, 50, 51, 52, 53, 54, 55, 56, 57] = 0xF4#8 := by decide +kernel

/-- The length of 10.5: a pair of 3 km (R159). -/
theorem test_length : pairLength 50 ⟨400, 0, -2880000, 0, some 0, some (-4800)⟩ = ⟨3000, noFlags⟩ ∧
    capacitance ⟨400, 0, -2880000, 0, some 0, some (-4800)⟩ = ⟨150000, noFlags⟩ := by decide

/-- The foreign voltages of 10.6 (R157). -/
theorem test_foreign_voltage : foreignDc 16 ⟨16, 8000, 0, 20000000, none, none⟩ = ⟨5000, noFlags⟩ ∧
    foreignAc 16 ⟨16, 8000, 0, 20000000, none, none⟩ = ⟨10000, noFlags⟩ := by decide +kernel

/-- The confirmed resistance of 10.6 (R158, R160). -/
theorem test_resistance : resistance ⟨800, 3840000, 768000, 0, none, none⟩ = ⟨5000000, noFlags⟩ ∧
    resistance ⟨800, 3816000, -720000, 0, none, none⟩ = ⟨2000000000, { noFlags with open_ := true }⟩ ∧
    agree 5400000 5000000 = false ∧ agree 5300000 5400000 = true := by decide
theorem test_foreign_voltage_clamps : (foreignDc 16 ⟨16, -524288, 0, 0, none, none⟩).value = -327670 ∧
    (foreignAc 16 ⟨16, -8, 0, 17179344900, none, none⟩).value ≤ 327670 := by decide +kernel
theorem test_verdict : judge (some 1000000) none 2000000000 = .pass ∧ judge (some 1) (some 5) 6 = .fail ∧
    judge (some 5) (some 5) 5 = .pass := by decide
theorem test_roots : isqrt 25600000000 = 160000 ∧ isqrt 0 = 0 ∧ isqrt 8 = 2 := by decide +kernel

/-- Step records of the worked cases of R140 and 9.6. -/
def stepOf (q : Quantity) (settle samples : Nat) (stop : Bool) (next : Option Slot) : Step :=
  ⟨.tipRing, q, settle, samples, none, none, stop, false, false, false, next⟩

def memoryWith (xs : List (Slot × Step)) : Table (Option Step) 128 :=
  xs.foldl (fun t x => put t x.1 (some x.2)) (filled 128 none)

/-- The chain of slots 10, 11 and 12 of the worked case of R140, and slot 40 of 9.6. -/
def steps9 : Table (Option Step) 128 :=
  memoryWith [(10, stepOf .foreignDc 0 400 false (some 11)), (11, stepOf .resistance 200 800 false (some 12)),
    (12, stepOf .length 100 400 true none), (40, stepOf .resistance 50 200 true none),
    (50, stepOf .foreignDc 0 16 true none), (60, stepOf .foreignDc 0 16 false (some 61)),
    (61, stepOf .foreignDc 0 16 false (some 60))]

theorem test_hold_estimates : holdEstimate steps9 (chainFrom steps9 10) = 21 ∧
    holdEstimate steps9 (chainFrom steps9 11) = 19 ∧ holdEstimate steps9 (chainFrom steps9 40) = 12 ∧
    holdEstimate steps9 (chainFrom steps9 50) = 11 := by decide +kernel
theorem test_chains : (chainFrom steps9 10) = ⟨[10, 11, 12], true⟩ ∧ (chainFrom steps9 13).good = false ∧
    (chainFrom steps9 60).good = false := by decide +kernel

/-! ### A station that runs -/

/-- A line in service. -/
def lineUp : LineRec := { startLine true builtInProfile false false with sync := .inSync, service := .up }

/-- A station that runs with every line UP at station time 10,000, joined on a quiet bus. -/
def w : State := { State.reset with
  power := .running, time := 10000, lines := filled 12 lineUp
  notices := { startNotices with framing := true, permitted := true, condition := .joined, statusDone := 2 }
  seq := startSequencer steps9
  sched := { startScheduler (fun _ => 16384) with
    counters := put (filled 13 stoppedCounter) 12 (loadCounter 256) } }

/-- A state at another station time. -/
def atTime (n : Nat) (s : State) : State := { s with time := n }

/-- A condition on the next state of a command. -/
def after (c : Instr) (s : State) (p : State → Bool) : Bool := match exec c s with
  | .next t => p t
  | _ => false

/-! ### One step of each command -/

theorem test_powerOn : after .powerOn w fun t => t.power == .reading && t.time == 0 && t.start == .powerOn := by
  decide +kernel
theorem test_pwrgoodFall : after .pwrgoodFall w fun t => t.power == .held && t.claims.relay == none := by decide +kernel
theorem test_restartStart : after .restartStart { w with mgmt := ⟨[], false, .ended⟩ } fun t =>
    t.power == .reading && t.start == .restart && look t.seq.steps 40 == some (stepOf .resistance 50 200 true none) := by
  decide +kernel
theorem test_configurationReadEnd_defaults : after (.configurationReadEnd 5 (Vector.replicate 256 0)) State.reset fun t =>
    t.station == 5 && t.loader.defaulted == some .badFormat && t.share.periodAt == some 100 &&
      t.notices.isolationAt == some 400 && t.notices.condition == .listening := by decide +kernel
theorem test_firstRecessiveRun : after .firstRecessiveRun { w with notices := startNotices } fun t => t.notices.framing := by
  decide +kernel
theorem test_startBitRead : after .startBitRead w fun t => t.notices.receiving := by decide +kernel

/-- A good CAPACITY notice of 625 units from the terminal. -/
def capacity625 : List Byte :=
  let b : List Byte := [2, 8, 8, 7, 0x02, 0x71]
  b ++ two (crc16 b).toNat

theorem test_noticeEnd_capacity : after (.noticeEnd (noticeLevels capacity625) 10) w fun t =>
    t.share.capacity == ⟨.current, some 625, some 10000⟩ && t.share.usedC == 40000 && t.share.effective == 36000 &&
      t.notices.lastSender == 8 := by decide +kernel
theorem test_noticeEnd_framing_error : after (.noticeEnd ((noticeLevels capacity625).take 79 ++ [false]) 10) w fun t =>
    t.notices.badNotices == 1 && t.share.capacity.state == .none := by decide +kernel
theorem test_noticeEnd_waits_for_the_end : after (.noticeEnd (noticeLevels capacity625) 9) w fun t =>
    t.notices.badNotices == 0 && t.share.capacity.state == .none := by decide +kernel
theorem test_duplicateHoldoff : after .duplicateNumberHoldoffExpiry
    { w with notices := { w.notices with duplicateUntil := some 3 } } fun t => t.notices.duplicateUntil == none := by
  decide +kernel

/-- The station with a STATUS in flight as its head notice. -/
def sending (a : Ask) : State := { w with notices := { w.notices with
  queue := [⟨a, 0⟩, ⟨.claim .scheduled 7, 3⟩], attempt := some ⟨4, true, false, 0, [6], 0⟩, statusDone := 0 } }

theorem test_noticeCompletion : after .noticeCompletion (sending (.status 1 0 0)) fun t =>
    t.notices.attempt == none && t.notices.lastSequence == 4 && t.notices.statusDone == 1 &&
      (look t.share.peers 0).lastStatus == some 10000 && t.notices.queue == [⟨.claim .scheduled 7, 3⟩] := by
  decide +kernel
theorem test_cbTx : cbTx w = true ∧
    (let at_ (n : Nat) : Bool := cbTx { sending .release with notices := { (sending .release).notices with
       attempt := some ⟨4, true, false, 0, [6], n⟩ } }
     at_ 0 = false ∧ at_ 1 = false ∧ at_ 11 = false ∧ at_ 12 = true ∧ at_ 15 = true ∧ at_ 16 = false ∧ at_ 17 = false ∧
     at_ 18 = true ∧ at_ 500 = true) := by decide +kernel
/-- A state whose attempt is some half bit times old, on a bus that has been quiet for 200. -/
def aged (n : Nat) (s : State) : State := { s with notices := { s.notices with
  quiet := 200, attempt := s.notices.attempt.map fun a => { a with elapsed := n } } }

theorem test_contentionLoss : after .contentionLoss (aged 2 (sending (.status 1 0 0))) fun t =>
    t.notices.queue == [⟨.status 1 0 0, 1⟩, ⟨.claim .scheduled 7, 3⟩] && t.notices.receiving &&
      t.notices.attempt == none && t.notices.quiet == 200 := by decide +kernel
/-- A loss on the first start bit leaves the bus quiet, and the gap, which has passed, starts the notice again (R23, R26). -/
theorem test_contentionLoss_first_start_bit : after .contentionLoss (aged 1 (sending (.status 1 0 0))) fun t =>
    !t.notices.receiving && t.notices.quiet == 201 && dueCommand t == some .accessGapExpiry &&
      after .accessGapExpiry t fun u => u.notices.attempt.isSome &&
        u.notices.queue == [⟨.status 1 0 0, 1⟩, ⟨.claim .scheduled 7, 3⟩] := by decide +kernel
theorem test_accessGapExpiry : after .accessGapExpiry
    { w with notices := { w.notices with quiet := 24, queue := [⟨.release, 0⟩], lastSequence := 255 } } fun t =>
    (t.notices.attempt.map fun a => (a.sequence, a.bytes.take 4)) == some (0, [6, 0, 6, 0]) := by decide +kernel
theorem test_busQuietTimeout : after .busQuietTimeout { w with notices :=
    { w.notices with lastSender := 2, quiet := 4000 } } fun t =>
    t.notices.lastSender == 8 && t.notices.quietTaken := by decide +kernel

/-- A station of a cabinet of four with the headroom and floor of R56 that advertises 11,248 kbit/s. -/
def cabinetOfFour : State := { w with
  loader := { w.loader with settings := { builtInSettings with cabinet := 4 } }
  notices := { w.notices with isolationAt := some 10000 }
  share := { w.share with peers := alter w.share.peers 0 fun p => { p with demand := 11248 } } }

theorem test_isolationTimerExpiry : after .isolationTimerExpiry cabinetOfFour fun t =>
    t.notices.condition == .isolated && t.share.share == 1843 := by decide +kernel
theorem test_noticePeriodExpiry : after .noticePeriodExpiry { w with
    share := { w.share with periodAt := some 10000 }
    lines := put w.lines 4 { lineUp with
      profile := { builtInProfile with peak := 20000 }, attainable := some 12000, demand := 2000, offered := 150000 } } fun t =>
    (lineOf t 4).demand == 4500 && (lineOf t 4).offered == 0 && t.share.periodAt == some 10100 &&
      (look t.share.peers 0).demand == 4504 := by decide +kernel
theorem test_presenceTimerExpiry : after (.presenceTimerExpiry 6) { w with share := { w.share with
    peers := alter w.share.peers 6 fun p => { p with presence := .present, lastStatus := some 9800 } } } fun t =>
    (look t.share.peers 6).presence == .stale := by decide +kernel
theorem test_capacityViewExpiry : after .capacityViewExpiry { w with share := { w.share with
    capacity := ⟨.current, some 625, some 9700⟩ } } fun t => t.share.capacity == ⟨.stale, some 625, some 9700⟩ := by
  decide +kernel

/-- Station 3 of the worked sequence of 3.9 at its two rise checks. -/
def risingAt (allowance1 : Nat) : State := { w with
  loader := { w.loader with station := 3 }
  share := { w.share with
    peers := tabulate 8 fun k =>
      let p : Peer := { startPeer with presence := .present }
      if k = 0 then { p with demand := 4000, weight := 2, allowance := 4000 }
      else if k = 1 then { p with demand := 30000, weight := 4, allowance := allowance1 }
      else if k = 3 then { p with demand := 12000, weight := 3 }
      else if k = 5 then { p with weight := 5 }
      else if k = 6 then { p with presence := .stale, demand := 9000, weight := 3, allowance := 9000 } else startPeer
    capacity := ⟨.current, some 625, some 9990⟩, allowance := 8000, share := 9857, rise := some ⟨9857, 10000⟩ } }

theorem test_riseCheck : (after .riseCheck (risingAt 20000) fun t => t.share.allowance == 8000 && t.share.rise == none) ∧
    after .riseCheck (risingAt 13144) fun t => t.share.allowance == 9857 && t.sched.stationDepth == 12321 := by
  decide +kernel

/-- The free list at 64 cells, and at 63 (the worked sequence of 4.8). -/
def freeCells (n : Nat) : State := { w with store := { w.store with free := allCells.take n } }

theorem test_firstCellAdmission : (after (.firstCellAdmission (.line 8) 0xAA) (freeCells 64) fun t =>
      look t.store.lineRx 8 == .receiving [0] 1 && t.store.free.length == 63 && t.store.memory == [(0, 0xAA)]) ∧
    after (.firstCellAdmission (.line 10) 0xAA) (freeCells 63) fun t =>
      look t.store.lineRx 10 == .discarding && (lineOf t 10).admissionDrop == 1 := by decide +kernel

/-- A FLOOD frame at its first byte with line 4 at its limit (the worked sequence of 4.8). -/
def flooding : State := { w with
  lines := tabulate 12 fun l => if l = 1 ∨ l = 4 ∨ l = 7 then lineUp else { lineUp with sync := .outOfSync, service := .down }
  store := { w.store with
    uplinkRx := .floodHeader 600
    down := put w.store.down 4 [⟨List.replicate 64 2000, 16384, 9990, .normal, false⟩] } }

theorem test_firstCellAdmission_flood : after (.firstCellAdmission .uplink 1) flooding fun t =>
    t.store.uplinkRx == .flood [1, 7] 600 [0] 1 && t.store.floodDrop == 0 := by decide +kernel

/-- A frame in reception on line 3. -/
def receiving (n : Nat) : State := { w with store := { w.store with
  free := (allCells.take 100).drop 1, lineRx := put w.store.lineRx 3 (.receiving [0] n) } }

theorem test_furtherCellNeeded : after (.furtherCellNeeded (.line 3) (Vector.replicate 256 0)) (receiving 1) fun t =>
    look t.store.lineRx 3 == .receiving [0, 1] 257 && t.store.free.head? == some 2 := by decide +kernel
theorem test_frameReceptionEnd_short : after (.frameReceptionEnd (.line 3) (List.replicate 62 0)) (receiving 1) fun t =>
    (lineOf t 3).admissionDrop == 1 && look t.store.lineRx 3 == .idle && t.store.free.getLast? == some 0 := by
  decide +kernel
theorem test_frameReceptionEnd_queues : after (.frameReceptionEnd (.line 3) (List.replicate 63 0)) (receiving 1) fun t =>
    look t.store.lineRx 3 == .idle && (lineOf t 3).admissionDrop == 0 && (lineOf t 3).unmapped == 1 := by decide +kernel
theorem test_frameAbortReceived : after (.frameAbortReceived (.line 3)) (receiving 1) fun t =>
    (lineOf t 3).admissionDrop == 1 && look t.store.lineRx 3 == .idle := by decide +kernel

/-- A station whose map holds tag 712 for line 3 at index 0. -/
def mapped : State := { w with dist := { w.dist with map := put (filled 32 none) 0 (some ⟨712, 3, .high⟩) } }

theorem test_uplinkHeaderEnd : (after (.uplinkHeaderEnd #v[0x02, 0xC8] 1 #v[0, 64]) mapped fun t => t.store.uplinkRx == .dataHeader 3 .high 64) ∧
    (after (.uplinkHeaderEnd #v[0x02, 0xC9] 1 #v[0, 64]) mapped fun t => t.dist.unmapped == 1 && t.store.uplinkRx == .discarding) ∧
    (after (.uplinkHeaderEnd #v[0, 5] 2 #v[0, 63]) mapped fun t => t.dist.malformed == 1) ∧
    after (.uplinkHeaderEnd #v[0xFF, 0xFF] 3 #v[0, 2]) mapped fun t => t.store.uplinkRx == .request 2 [] 0 := by decide +kernel

theorem test_pacingUnderflow : after (.pacingUnderflow (.entry 12)) { w with
    sched := { w.sched with levels := put w.sched.levels 12 8100 } } fun t =>
    look t.sched.levels 12 == 8192 && (look t.sched.counters 12).count == 3999 := by decide +kernel

/-- The round of 5.8: line 1 of weight 2 holds frames of 1,500 and 300 bytes, line 3 of weight 1 one of 1,200, and UM
one of 200; the station level stands at 4,000. -/
def round58 : State := { w with
  dist := { w.dist with map := put (put (filled 32 none) 0 (some ⟨712, 3, .high⟩)) 1 (some ⟨711, 1, .normal⟩) }
  lines := tabulate 12 fun l => { lineUp with profile := { builtInProfile with weight := if l = 1 then 2 else 1 } }
  store := { w.store with
    up := put (put w.store.up 1 [⟨[100], 1500, 9990, .normal, false⟩, ⟨[101], 300, 9990, .normal, false⟩]) 3
      [⟨[102], 1200, 9990, .normal, false⟩]
    um := [⟨[103], 200, 9990, .normal, false⟩] }
  sched := { w.sched with stationLevel := 4000 } }

theorem test_round_wakes_with_the_management_frame : after (.lpRdyWithdrawn 0) round58 fun t =>
    (t.sched.inFlight.map fun f => (f.length, f.header)) == some (200, [255, 255, 3, 0, 200]) &&
      t.sched.pointer == 1 && t.sched.turn == .held && look t.sched.deficits 1 == 2048 &&
      look t.sched.deficits 3 == 512 && look t.sched.deficits 12 == 0 && t.sched.stationLevel == 3800 := by decide +kernel
theorem test_uplinkTransmissionComplete : (after (.lpRdyWithdrawn 0) round58 fun s =>
    after .uplinkTransmissionComplete s fun t =>
      (t.sched.inFlight.map fun f => (f.length, f.header)) == some (1500, [0x02, 0xC7, 1, 0x05, 0xDC]) &&
        look t.sched.deficits 1 == 548 && t.sched.stationLevel == 2300 && t.sched.lastEnd == some .close) := by
  decide +kernel

/-- A frame for line 3 that waits. -/
def delivering : State := { w with store := { w.store with
  down := put w.store.down 3 [⟨[7], 64, 9749, .normal, false⟩, ⟨[8], 64, 9750, .normal, false⟩] } }

theorem test_lpRdyAsserted : after (.lpRdyAsserted 3) delivering fun t =>
    (look t.dist.sending 3).map (·.stamp) == some 9750 && (lineOf t 3).ageDiscard == 1 && look t.store.down 3 == [] := by
  decide +kernel
theorem test_linePortTransmissionComplete : after (.linePortTransmissionComplete 3) { w with
    dist := { w.dist with sending := put w.dist.sending 3 (some ⟨[7], 64, 9999, .normal, false⟩) }
    store := { w.store with refs := put w.store.refs 7 1, free := [1] } } fun t =>
    look t.dist.sending 3 == none && t.store.free == [1, 7] := by decide +kernel
theorem test_upstreamByteArrival : after (.upstreamByteArrival 2) w fun t => (lineOf t 2).offered == 1 := by decide +kernel

/-! ### Supervision -/

/-- Line 4 in the search of 7.10. -/
def searching4 (candidates : List Nat) (record : Bool) : State := { w with sup := alter w.sup 4 fun x =>
  { x with bitIndex := 1000, searchFrom := 1000, candidates := candidates, mimicRecord := record, lastOffset := some 29 } }

theorem test_searchMarkerFound_rejects : after (.searchMarkerFound 4 1061) (searching4 [1013, 1029] false) fun t =>
    (supOf t 4).candidates == [1029, 1061] && (supOf t 4).mimicRecord && !(supOf t 4).aligned := by decide +kernel
theorem test_searchMarkerFound_confirms : after (.searchMarkerFound 4 1109) (searching4 [1061] true) fun t =>
    (supOf t 4).aligned && (supOf t 4).offset == 5 && (supOf t 4).mimic && t.store.um.length + 1 == 1 + (if
      t.sched.inFlight.isSome then 0 else 1) := by decide +kernel
theorem test_searchTimeExpiry : after (.searchTimeExpiry 4) { searching4 [] false with
    sup := alter (searching4 [] false).sup 4 fun x => { x with searchTime := 20 } } fun t =>
    (lineOf t 4).sync == .outOfSync && (lineOf t 4).service == .down := by decide +kernel

/-- Line 2 aligned, in the ninth second of its window with one marker result left before a loss (7.10). -/
def aligned2 (lastFour : List Bool) (positions : Nat) : State := { w with sup := alter w.sup 2 fun x =>
  { x with
    aligned := true, lastFour := lastFour, positionEnd := 48, showtime := ⟨true, true, 5⟩
    second := some ⟨positions, 0, false⟩, window := ⟨8, 1⟩ } }

/-- The marker pattern stands at bits 24 to 31 of the lost position, which is searched to its end at bit index 48 (R111). -/
theorem test_reportPositionEnd_loses_the_stream :
    after (.reportPositionEnd 2 0x0000_00B2_0000) (aligned2 [true, true, false, false] 402) fun t =>
      !(supOf t 2).aligned && (lineOf t 2).ses == 1 && (lineOf t 2).sync == .inSync && (supOf t 2).window == ⟨0, 0⟩ &&
        (supOf t 2).showtime == ⟨true, true, 0⟩ && (supOf t 2).candidates == [24] && (supOf t 2).searchTime == 0 := by
  decide +kernel

/-- A good report: sequence 5, showtime, 3 anomalies, 1,500 units (R106). -/
def goodReport : BitVec 48 :=
  let b : List Byte := [0xB2, 0x58, 3, 0x05, 0xDC]
  0xB2#8 ++ 0x58#8 ++ 3#8 ++ 0x05#8 ++ 0xDC#8 ++ crc8 b

theorem test_reportPositionEnd_good : after (.reportPositionEnd 2 goodReport) (aligned2 [true, true, true, true] 0) fun t =>
    (lineOf t 2).attainable == some 12000 && (supOf t 2).lastGood == some (5, 0) &&
      (supOf t 2).second == some ⟨1, 3, false⟩ && (supOf t 2).showtime == ⟨true, true, 6⟩ := by decide +kernel
theorem test_losTriggerTimerExpiry_suppressed : after (.losTriggerTimerExpiry 2) { atTime 40000 w with
    seq := { w.seq with latch := true }, sup := alter w.sup 2 fun x => { x with timerFrom := some 10000 } } fun t =>
    (supOf t 2).timerFrom == some 40000 && t.seq.queue == [] := by decide +kernel

/-! ### Claims and runs -/

/-- Station 4 of the worked sequence of 8.5 as holder that waits for the end of its confirm window. -/
def taking : State := { w with
  loader := { w.loader with station := 4 }
  notices := { w.notices with framing := false }
  claims := { startClaims 4 with
    holder := some 4, expiry := some 15200, queue := [⟨6, .triggered, 15⟩], present := filled 8 true
    own := .taking, inForce := some ⟨.scheduled, 42⟩, ownLimit := some 14200, confirmAt := some 10020 } }

/-- An OPERATOR run of line 3 from slot 10. -/
def run17 : Run := ⟨17, 3, 10, .operator, .new, none, false, none, 0, 0⟩

/-- A run active in a phase at a slot. -/
def inPhase (r : Run) (slot : Slot) (p : Phase) : Active := ⟨r, slot, p, some 10000, false, false, .passed⟩

/-- Station 4 with a run active. -/
def active (own : OwnState) (a : Active) (s : State) : State := { s with
  claims := { s.claims with own := own, confirmAt := if own = .taking then s.claims.confirmAt else none }
  seq := { s.seq with active := some a } }

/-- Line 3 connected under a hold of station 4. -/
def connected (a : Active) : State :=
  let s := active .holding a taking
  { s with
    claims := { s.claims with relay := some 3, occDriven := true }
    lines := put s.lines 3 { lineUp with sync := .outOfSync, test := .connected, service := .testing }
    sup := alter s.sup 3 suspendSup }

theorem test_holdExpiry : after .holdExpiry (atTime 15200 (connected (inPhase run17 10 .sampling))) fun t =>
    t.claims.holder == none && t.claims.relay == none && t.claims.own == .releasing &&
      (t.seq.active.map fun a => (a.run.status, a.slot)) == some (.suspended, 10) && (lineOf t 3).service == .down := by
  decide +kernel
theorem test_turnLapse : after .turnLapse { w with claims := { w.claims with
    queue := [⟨6, .triggered, 15⟩, ⟨4, .scheduled, 42⟩], turnFrom := some 9500, present := filled 8 true } } fun t =>
    t.claims.queue == [⟨4, .scheduled, 42⟩] && t.claims.turnFrom == some 10000 := by decide +kernel
theorem test_confirmWindowEnd_holds :
    after (.confirmWindowEnd false) (atTime 10020 (active .taking (inPhase run17 10 .waitingBus) taking)) fun t =>
      t.claims.own == .holding && t.claims.occDriven && t.claims.relay == some 3 && (lineOf t 3).service == .testing &&
        (t.seq.active.map fun a => (a.phase, a.until_)) == some (.connecting, some 10030) := by decide +kernel
theorem test_confirmWindowEnd_busy :
    after (.confirmWindowEnd true) (atTime 10020 (active .taking (inPhase run17 10 .waitingBus) taking)) fun t =>
      t.claims.own == .queued && t.notices.queue == [⟨.release, 0⟩, ⟨.claim .scheduled 42, 0⟩] := by decide +kernel
theorem test_relayReleaseTimeEnd : after .relayReleaseTimeEnd { taking with claims := { taking.claims with
    own := .releasing, occDriven := true, releaseAt := some 10000 } } fun t =>
    !t.claims.occDriven && t.claims.releaseAt == none && t.notices.queue == [⟨.release, 0⟩] := by decide +kernel
theorem test_ownHoldLimit : after .ownHoldLimit (atTime 14200 (connected { inPhase run17 12 .sampling with charged := true })) fun t =>
    (t.seq.closing.map (·.until_)) == some 14250 && t.claims.stimulus == .discharge && t.seq.active == none &&
      t.seq.queue == [{ run17 with status := .suspended, resume := some 12 }] := by decide +kernel
theorem test_occupancyLoss : after .occupancyLoss
    (connected (inPhase { run17 with origin := .triggered } 10 .settling)) fun t =>
    t.seq.latch && t.seq.active == none && t.claims.own == .releasing && t.claims.occDriven &&
      (look t.meas.lastRuns 3) == some ⟨17, .triggered, .busLost, 10000⟩ := by decide +kernel
theorem test_operateTimeEnd : after .operateTimeEnd (connected (inPhase run17 11 .connecting)) fun t =>
    t.claims.stimulus == .dcTest && (t.seq.active.map fun a => (a.phase, a.until_)) == some (.settling, some 10200) &&
      t.meas.samples == 800 := by decide +kernel
theorem test_settleTimeEnd : after .settleTimeEnd (connected (inPhase run17 11 .settling)) fun t =>
    (t.seq.active.map (·.phase)) == some .sampling && t.meas.acc == ⟨0, 0, 0, 0, none, none⟩ := by decide +kernel

/-- The run of 9.6 in DISCHARGING of its stop step, judged PASS. -/
def discharging : State :=
  let s := connected (inPhase run17 12 .discharging)
  { s with meas := { s.meas with verdict := some .pass } }

theorem test_dischargeTimeEnd : after .dischargeTimeEnd discharging fun t =>
    t.seq.active == none && (look t.meas.lastRuns 3) == some ⟨17, .operator, .passed, 10000⟩ &&
      t.claims.own == .releasing && (lineOf t 3).test == .none := by decide +kernel
theorem test_endingDischargeEnd : after .endingDischargeEnd
    (connected { inPhase run17 12 .ending with outcome := .cancelled }) fun t =>
    t.seq.active == none && (look t.meas.lastRuns 3) == some ⟨17, .operator, .cancelled, 10000⟩ := by decide +kernel
theorem test_holdoffExpiry : after (.holdoffExpiry 3) { w with
    seq := { w.seq with holdoffs := put w.seq.holdoffs 3 (some 1) } } fun t => look t.seq.holdoffs 3 == none := by
  decide +kernel

/-- The single step of slot 50 with fifteen of its sixteen pairs taken (10.6). -/
def lastPair : State :=
  let s := connected (inPhase { run17 with start := 50 } 50 .sampling)
  { s with meas := { s.meas with
    acc := ⟨15, 8500, 0, 0, some 1500, some 1500⟩, quantity := some .foreignDc, wires := some .tipRing, samples := 16 } }

theorem test_sampleTaken_stores : after (.sampleTaken (-500) 0) lastPair fun t =>
    (look (look t.meas.results 3) 0).map (fun r => (r.value, r.verdict, r.count)) == some (5000, .pass, 1) &&
      t.seq.active == none := by decide +kernel
theorem test_sampleTaken_hazard : after (.sampleTaken 21000 0) lastPair fun t =>
    (lineOf t 3).hazard && t.claims.relay == none && (look t.seq.faults 3).map (·.status) == some .faultedHazard := by
  decide +kernel
theorem test_sampleFrameFault : after .sampleFrameFault { w with meas := { w.meas with faults := 65535 } } fun t =>
    t.meas.faults == 65535 := by decide +kernel

/-! ### Requests -/

/-- The first bytes of the response that a request leaves in UM. -/
def answered (c : Instr) (s : State) (n : Nat) (bytes : List Byte) : Bool :=
  after c { s with sched := { s.sched with levels := filled 13 0 } } fun t => match t.store.um.getLast? with
    | some e => readFrame e.cells t.store.memory n == bytes
    | none => false

theorem test_readLine : answered (.readLine 9 12) w 5 [1, 9, 1, 0, 0] ∧ answered (.readLine 9 3) w 4 [1, 9, 0, 0] := by
  decide +kernel
theorem test_readStation : answered (.readStation 9) w 3 [2, 9, 0] := by decide +kernel
theorem test_readPeers : answered (.readPeers 9) w 6 [3, 9, 0, 0, 249, 2] := by decide +kernel
theorem test_readResults : answered (.readResults 9 3) w 6 [4, 9, 0, 0, 112, 255] := by decide +kernel
theorem test_barLine : answered (.barLine 9 3) w 6 [5, 9, 0, 0, 1, 2] := by decide +kernel
theorem test_unbarLine : answered (.unbarLine 9 3) { w with lines := put w.lines 3 { lineUp with
    barred := true, service := .barred } } 6 [6, 9, 0, 0, 1, 5] := by decide +kernel
theorem test_setTag : answered (.setTag 9 9 820 3 0) mapped 9 [7, 9, 0, 0, 4, 0x03, 0x34, 3, 0] ∧
    answered (.setTag 9 9 712 3 0) mapped 10 [7, 9, 2, 0, 5, 255, 255, 255, 255, 0] := by decide +kernel
theorem test_clearTag : answered (.clearTag 9 0) mapped 9 [8, 9, 0, 0, 4, 0x02, 0xC8, 3, 1] := by decide +kernel
theorem test_loadStep : answered (.loadStep 9 127 ⟨1, 0, 0, 1, 0, 16, 0, 0, 0⟩) w 13 [9, 9, 0, 0, 17, 1, 0, 0, 1, 0, 0, 0, 16] ∧
    answered (.loadStep 9 128 ⟨1, 0, 0, 1, 0, 16, 0, 0, 0⟩) w 5 [9, 9, 1, 0, 0] := by decide +kernel
theorem test_loadStepEmpty : after (.loadStepEmpty 9 40) w (fun t => look t.seq.steps 40 == none) ∧
    answered (.loadStepEmpty 9 12) (connected (inPhase run17 10 .settling)) 5 [9, 9, 2, 0, 18] := by decide +kernel
theorem test_submitRun : answered (.submitRun 9 3 10 0) w 14 [10, 9, 0, 0, 9, 1, 0, 0, 0, 21, 0, 0, 0, 0] ∧
    after (.submitRun 9 3 10 0) w fun t => t.claims.own == .queued && (lineOf t 3).test == .pending := by decide +kernel
theorem test_cancelRun : after (.cancelRun 9 17) (connected (inPhase run17 10 .settling)) (fun t =>
      (t.seq.active.map (·.cancel)) == some true) ∧ answered (.cancelRun 9 18) w 3 [11, 9, 2] := by decide +kernel
theorem test_clearFault : after (.clearFault 9 3) { w with
    lines := put w.lines 3 { lineUp with hazard := true }
    seq := { w.seq with faults := put w.seq.faults 3 (some { run17 with status := .faultedHazard, steps := 2 }) } } fun t =>
    !(lineOf t 3).hazard && (look t.seq.faults 3) == none && (t.seq.active.map (·.run)) == some run17 := by decide +kernel
theorem test_clearFaultLatch : after (.clearFaultLatch 9) { w with seq := { w.seq with latch := true } } fun t =>
    !t.seq.latch := by decide +kernel
theorem test_realign : after (.realign 9 2) (aligned2 [true, true, true, true] 5) fun t =>
    !(supOf t 2).aligned && (lineOf t 2).es == 1 && (lineOf t 2).sync == .inSync && (supOf t 2).cutEnd == some 48 := by
  decide +kernel

/-- Line 2 in SEARCH, in the position that a REALIGN has cut off and that ends at bit index 48. -/
def cut2 : State := { w with sup := alter w.sup 2 fun x => { x with cutEnd := some 48, candidates := [16] } }

/-- The request has been taken first: the position's bits are searched, and it is not counted (R112). -/
theorem test_realign_then_position_end : after (.reportPositionEnd 2 0xB200_B200_00B2) cut2 fun t =>
    (supOf t 2).candidates == [16, 0, 40] && (supOf t 2).second == none && (supOf t 2).lastFour == (supOf cut2 2).lastFour &&
      (supOf t 2).bitIndex == 48 && (supOf t 2).cutEnd == none := by decide +kernel
theorem test_restart : after (.restart 9) w (fun t => t.mgmt.wait == .waiting 10100) ∧
    answered (.restart 9) w 3 [14, 9, 0] := by decide +kernel
theorem test_unknown : answered (.unknown [77, 3, 1]) w 3 [77, 3, 3] ∧ answered (.unknown [77]) w 3 [0, 0, 3] := by
  decide +kernel
theorem test_restartWaitTimeout : after .restartWaitTimeout { w with mgmt := ⟨[], false, .waiting 10000⟩ } fun t =>
    t.mgmt.wait == .ended := by decide +kernel
theorem test_lpRdyWithdrawn : after (.lpRdyWithdrawn 3) { w with dist := { w.dist with ready := filled 12 true } } fun t =>
    !look t.dist.ready 3 && look t.dist.ready 4 := by decide +kernel

/-! ### States that meet the hypotheses of the statements, clause by clause -/

/-- A part that runs takes requests where it is in no restart wait and no MGMT frame is in reception. -/
theorem takes_of {s : State} (hp : s.power = .running) (hw : s.mgmt.wait = .none) (hu : s.store.uplinkRx = .idle) :
    TakesRequests s := ⟨hp, hw, fun _ _ _ h => by rw [hu] at h; cases h⟩

theorem takes_w : TakesRequests w := takes_of rfl rfl rfl

/-- The station after its quiet timeout, with the notices of the bus and the search of every aligner at rest. -/
def quietState : State := { w with
  notices := { w.notices with quietTaken := true, gapPassed := true }
  lines := filled 12 { lineUp with sync := .outOfSync, service := .down } }

theorem witness_IdleStepQueuesADueExpiryOrTicks :
    State.reset.pending = [] ∧ State.reset.power = .reading ∧ { State.reset with power := .held }.pending = [] ∧
    quietState.pending = [] ∧ quietState.power = .running ∧ dueCommand quietState = none ∧
    cabinetOfFour.pending = [] ∧ cabinetOfFour.power = .running ∧
    dueCommand cabinetOfFour = some .isolationTimerExpiry ∧ { w with mgmt := ⟨[], false, .ended⟩ }.mgmt.wait = .ended ∧
    isTimed .isolationTimerExpiry = true ∧ (∀ b, Instr.isolationTimerExpiry ≠ .confirmWindowEnd b) := by decide +kernel
theorem witness_IdleStepQueuesADueExpiryOrTicks_due :
    Due cabinetOfFour .isolationTimerExpiry ∧ ¬ Due quietState .isolationTimerExpiry :=
  ⟨(isolationDue_iff _).mp (by decide +kernel), fun h => by have := (isolationDue_iff _).mpr h; revert this; decide +kernel⟩
theorem witness_PwrgoodHoldsThePart : State.reset.power ≠ .running ∧ Instr.startBitRead ≠ .powerOn ∧
    Instr.startBitRead ≠ .pwrgoodFall ∧ ∀ straps image, Instr.startBitRead ≠ .configurationReadEnd straps image :=
  ⟨by decide, by decide, by decide, by intros; exact Instr.noConfusion⟩
theorem witness_RestartStartKeepsWhatItMust : w.power = .running ∧ { w with mgmt := ⟨[], false, .ended⟩ }.mgmt.wait ≠ .none ∧
    w.mgmt.wait = .none := by decide
theorem witness_ConfigurationReadEndOpensThePart : State.reset.power = .reading := rfl
theorem witness_StartReportsAreTheFirstFrames :
    State.reset.power = .reading ∧ State.reset.store = startStore ∧ State.reset.mgmt = startManagement := ⟨rfl, rfl, rfl⟩

/-- A valid image: format 1, and a sum of 0x5A (R169). -/
def validImage : List Byte := 1 :: 0x59 :: List.replicate 254 0

theorem witness_ImageTakenLiesInItsRanges : byteAt validImage 0 = 1 ∧
    (validImage.foldl (fun n x => n + x.toNat) 0) % 256 = 0x5A ∧ imageFault validImage = none ∧ byteAt [0] 0 ≠ 1 ∧
    byteAt [1] 0 = 1 ∧ (([1] : List Byte).foldl (fun n x => n + x.toNat) 0) % 256 ≠ 0x5A ∧ imageFault [0] ≠ none ∧
    0 < min 32 (fieldAt (List.replicate 36 1) 35 1) := by
  decide +kernel

/-- The clamps of a valid image of zeros: every value but headroom, trigger delay and slot, and count is raised (R177). -/
theorem test_image_is_clamped : (let img := takeImage validImage
    img.settings.mgmtTag = 1 ∧ img.settings.floor = 1024 ∧ img.settings.ceiling = 1024 ∧ img.settings.debounce = 2 ∧
    img.settings.mimicCheck = true ∧ img.settings.strict = false ∧ img.clamped = 86 ∧
    (look img.profiles 11).burst = 2048) := by decide +kernel
theorem witness_StartMapIsSound : ([(712, 11, FrameClass.high)] : List (Nat × Nat × FrameClass))[(0 : MapIndex).val]? =
    some (712, (11 : Line).val, .high) ∧ 712 ≠ 65535 ∧
    ∀ j < (0 : MapIndex).val, ∀ r : Nat × Nat × FrameClass,
      ([(712, 11, FrameClass.high)] : List (Nat × Nat × FrameClass))[j]? = some r → r.1 ≠ 712 :=
  ⟨rfl, by decide, fun j h => absurd h (Nat.not_lt_zero j)⟩
/-- An entry whose tag a lower index carried, and lost for its line 12, is kept; tag 0, the management tag 7, a second
entry of a kept tag and every index from the valid count on are empty (R95). -/
theorem test_startMap_examines_in_order :
    (let m := startMap .powerOn 7 (filled 32 none)
      [(5, 12, .high), (5, 3, .high), (0, 1, .normal), (7, 1, .normal), (5, 4, .normal), (65535, 11, .normal)]
     look m 0 = none ∧ look m 1 = some ⟨5, 3, .high⟩ ∧ look m 2 = none ∧ look m 3 = none ∧ look m 4 = none ∧
     look m 5 = some ⟨65535, 11, .normal⟩ ∧ look m 6 = none ∧ look m 31 = none) := by decide +kernel
theorem witness_StartMapIsSound_bounds :
    look (startMap .powerOn 7 (filled 32 none) (List.replicate 32 (9, 0, .normal))) 0 = some ⟨9, 0, .normal⟩ ∧
    look (startMap .powerOn 7 (filled 32 none) (List.replicate 31 (0, 0, .normal) ++ [(9, 0, .high)])) 31 =
      some ⟨9, 0, .high⟩ ∧
    ([(712, 11, FrameClass.high)] : List (Nat × Nat × FrameClass)).length ≤ (1 : MapIndex).val := by decide +kernel
theorem takes_mapped : TakesRequests mapped ∧ MapSound mapped :=
  ⟨takes_of rfl rfl rfl, by unfold MapSound; decide +kernel⟩
theorem witness_SetTagAndClearTagWriteOneIndex : (TakesRequests mapped ∧ MapSound mapped) ∧
    (32 : Byte).toNat > 31 ∧
    (31 : Byte).toNat = (31 : MapIndex).val ∧ (12 : Byte).toNat > 11 ∧ (11 : Byte).toNat = (11 : Line).val ∧
    classOperand 2 = none ∧ classOperand 1 = some .high ∧ (65535 : BitVec 16).toNat = mapped.settings.mgmtTag ∧
    (some ⟨712, 3, .high⟩ : Option MapEntry) = look mapped.dist.map 0 ∧ (0 : MapIndex) ≠ 31 ∧
    ∀ y : MapIndex, y ≠ 31 → ∀ e ∈ look mapped.dist.map y, e.tag ≠ 65534 :=
  ⟨takes_mapped, by decide +kernel⟩

/-- A report and a full report queue. -/
def aReport : Report := ⟨5, .busCondition .listening .joined⟩
def withReports (n : Nat) : State := { w with mgmt := { w.mgmt with reports := List.replicate n aReport } }

theorem witness_ReportIsQueuedOfferedOrLost : 16 ≤ (withReports 16).mgmt.reports.length ∧
    (withReports 15).mgmt.reports ≠ [] ∧ (withReports 15).mgmt.reports.length < 16 ∧ w.mgmt.reports = [] ∧
    (freeCells 1).store.free.Nodup ∧ memWf (freeCells 1).store.memory = true ∧ (freeCells 1).mgmt.reports = [] ∧
    256 * (freeCells 1).store.free.length ≥ (reportFrame false aReport).length ∧ (freeCells 1).store.um.length < 32 ∧
    256 * (freeCells 0).store.free.length < (reportFrame false aReport).length ∧ (freeCells 0).mgmt.reports = [] ∧
    (freeCells 0).store.free.Nodup ∧ memWf (freeCells 0).store.memory = true := by decide +kernel

/-- A report of R113 written out from R175: line 4, loss of signal now 1, at 66,051 ms. -/
theorem test_report_bytes : (reportFrame true ⟨66051, .alarm 4 .signalLoss true⟩).take 10 =
    [129, 0, 0, 1, 2, 3, 4, 1, 1, 0] := by decide
theorem witness_ResponseEntersUmOrIsLost : (freeCells 1).mgmt.reports = [] ∧ (freeCells 1).store.free.Nodup ∧
    memWf (freeCells 1).store.memory = true ∧ ([] : List Byte).length < 65536 ∧ (freeCells 1).store.um.length < 32 ∧
    256 * (freeCells 1).store.free.length ≥ (responseFrame 1 1 .done []).length ∧
    256 * (freeCells 0).store.free.length < (responseFrame 1 1 .done []).length ∧ (freeCells 0).mgmt.reports = [] ∧
    (freeCells 0).store.free.Nodup ∧ memWf (freeCells 0).store.memory = true := by decide +kernel

/-- A station with a command that waits. -/
def waitingCommand : State := { mapped with pending := [.pacingUnderflow (.entry 12)] }

/-- A station with line 3 connected for run 17, and a command that waits. -/
def waitingRun : State := { connected (inPhase run17 10 .sampling) with pending := [.pacingUnderflow (.entry 12)] }

theorem witness_step : (∃ t, step waitingCommand = .next t) ∧ ∃ t, step waitingRun = .next t := ⟨⟨_, rfl⟩, ⟨_, rfl⟩⟩
theorem witness_EveryStepKeepsStoreAndReportBounds : MemoryCanonical waitingCommand ∧ QueuesBounded waitingCommand ∧
    CellsAccounted waitingCommand :=
  ⟨by unfold MemoryCanonical; decide +kernel, by unfold QueuesBounded; decide +kernel,
    startStore_accounted _ rfl rfl fun _ => look_filled ..⟩
theorem witness_EveryStepKeepsLevelsAndAllowanceInRange : BucketsBounded waitingCommand ∧ AllowanceBounded waitingCommand :=
  ⟨by unfold BucketsBounded; decide +kernel, by unfold AllowanceBounded; exact ⟨by decide, by decide +kernel⟩⟩
theorem witness_EveryStepKeepsServiceStatesDerived :
    ServiceDerived waitingRun ∧ RelaySound waitingRun ∧ AlignersSound waitingRun := by
  unfold ServiceDerived RelaySound AlignersSound; decide +kernel
theorem witness_EveryStepKeepsRunQueueAndResultsInBounds : RunsSound waitingRun ∧ IdsSound waitingRun ∧
    ResultsClamped waitingRun :=
  ⟨⟨by decide, List.Pairwise.nil⟩, by unfold IdsSound; decide +kernel, fun l q r h => by
    have : look (look waitingRun.meas.results l) (quantityIndex q) = none := by
      show look (look (filled 12 (filled 5 none)) l) (quantityIndex q) = none
      simp
    rw [this] at h; cases h⟩
theorem witness_EveryStepKeepsTheLineMapSound : MapSound waitingCommand := by unfold MapSound; decide +kernel
theorem witness_EveryStepKeepsTheHolderViewSound : ViewSound taking where
  once := by decide +kernel
  notHolder := by decide +kernel
  present := by decide +kernel
  holderPresent := by decide +kernel
  ownPresent := by decide +kernel
  ordered := by decide +kernel
  expiry := by decide +kernel
  turn := by decide +kernel
theorem witness_OnlyTheNamedCommandsChangeEachPart : w.power = .running ∧ (∃ t, exec .sampleFrameFault w = .next t) ∧
    Instr.sampleFrameFault ≠ .powerOn ∧ Instr.sampleFrameFault ≠ .pwrgoodFall ∧ Instr.sampleFrameFault ≠ .restartStart :=
  ⟨rfl, ⟨_, rfl⟩, by decide, by decide, by decide⟩

/-- The end of an MGMT frame of two bytes acts as the request that it carries. -/
theorem test_acting : acting { w with store := { w.store with uplinkRx := .request 2 [] 0 } }
    (.frameReceptionEnd .uplink [2, 9]) = .readStation 9 := by decide +kernel

/-! ### Hypotheses: the cabinet bus -/

theorem witness_BusReadingAndItsTimers : w.power = .running ∧ cabinetOfFour.power = .running ∧
    cabinetOfFour.notices.condition ≠ .isolated ∧ { cabinetOfFour.notices with condition := .isolated }.condition = .isolated ∧
    Due cabinetOfFour .isolationTimerExpiry ∧
    Due { w with notices := { w.notices with duplicateUntil := some 10000 } } .duplicateNumberHoldoffExpiry :=
  ⟨rfl, rfl, by decide +kernel, rfl, (isolationDue_iff _).mp (by decide +kernel), (duplicateDue_iff _).mp (by decide +kernel)⟩

/-- The station with one notice to send, at a given quiet of the bus; its gap is 12 bit times. -/
def quietFor (n : Nat) : State := { w with notices := { w.notices with queue := [⟨.release, 15⟩], quiet := n } }

theorem witness_GapAndQuietTimeoutStartTheHeadNotice : Due (quietFor 24) .accessGapExpiry ∧
    ¬ Due (quietFor 23) .accessGapExpiry ∧ Due (quietFor 4000) .busQuietTimeout ∧ ¬ Due (quietFor 3999) .busQuietTimeout :=
  ⟨(gapDue_iff _).mp (by decide +kernel), fun h => absurd ((gapDue_iff _).mpr h) (by decide +kernel),
    (quietDue_iff _).mp (by decide +kernel), fun h => absurd ((quietDue_iff _).mpr h) (by decide +kernel)⟩
theorem witness_GapAndQuietTimeoutStartTheHeadNotice_queue : (quietFor 24).power = .running ∧
    (quietFor 24).notices.permitted = true ∧ (quietFor 24).notices.queue = ⟨.release, 15⟩ :: [] ∧ w.notices.queue = [] ∧
    startNotices.permitted = false := by decide +kernel
theorem witness_EverySentNoticeReadsBackAsItWasAskedFor : askInRange (.status 15 65535 0) ∧ askInRange (.claim .triggered 600) ∧
    askInRange (.take 1) ∧ askInRange .held ∧ askInRange .release ∧ 255 < 256 ∧ 600 ≤ 600 ∧ w.notices.attempt = none ∧
    (sending .release).notices.attempt = some ⟨4, true, false, 0, [6], 0⟩ ∧ ([6] : List Byte)[0]? = some 6 ∧
    10 * ([6] : List Byte).length ≤ 20 / 2 ∧ 19 / 2 = 10 * 0 + 9 ∧ 16 / 2 = 10 * 0 + 1 + 7 ∧
    (List.replicate 15 (6 : Byte)).length < 16 := by
  unfold askInRange; decide +kernel

/-- A notice of station 6 with sequence 9, its fields and its check written out (R172). -/
def notice6 (kind : Byte) (fields : List Byte) : List Byte :=
  let b : List Byte := [kind, 6, byteOf (6 + fields.length), 9] ++ fields
  b ++ two (crc16 b).toNat

/-- The kind of a notice in a report is its place in the list of R20, from 0 (R175). -/
theorem test_notice_kind_in_reports : reportFields (.noticeDropped .status 16) = [0, 0, 0, 0, 16] ∧
    reportFields (.duplicateNumber .release 9) = [5, 0, 0, 0, 9] := by decide

/-- What the levels of a notice, with the 10 recessive bit times that end it, give. -/
def heardFrom6 (kind : Byte) (fields : List Byte) : Option GoodNotice :=
  heardNotice (busLevels (noticeLevels (notice6 kind fields)) 10)

theorem witness_NoticeEndCountsABadNoticeAndFollowsAGoodOne : w.power = .running ∧ w.notices.framing = true ∧
    w.notices.attempt = none ∧ (frameLevels (busLevels (noticeLevels [6, 7]) 10)).ended = true ∧
    heardNotice (busLevels (noticeLevels [6, 7]) 10) = none ∧ (frameLevels (busLevels (noticeLevels [6, 7]) 9)).ended = false ∧
    (frameLevels (busLevels (noticeLevels (notice6 6 [])) 10)).ended = true ∧ w.station.val ≠ 6 ∧
    heardFrom6 6 [] = some ⟨6, 9, .release⟩ ∧ 2 ≤ w.settings.cabinet ∧
    (6 : Fin 9).val = ({ w with loader := { w.loader with station := 6 } } : State).station.val := by decide +kernel

/-- The station with station 6 in its table and its holder view. -/
def withPeer6 : State := { w with
  share := { w.share with peers := alter w.share.peers 6 fun p =>
    { p with presence := .joining, lastSequence := some 5, joinedAt := some 9800 } }
  claims := { w.claims with present := put w.claims.present 6 true } }

theorem witness_StatusAndCapacityNoticesUpdateTheirEntry : withPeer6.power = .running ∧ withPeer6.notices.framing = true ∧
    withPeer6.notices.attempt = none ∧ (6 : StationNo) ≠ withPeer6.station ∧
    (frameLevels (busLevels (noticeLevels (notice6 1 [0xC3, 0, 5, 0, 4])) 10)).ended = true ∧
    heardFrom6 1 [0xC3, 0, 5, 0, 4] = some ⟨6, 9, .status true true 3 5 4⟩ ∧
    (frameLevels (busLevels (noticeLevels capacity625) 10)).ended = true ∧
    heardNotice (busLevels (noticeLevels capacity625) 10) = some ⟨8, 7, .capacity 625⟩ := by decide +kernel

/-- Station 6 waits behind a TRIGGERED and a SCHEDULED claim. -/
def queued6 : List Claimant := [⟨4, .triggered, 15⟩, ⟨0, .scheduled, 42⟩] ++ ⟨6, .scheduled, 9⟩ :: []

theorem witness_PeerNoticesMoveTheHolderView : look withPeer6.claims.present 6 = true ∧
    (look withPeer6.share.peers 6).presence ≠ .absent ∧ (6 : StationNo) ≠ withPeer6.station ∧
    heardFrom6 3 [1, 2, 88] = some ⟨6, 9, .claim .triggered 600⟩ ∧
    heardFrom6 3 [0, 0, 1] = some ⟨6, 9, .claim .scheduled 1⟩ ∧
    heardFrom6 4 [0, 0] = some ⟨6, 9, .take 1⟩ ∧ heardFrom6 5 [2, 89] = some ⟨6, 9, .held 600⟩ ∧
    heardFrom6 6 [] = some ⟨6, 9, .release⟩ ∧ heardFrom6 1 [0x01, 0, 5, 0, 4] = some ⟨6, 9, .status false false 1 5 4⟩ ∧
    heardFrom6 1 [0x81, 0, 5, 0, 4] = some ⟨6, 9, .status true false 1 5 4⟩ ∧
    withPeer6.claims.holder = none ∧ (∀ c ∈ withPeer6.claims.queue, c.station ≠ 6) ∧
    (∀ c ∈ [(⟨4, .triggered, 15⟩ : Claimant), ⟨0, .scheduled, 42⟩] ++ [], c.station ≠ 6) ∧
    { taking.claims with own := .holding }.own = .holding ∧ taking.claims.own = .taking ∧
    taking.claims.inForce = some ⟨.scheduled, 42⟩ ∧ taking.claims.holder = some taking.station ∧
    (∀ e ∈ taking.notices.queue, askKind e.ask ≠ .held) := by decide +kernel

/-- A CLAIM of a station that stands in the queue (R124, row 3): it takes the new hold, and is raised when TRIGGERED. -/
theorem test_claim_of_a_waiting_station :
    (let s : State := { withPeer6 with
       claims := { withPeer6.claims with holder := some 2, expiry := some 15000, queue := queued6, present := filled 8 true } }
     (after (.noticeEnd (noticeLevels (notice6 3 [1, 0, 30])) 10) s fun t =>
       t.claims.queue == [⟨4, .triggered, 15⟩, ⟨6, .triggered, 30⟩, ⟨0, .scheduled, 42⟩]) ∧
     after (.noticeEnd (noticeLevels (notice6 3 [0, 0, 30])) 10) s fun t =>
       t.claims.queue == [⟨4, .triggered, 15⟩, ⟨0, .scheduled, 42⟩, ⟨6, .scheduled, 30⟩]) := by decide +kernel

/-- The station in an own claim state with a notice of its own in flight. -/
def ownInFlight (own : OwnState) (a : Ask) : State := { w with
  notices := { w.notices with queue := [⟨a, 0⟩], attempt := some ⟨4, false, false, 7, [], 0⟩ }
  claims := { w.claims with own := own, inForce := some ⟨.scheduled, 42⟩ } }

/-- The station in TURN with its TAKE in flight. -/
def takeInFlight : State :=
  let s := ownInFlight .turn (.take 42)
  { s with claims := { s.claims with queue := [⟨0, .scheduled, 42⟩], turnFrom := some 9900 } }

theorem witness_OwnNoticeCompletes : takeInFlight.power = .running ∧
    takeInFlight.notices.attempt = some ⟨4, false, false, 7, [], 0⟩ ∧ takeInFlight.notices.queue = ⟨.take 42, 0⟩ :: [] ∧
    takeInFlight.claims.own = .turn ∧ takeInFlight.claims.holder = none ∧
    look takeInFlight.claims.present takeInFlight.station = true ∧
    (ownInFlight .queued (.claim .scheduled 42)).claims.own = .queued ∧
    (∀ c ∈ w.claims.queue, c.station ≠ w.station) ∧ w.claims.holder ≠ some w.station ∧
    { takeInFlight.claims with holder := some 6 }.holder = some 6 ∧ (6 : StationNo) ≠ takeInFlight.station ∧
    (∃ c ∈ takeInFlight.claims.queue, c.station = takeInFlight.station) ∧
    (ownInFlight .releasing .release).claims.own = .releasing ∧ w.claims.recorded = none ∧
    { w.claims with recorded := some ⟨.triggered, 15⟩ }.recorded = some ⟨.triggered, 15⟩ ∧ 2 ≤ w.notices.statusDone ∧
    taking.claims.holder = some taking.station ∧ w.claims.own = .none ∧ w.claims.waiting = false := by decide +kernel

/-- The station in RELEASING within its release time, OCC_DRV driven, with a RELEASE of an earlier give-up in flight. -/
def earlierRelease (losses : Nat) (waiting : List OutNotice) : State :=
  let s := ownInFlight .releasing .release
  { s with
    notices := { s.notices with queue := ⟨.release, losses⟩ :: waiting }
    claims := { s.claims with holder := some 0, releaseAt := some 10000, occDriven := true } }

/-- Each side of the end of RELEASING at a RELEASE of the station's own: its own release time over or not, and another
RELEASE behind it or none. -/
theorem witness_OwnNoticeCompletes_release :
    (ownInFlight .releasing .release).claims.releaseAt = none ∧ (∀ x ∈ ([] : List OutNotice), x.ask ≠ .release) ∧
    (earlierRelease 0 []).claims.releaseAt ≠ none ∧ (earlierRelease 0 []).claims.own = .releasing ∧
    (earlierRelease 0 []).claims.holder = some (earlierRelease 0 []).station ∧
    ¬ ∀ x ∈ [(⟨.release, 0⟩ : OutNotice)], x.ask ≠ .release := by decide +kernel

/-- A RELEASE of an earlier give-up that ends in the release time leaves RELEASING: the release time then releases OCC_DRV
and asks for the RELEASE that ends it (R135). So at its discard (R132). -/
theorem test_release_of_an_earlier_give_up :
    (after .noticeCompletion (earlierRelease 0 []) fun s =>
      s.claims.own == .releasing && s.claims.holder == none && s.claims.occDriven &&
      after .relayReleaseTimeEnd s fun t =>
        t.claims.own == .releasing && !t.claims.occDriven && t.notices.queue == [⟨.release, 0⟩]) ∧
    after .contentionLoss (earlierRelease 15 []) fun t =>
      t.claims.own == .releasing && t.claims.holder == none && t.claims.releaseAt == some 10000 := by decide +kernel

/-- The completion of the own CLAIM gives a station alone in its queue its turn, and asks for its TAKE (R130, R135). -/
theorem test_own_completions :
    (after .noticeCompletion (ownInFlight .queued (.claim .scheduled 42)) fun t =>
      t.claims.own == .turn && t.claims.queue == [⟨0, .scheduled, 42⟩] && t.notices.queue == [⟨.take 42, 0⟩]) ∧
    (after .noticeCompletion (ownInFlight .holding .held) fun t =>
      t.claims.holder == some 0 && t.claims.expiry == some 11700) ∧
    after .noticeCompletion (ownInFlight .releasing .release) fun t =>
      t.claims.own == .none && t.claims.inForce == none && t.notices.queue == [] := by decide +kernel

/-- A notice in flight with others behind it. -/
def inFlight (e : OutNotice) (waiting : List OutNotice) : State := { w with notices := { w.notices with
  queue := e :: waiting, attempt := some ⟨4, false, false, 0, [], 0⟩ } }

theorem witness_ContentionLossReturnsOrDiscardsTheNotice :
    (inFlight ⟨.claim .scheduled 7, 14⟩ [⟨.held, 0⟩]).power = .running ∧ 14 + 1 < 16 ∧ 16 ≤ 15 + 1 ∧
    (∀ x ∈ [(⟨.held, 0⟩ : OutNotice)], askKind x.ask ≠ .claim ∧ askKind x.ask ≠ .release) ∧
    ([⟨.held, 0⟩, ⟨.claim .triggered 9, 0⟩] : List OutNotice) = [⟨.held, 0⟩] ++ ⟨.claim .triggered 9, 0⟩ :: [] ∧
    (∃ x ∈ [(⟨.release, 0⟩ : OutNotice)], askKind x.ask = .release) ∧ w.claims.own ≠ .releasing ∧
    askKind (.status 1 0 0) = .status ∧ (ownInFlight .queued (.claim .scheduled 42)).claims.inForce = some ⟨.scheduled, 42⟩ ∧
    (ownInFlight .queued (.claim .scheduled 42)).claims.own = .queued ∧ takeInFlight.claims.own = .turn ∧
    takeInFlight.claims.holder = none ∧ takeInFlight.claims.queue.head?.map (·.station) = some takeInFlight.station ∧
    (ownInFlight .releasing .release).claims.own = .releasing ∧ w.claims.recorded = none := by decide +kernel

/-- A loss in the last half bit time of the first start bit and in the first behind it, on a bus whose quiet has reached the
gap and on one where it has not. -/
theorem witness_ContentionLossReturnsOrDiscardsTheNotice_bit :
    let s (n quiet : Nat) : State := { aged n (inFlight ⟨.take 1, 0⟩ []) with
      notices := { (aged n (inFlight ⟨.take 1, 0⟩ [])).notices with quiet := quiet } }
    let age (s : State) : Option Nat := s.notices.attempt.map (·.elapsed)
    let gap (s : State) : Nat := 2 * (12 + 4 * ((s.station.val + 17 - s.notices.lastSender.val) % 9))
    age (s 1 24) = some 1 ∧ age (s 2 24) = some 2 ∧ (s 1 24).notices.framing = true ∧
    gap (s 1 24) ≤ (s 1 24).notices.quiet ∧ ¬ gap (s 1 23) ≤ (s 1 23).notices.quiet := by decide +kernel

/-- The release clauses on both sides, and a CLAIM that meets a RELEASE within the release time. -/
theorem witness_ContentionLossReturnsOrDiscardsTheNotice_release :
    (earlierRelease 15 []).claims.own = .releasing ∧ (earlierRelease 15 []).claims.releaseAt ≠ none ∧
    (ownInFlight .releasing .release).claims.releaseAt = none ∧
    (∀ x ∈ [(⟨.held, 0⟩ : OutNotice)], askKind x.ask ≠ .release) ∧
    (let s : State := { inFlight ⟨.claim .scheduled 7, 0⟩ [⟨.release, 0⟩] with claims := (earlierRelease 0 []).claims }
     s.notices.queue = ⟨.claim .scheduled 7, 0⟩ :: [⟨.release, 0⟩] ∧ askKind (.claim .scheduled 7) = .claim ∧
      s.claims.own = .releasing ∧ s.claims.releaseAt ≠ none) := by decide +kernel
/-- A lost CLAIM that meets a newer CLAIM and a RELEASE: the newer one takes its place and loss count, and the RELEASE
goes (R30, R31). -/
theorem witness_ContentionLossReturnsOrDiscardsTheNotice_newer :
    (let waiting : List OutNotice := [⟨.release, 1⟩] ++ ⟨.claim .triggered 9, 0⟩ :: [⟨.status 1 0 0, 0⟩]
     let s := inFlight ⟨.claim .scheduled 7, 3⟩ waiting
     s.notices.queue = ⟨.claim .scheduled 7, 3⟩ :: waiting ∧ 3 + 1 < 16 ∧ askKind (.claim .triggered 9) = .claim ∧
      (∃ x ∈ waiting, askKind x.ask = .release) ∧ s.claims.own = .none ∧
      (∀ y ∈ [(⟨.release, 1⟩ : OutNotice)] ++ [⟨.status 1 0 0, 0⟩], askKind y.ask ≠ .claim) ∧
      after .contentionLoss s fun t => t.notices.queue == [⟨.claim .triggered 9, 4⟩, ⟨.status 1 0 0, 0⟩]) := by
  decide +kernel
theorem witness_NoKindOfNoticeWaitsTwice :
    (∃ x ∈ [(⟨.take 1, 0⟩ : OutNotice)], askKind x.ask = .claim ∨ askKind x.ask = .take) ∧ askKind .release = .release ∧
    ([⟨.held, 0⟩, ⟨.take 1, 15⟩] : List OutNotice) = [⟨.held, 0⟩] ++ ⟨.take 1, 15⟩ :: [] ∧
    (([⟨.held, 0⟩, ⟨.take 1, 15⟩] : List OutNotice).map fun x => askKind x.ask).Nodup ∧
    (∀ x ∈ ([⟨.held, 0⟩, ⟨.take 1, 15⟩] : List OutNotice), askKind x.ask ≠ askKind (.claim .scheduled 1)) ∧
    NoticesSound { inFlight ⟨.take 1, 2⟩ [⟨.held, 0⟩, ⟨.take 1, 15⟩] with pending := [.contentionLoss] } := by
  unfold NoticesSound; decide +kernel

/-! ### Hypotheses: peers and the share -/

/-- The station with station 6 in a presence state, at a station time. -/
def peer6At (p : Presence) (time : Nat) : State := { atTime time w with
  share := { w.share with peers := alter w.share.peers 6 fun q =>
    { q with presence := p, joinedAt := some 10000, lastStatus := some 10000 } } }

theorem witness_PresenceAndCapacityTimersMoveOneStateOn :
    Due (peer6At .joining 10200) (.presenceTimerExpiry 6) ∧ ¬ Due (peer6At .joining 10199) (.presenceTimerExpiry 6) ∧
    Due (peer6At .present 10200) (.presenceTimerExpiry 6) ∧ ¬ Due (peer6At .stale 10499) (.presenceTimerExpiry 6) ∧
    Due (peer6At .stale 10500) (.presenceTimerExpiry 6) ∧ ¬ Due (peer6At .absent 20000) (.presenceTimerExpiry 6) ∧
    ¬ Due (peer6At .absent 20000) (.presenceTimerExpiry 0) := by
  refine ⟨(presenceDue_iff ..).mp ?_, fun h => absurd ((presenceDue_iff ..).mpr h) ?_, (presenceDue_iff ..).mp ?_,
    fun h => absurd ((presenceDue_iff ..).mpr h) ?_, (presenceDue_iff ..).mp ?_,
    fun h => absurd ((presenceDue_iff ..).mpr h) ?_, fun h => absurd ((presenceDue_iff ..).mpr h) ?_⟩ <;> decide +kernel

/-- The station with a capacity view heard at 10,000 ms, at a station time. -/
def capacityHeard (c : CapacityState) (time : Nat) : State := { atTime time w with
  share := { w.share with capacity := ⟨c, some 625, some 10000⟩ } }

theorem witness_PresenceAndCapacityTimersMoveOneStateOn_capacity :
    Due (capacityHeard .current 10300) .capacityViewExpiry ∧ ¬ Due (capacityHeard .current 10299) .capacityViewExpiry ∧
    Due (capacityHeard .stale 11000) .capacityViewExpiry ∧ ¬ Due (capacityHeard .stale 10999) .capacityViewExpiry ∧
    ¬ Due (capacityHeard .none 20000) .capacityViewExpiry := by
  refine ⟨(capacityDue_iff _).mp ?_, fun h => absurd ((capacityDue_iff _).mpr h) ?_, (capacityDue_iff _).mp ?_,
    fun h => absurd ((capacityDue_iff _).mpr h) ?_, fun h => absurd ((capacityDue_iff _).mpr h) ?_⟩ <;> decide +kernel

/-- A CAPACITY notice taken before the expiry that was due with it: the view stays CURRENT, measuring afresh (R46). -/
theorem test_capacity_before_its_expiry :
    (after (.noticeEnd (noticeLevels capacity625) 10) (capacityHeard .current 10300) fun s =>
      after .capacityViewExpiry s fun t => t.share.capacity == ⟨.current, some 625, some 10300⟩) := by decide +kernel

/-- A STATUS taken before the expiry that was due with it: the entry is PRESENT and stays so (R43). -/
theorem test_status_before_its_expiry :
    (after (.noticeEnd (noticeLevels (notice6 1 [0x03, 0, 5, 0, 4])) 10) (peer6At .present 10200) fun s =>
      after (.presenceTimerExpiry 6) s fun t => (look t.share.peers 6).presence == .present) := by decide +kernel
theorem witness_NoticePeriodExpiryUpdatesDemandsAndAsksForStatus :
    Due { w with share := { w.share with periodAt := some 10000 } } .noticePeriodExpiry :=
  (periodDue_iff _).mp (by decide +kernel)
theorem witness_ShareIsAppliedAndRisesAreChecked : (risingAt 20000).power = .running ∧
    (risingAt 20000).share.rise = some ⟨9857, 10000⟩ ∧ 10000 ≤ (risingAt 20000).time ∧
    (recompute (risingAt 20000)).share.share = 9857 ∧
    (risingAt 20000).share.allowance < (recompute (risingAt 20000)).share.share ∧
    (recompute w).share.share ≤ w.share.allowance ∧
    (recompute { risingAt 20000 with share := { (risingAt 20000).share with allowance := 9858 } }).share.allowance ≠ 9858 ∧
    { w.sched with stationCounter := loadCounter 16 }.stationCounter.running = true := by decide +kernel
theorem witness_ParticipantsAreOrderedByDemandPerWeight : (∀ p ∈ cabinet, 0 < p.weight) ∧
    (cabinet.map (·.station)).Nodup ∧ cabinet.reverse.Perm cabinet ∧
    (∀ i ∈ cabinet, i.demand ≤ 524280) ∧ ∀ j ∈ cabinet, j.weight ≤ 15 := by decide
theorem witness_WaterFillNeverExceedsTheCapacityOrADemand : (∀ p ∈ cabinet, 0 < p.weight) ∧
    (cabinet.map (·.demand)).sum ≤ 55000 ∧ ¬ (cabinet.map (·.demand)).sum ≤ 54999 ∧ 0 < (⟨0, 8, 15⟩ : Participant).weight ∧
    8 ≤ 4000000 * 15 / 15 ∧ 7 * 15 / 15 < 8 ∧ 4000000 ≤ 4000000 ∧ (risingAt 0).notices.condition ≠ .isolated ∧
    (∀ k, takesPart (risingAt 0).station k (look (risingAt 0).share.peers k) = true →
      0 < (look (risingAt 0).share.peers k).weight) ∧
    0 < (look (risingAt 0).share.peers (risingAt 0).station).demand := by decide +kernel

/-! ### Hypotheses: frames -/

theorem witness_CellsHoldTheirFrameAndReturnToTheFreeList : ([3, 5] : List CellNo).Nodup ∧ memWf [] = true ∧
    (List.replicate 512 (1 : Byte)).length ≤ 256 * ([3, 5] : List CellNo).length ∧ (4 : CellNo) ∉ ([3, 5] : List CellNo) ∧
    255 < 256 := by decide +kernel
theorem witness_UpstreamFrameIsAdmittedGrownAndQueued : w.power = .running ∧ (lineOf (freeCells 64) 8).service = .up ∧
    upCells (freeCells 64).store 8 < (lineOf (freeCells 64) 8).profile.upLimit ∧ 64 ≤ (freeCells 64).store.free.length ∧
    (freeCells 64).store.free = 0 :: (freeCells 64).store.free.drop 1 ∧
    (∀ cells count, look (freeCells 64).store.lineRx 8 ≠ .receiving cells count) ∧
    ¬ 64 ≤ (freeCells 63).store.free.length ∧ look (receiving 1792).store.lineRx 3 = .receiving [0] 1792 ∧
    1792 + 256 ≤ 2048 ∧ 2048 < 1793 + 256 ∧ look (receiving 1793).store.lineRx 3 = .receiving [0] 1793 ∧
    (receiving 1).store.free = 1 :: (receiving 1).store.free.drop 1 ∧ (List.replicate 63 (0 : Byte)).length ≤ 255 ∧
    64 ≤ 1 + (List.replicate 63 (0 : Byte)).length ∧ 1 + (List.replicate 62 (0 : Byte)).length < 64 :=
  ⟨rfl, by decide +kernel, by decide +kernel, by decide +kernel, by decide +kernel,
    fun _ _ h => LineRx.noConfusion (show LineRx.idle = _ from h), by decide +kernel, by decide +kernel, by decide,
    by decide, by decide +kernel, by decide +kernel, by decide, by decide, by decide⟩
theorem witness_UplinkHeaderClassifiesTheFrame : MapSound mapped ∧
    mapped.power = .running ∧ mapped.store.uplinkRx = .idle ∧
    256 * (#v[8, 0] : Vector Byte 2)[0].toNat + (#v[8, 0] : Vector Byte 2)[1].toNat = 2048 ∧
    64 ≤ 2048 ∧ 2048 ≤ 2048 ∧ ¬ 2049 ≤ 2048 ∧ ¬ 64 ≤ 63 ∧
    (some ⟨712, 3, .high⟩ : Option MapEntry) = look mapped.dist.map 0 ∧
    256 * (#v[0x02, 0xC8] : Vector Byte 2)[0].toNat + (#v[0x02, 0xC8] : Vector Byte 2)[1].toNat = 712 ∧
    (∀ i, ∀ e ∈ look mapped.dist.map i, e.tag ≠ 713) ∧ mapped.settings.mgmtTag = 65535 ∧
    256 * (#v[0xFF, 0xFF] : Vector Byte 2)[0].toNat + (#v[0xFF, 0xFF] : Vector Byte 2)[1].toNat = 65535 ∧
    (0 : Byte) ≠ 1 ∧ (0 : Byte) ≠ 2 ∧ (0 : Byte) ≠ 3 :=
  ⟨takes_mapped.2, by decide +kernel⟩

/-- A station with a reception on the uplink port. -/
def uplinkIn (r : UplinkRx) (free : Nat) : State := { w with store := { w.store with
  uplinkRx := r, free := (allCells.drop 100).take free } }

theorem witness_DownstreamFrameIsAdmittedGrownAndQueued : (uplinkIn (.dataHeader 3 .high 64) 64).power = .running ∧
    (uplinkIn (.dataHeader 3 .high 64) 64).store.uplinkRx = .dataHeader 3 .high 64 ∧
    (lineOf (uplinkIn (.dataHeader 3 .high 64) 64) 3).service = .up ∧
    downCells (uplinkIn (.dataHeader 3 .high 64) 64).store 3 < 64 ∧
    64 ≤ (uplinkIn (.dataHeader 3 .high 64) 64).store.free.length ∧
    (uplinkIn (.dataHeader 3 .high 64) 63).store.free.length < 64 ∧
    (uplinkIn (.floodHeader 64) 64).store.uplinkRx = .floodHeader 64 ∧
    (uplinkIn (.data 3 .high 64 [0] 1) 1).store.uplinkRx = .data 3 .high 64 [0] 1 ∧
    (uplinkIn (.data 3 .high 64 [0] 1) 1).store.free = 100 :: [] ∧
    (uplinkIn (.data 3 .high 64 [0] 1) 0).store.free = [] ∧
    1 + (List.replicate 63 (0 : Byte)).length = 64 ∧ (List.replicate 63 (0 : Byte)).length ≤ 255 ∧
    1 + (List.replicate 62 (0 : Byte)).length ≠ 64 ∧ look w.dist.ready 3 = false ∧
    look { w.dist with ready := filled 12 true }.ready 3 = true ∧ look w.dist.sending 3 = none ∧
    look w.store.down 3 = [] ∧
    (uplinkIn (.flood [1, 7] 64 [0] 1) 1).store.uplinkRx = .flood [1, 7] 64 [0] 1 ∧
    (uplinkIn (.flood [1, 7] 64 [0] 1) 1).store.free = 100 :: [] ∧ ([1, 7] : List Line).Nodup ∧
    ([0] : List CellNo).Nodup ∧ (∀ l, look w.dist.ready l = false) ∧
    (∀ l ∈ ([1, 7] : List Line), look (filled 12 true) l = true → look w.dist.sending l = none → look w.store.down l = []) := by
  decide +kernel

/-- Line 3 about to leave service during a reception on the uplink port, and during none on its own port. -/
def leaving3 (r : UplinkRx) : State :=
  let s := uplinkIn r 64
  { s with lines := put s.lines 3 { lineUp with barred := true } }

theorem witness_DownstreamFrameIsAdmittedGrownAndQueued_leave :
    inService (lineOf (leaving3 (.flood [3, 7] 64 [0] 1)) 3).service = true ∧
    inService (deriveService (lineOf (leaving3 (.flood [3, 7] 64 [0] 1)) 3)) = false ∧
    (3 : Line) ∈ ([3, 7] : List Line) ∧ ([3, 7] : List Line).filter (· ≠ 3) ≠ [] ∧ ([3] : List Line).filter (· ≠ 3) = [] ∧
    look (leaving3 (.data 3 .high 64 [0] 1)).store.lineRx 3 = .idle := by decide +kernel
theorem witness_AbortedFramesAreDroppedAndBytesOffered : look (receiving 1).store.lineRx 3 = .receiving [0] 1 ∧
    look (put w.store.lineRx 3 .discarding) 3 = .discarding ∧
    (uplinkIn (.data 3 .high 64 [0] 1) 1).store.uplinkRx = .data 3 .high 64 [0] 1 ∧
    (uplinkIn (.flood [1, 7] 64 [0] 1) 1).store.uplinkRx = .flood [1, 7] 64 [0] 1 ∧
    (uplinkIn (.request 3 [1] 1) 1).store.uplinkRx = .request 3 [1] 1 ∧
    (uplinkIn (.request 3 [1] 1) 1).power = .running := by
  decide +kernel
theorem witness_LinePortTakesTheFirstFreshFrame : delivering.power = .running ∧ look delivering.dist.sending 3 = none ∧
    look delivering.store.down 3 = [⟨[7], 64, 9749, .normal, false⟩] ++ [⟨[8], 64, 9750, .normal, false⟩] ∧
    delivering.settings.sojourn < delivering.time - 9749 ∧ delivering.time - 9750 ≤ delivering.settings.sojourn ∧
    look (put delivering.dist.sending 3 (some ⟨[9], 64, 9999, .normal, false⟩)) 3 = some ⟨[9], 64, 9999, .normal, false⟩ ∧
    look (filled 12 true) (3 : Line) = true ∧ look w.dist.ready 3 = false ∧ look w.store.down 3 = [] ∧
    look delivering.dist.ready 3 = false ∧ look delivering.store.down 3 ≠ [] := by decide +kernel

/-- LP_RDY is read when a frame is to be taken: a withdrawal while BUSY leaves the level as last read, and the completion
with a frame behind reads it withdrawn (R103, R104). -/
theorem test_level_as_last_read :
    let busy : State := { delivering with dist := { delivering.dist with
      ready := filled 12 true, lastReady := filled 12 true
      sending := put delivering.dist.sending 3 (some ⟨[9], 64, 9999, .normal, false⟩) } }
    after (.lpRdyWithdrawn 3) busy fun s =>
      look s.dist.lastReady 3 && !look s.dist.ready 3 &&
      after (.linePortTransmissionComplete 3) s fun t =>
        !look t.dist.lastReady 3 && look t.dist.sending 3 == none && (look t.store.down 3).length == 2 := by decide +kernel

/-- A request of two bytes whose header said 70: the length field does not match what arrived (R163). -/
theorem test_request_of_a_wrong_length :
    (after (.frameReceptionEnd .uplink [2, 9]) { uplinkIn (.request 70 [] 0) 64 with sched := { w.sched with levels := filled 13 0 } }
      fun t => (t.store.um.map fun e => readFrame e.cells t.store.memory 3) == [[2, 9, 3]]) ∧
    after (.frameReceptionEnd .uplink [2, 9]) { uplinkIn (.request 2 [] 0) 64 with sched := { w.sched with levels := filled 13 0 } }
      fun t => (t.store.um.map fun e => readFrame e.cells t.store.memory 3) == [[2, 9, 0]] && t.store.uplinkRx == .idle := by
  decide +kernel

/-! ### Hypotheses: pacing and scheduling -/

theorem witness_StationBucketDepthFollowsTheAllowance : ((takeAllowance 3277 w.sched).stationDepth : Int) <
    { w.sched with stationLevel := 4097 }.stationLevel ∧
    w.sched.stationLevel ≤ ((takeAllowance 3277 w.sched).stationDepth : Int) ∧ 3277 ≤ 3277 ∧ 52428 ≤ 52428 ∧
    { w.sched with stationCounter := loadCounter 16 }.stationCounter.running = true ∧ 9857 ≠ w.share.allowance := by decide
theorem witness_AchievedRateNeverExceedsTheRateAskedFor : 1 ≤ 16 ∧ 16 ≤ 1000000 ∧ 15 < 16 ∧ 512000 ≤ 512000 := by decide

/-- A frame of M in flight. -/
def sendingUp : UplinkFrame := ⟨[7], 64, [255, 255, 3, 0, 64], true⟩

theorem witness_UnderflowsRefillAndTransmissionsComplete : w.power = .running ∧
    (look w.sched.counters 0).running = false ∧ (look w.sched.counters 12).running = true ∧
    look w.sched.levels 12 ≤ entryDepth w 12 ∧ w.sched.stationCounter.running = false ∧
    (let sc : Scheduler := { w.sched with stationCounter := loadCounter 16, inFlight := some sendingUp }
     sc.stationCounter.running = true ∧ sc.stationLevel ≤ sc.stationDepth ∧ sc.inFlight = some sendingUp) := by
  decide +kernel

/-- Line 3 holds the turn with a frame of 200 bytes and a given deficit; another of 300 bytes stands behind it, and one
that is too old before it. -/
def turnOf (deficit : Nat) : State := { mapped with
  store := { mapped.store with
    up := put mapped.store.up 3 ([⟨[99], 100, 9749, .normal, false⟩] ++ ⟨[100], 200, 9750, .normal, false⟩ ::
      [⟨[101], 300, 9990, .normal, false⟩]) }
  sched := { mapped.sched with pointer := 3, turn := .held, deficits := put mapped.sched.deficits 3 deficit } }

theorem witness_TurnStartsFramesWithinDeficitAndLevels : queueOf (turnOf 200) (turnOf 200).sched.pointer =
    [⟨[99], 100, 9749, .normal, false⟩] ++ ⟨[100], 200, 9750, .normal, false⟩ :: [⟨[101], 300, 9990, .normal, false⟩] ∧
    (turnOf 200).time - 9750 ≤ (turnOf 200).settings.sojourn ∧ (turnOf 200).settings.sojourn < (turnOf 200).time - 9749 ∧
    (turnOf 200).mgmt.reports = [] ∧
    lineOfEntry 3 = some 3 ∧ inService (lineOf (turnOf 200) 3).service = true ∧
    primaryTag (turnOf 200).dist.map 3 = some 712 ∧ look (turnOf 199).sched.deficits 3 < 200 ∧
    200 ≤ look (turnOf 200).sched.deficits 3 ∧ 0 < look (turnOf 200).sched.levels 3 ∧
    (turnOf 200).sched.inFlight = none ∧ 0 < (turnOf 200).sched.stationLevel ∧
    look (turnOf 499).sched.deficits 3 - 200 < 300 ∧ 300 ≤ look (turnOf 500).sched.deficits 3 - 200 ∧
    ((200 : Nat) : Int) < look (turnOf 500).sched.levels 3 := by decide +kernel
theorem witness_TurnStartsFramesWithinDeficitAndLevels_search : (turnOf 200).sched.turn ≠ .idle ∧
    (let s : State := { turnOf 0 with sched := { (turnOf 0).sched with pointer := 1, turn := .idle } }
     s.power = .running ∧ s.sched.turn = .idle ∧ queueOf s (s.sched.pointer + Fin.ofNat 13 2) ≠ [] ∧
      0 < look s.sched.levels (s.sched.pointer + Fin.ofNat 13 2) ∧
      (∀ j < 2, queueOf s (s.sched.pointer + Fin.ofNat 13 j) = [])) ∧
    (∀ e, queueOf w e = []) ∧ (∀ i, ∀ x ∈ look w.dist.map i, x.line ≠ 3) ∧
    (let s := atTime 20000 (turnOf 200)
     s.mgmt.reports = [] ∧ ∀ x ∈ queueOf s s.sched.pointer, s.settings.sojourn < s.time - x.stamp) := by decide +kernel

/-! ### Hypotheses: service state and supervision -/

theorem witness_BarringALineTakesItOutOfService : TakesRequests w ∧
    11 < (12 : Byte).toNat ∧
    (11 : Byte).toNat = (11 : Line).val ∧ inService (lineOf (leaving3 .idle) 3).service = true ∧
    inService (deriveService (lineOf (leaving3 .idle) 3)) = false ∧
    (look w.sched.counters 3).running = false ∧ 1 ≤ lineRate (lineOf w 3).profile .up ∧
    { w.sched with counters := filled 13 (loadCounter 64) }.counters = filled 13 (loadCounter 64) ∧
    (loadCounter 64).running = true ∧ inService (deriveService { lineUp with sync := .errored }) = true ∧
    lineUp.service ≠ deriveService { lineUp with sync := .errored } ∧
    inService { lineUp with sync := .outOfSync, service := .down }.service = false ∧
    (withReports 16).mgmt.reports.length = 16 ∧ (withReports 15).mgmt.reports ≠ [] ∧
    (withReports 15).mgmt.reports.length < 16 ∧
    (lineOf w 3).test ≠ .connected ∧ (lineOf w 3).equipped = true ∧ (lineOf w 3).service ≠ .testing ∧
    (lineOf (connected (inPhase run17 10 .sampling)) 3).test = .connected ∧ TestCond.none ≠ .connected :=
  ⟨takes_w, by decide +kernel⟩

/-- Line 4 in a search of 20 report times. -/
def searched4 : State := { searching4 [] false with
  sup := alter (searching4 [] false).sup 4 fun x => { x with searchTime := 20 } }

theorem witness_SearchAlignsOrTakesTheLineOut : (searching4 [1013, 1029] false).power = .running ∧
    (supOf (searching4 [1013, 1029] false) 4).suspended = false ∧
    (supOf (searching4 [1013, 1029] false) 4).aligned = false ∧ 48 ≤ 1061 ∧
    1061 - 48 ∈ (supOf (searching4 [1013, 1029] false) 4).candidates ∧
    (∃ c ∈ (supOf (searching4 [1013, 1029] false) 4).candidates, 1061 - 48 < c ∧ c < 1061) ∧
    (searching4 [1013, 1029] false).settings.mimicCheck = true ∧ ServiceDerived searched4 ∧
    ¬ (∃ c ∈ (supOf (searching4 [1061] true) 4).candidates, 1109 - 48 < c ∧ c < 1109) ∧
    (supOf (aligned2 [true, true, true, true] 0) 2).aligned = true := by unfold ServiceDerived; decide +kernel

/-- A confirmation at a moved offset reports it behind the reports that wait; one at the last offset reports nothing
(R109). -/
theorem test_alignment_change :
    (supOf (searching4 [1061] true) 4).lastOffset = some 29 ∧ 29 ≠ 1109 % 48 ∧ 29 = 1133 % 48 ∧
    (after (.searchMarkerFound 4 1109) { searching4 [1061] true with mgmt := (withReports 1).mgmt } fun t =>
      t.mgmt.reports.drop 1 == [⟨w.time, .alignmentChange 4 29 5 true⟩]) ∧
    after (.searchMarkerFound 4 1133) { searching4 [1085] true with mgmt := (withReports 1).mgmt } fun t =>
      (supOf t 4).aligned && t.mgmt.reports.drop 1 == [] := by decide +kernel

/-- Line 2 at an expiry of its trigger timer, with a run active on line 3. -/
def losExpired : State :=
  let s := atTime 40000 (active .queued (inPhase run17 10 .sampling) w)
  { s with
    sup := alter s.sup 2 fun x => { x with timerFrom := some 10000 }
    loader := { s.loader with settings := { builtInSettings with triggerSlot := 40 } } }

theorem witness_SearchAlignsOrTakesTheLineOut_due : Due searched4 (.searchTimeExpiry 4) ∧
    ¬ Due (searching4 [] false) (.searchTimeExpiry 4) ∧ Due losExpired (.losTriggerTimerExpiry 2) ∧
    ¬ Due (atTime 39999 losExpired) (.losTriggerTimerExpiry 2) ∧
    Due { w with seq := { w.seq with holdoffs := put w.seq.holdoffs 3 (some 10000) } } (.holdoffExpiry 3) := by
  refine ⟨(searchTimeDue_iff ..).mp ?_, fun h => absurd ((searchTimeDue_iff ..).mpr h) ?_, (losTimerDue_iff ..).mp ?_,
    fun h => absurd ((losTimerDue_iff ..).mpr h) ?_, (holdoffDue_iff ..).mp ?_⟩ <;> decide +kernel
theorem witness_SearchAlignsOrTakesTheLineOut_triggers :
    losExpired.settings.triggerDelay ≠ 0 ∧ (lineOf losExpired 2).equipped = true ∧ look losExpired.seq.holdoffs 2 = none ∧
    losExpired.seq.latch = false ∧ (lineOf losExpired 2).hazard = false ∧ losExpired.seq.queue = [] ∧
    losExpired.seq.active = some (inPhase run17 10 .sampling) ∧ run17.origin ≠ .triggered ∧
    (inPhase run17 10 .sampling).phase ≠ .waitingBus ∧
    (chainFrom losExpired.seq.steps losExpired.settings.triggerSlot).good = true ∧
    (chainFrom w.seq.steps w.settings.triggerSlot).good = false ∧ { w.seq with latch := true }.latch = true := by
  decide +kernel

/-- The same expiry on a DEGRADED line, with the active run in a phase and a run queue. -/
def losExpiredWith (p : Phase) (queue : List Run) : State :=
  { losExpired with
    seq := { losExpired.seq with active := some (inPhase run17 10 p), queue := queue }
    lines := put losExpired.lines 2 { lineUp with sync := .errored, service := .degraded } }

theorem witness_SearchAlignsOrTakesTheLineOut_places :
    (losExpiredWith .waitingBus []).seq.active = some (inPhase run17 10 .waitingBus) ∧ run17.origin = .operator ∧
    (losExpiredWith .waitingBus []).seq.queue.length < 15 ∧ (losExpiredWith .sampling []).seq.queue.length < 16 ∧
    (losExpiredWith .sampling (List.replicate 15 run17 ++ [run17])).seq.queue = List.replicate 15 run17 ++ [run17] ∧
    16 ≤ (losExpiredWith .sampling (List.replicate 15 run17 ++ [run17])).seq.queue.length ∧
    { losExpired.seq with active := none }.active = none ∧
    Due (losExpiredWith .waitingBus []) (.losTriggerTimerExpiry 2) :=
  ⟨by decide +kernel, by decide +kernel, by decide +kernel, by decide +kernel, by decide +kernel, by decide +kernel,
    rfl, (losTimerDue_iff ..).mp (by decide +kernel)⟩

/-- A TRIGGERED run displaces an OPERATOR run that waits for the bus, and the tail run of a full queue (R142, R146). -/
theorem test_triggered_run_displaces :
    (after (.losTriggerTimerExpiry 2) (losExpiredWith .waitingBus []) fun t =>
      t.seq.active.map (fun a => (a.run.line, a.phase)) == some (2, .waitingBus) && t.seq.queue == [run17]) ∧
    after (.losTriggerTimerExpiry 2)
        (losExpiredWith .sampling (List.replicate 15 run17 ++ [{ run17 with id := 9, line := 7 }])) fun t =>
      t.seq.queue.map (·.line) == 2 :: List.replicate 15 3 &&
        (look t.meas.lastRuns 7).map (fun x => (x.runId, x.outcome)) == some (9, .cancelled) := by decide +kernel

/-- The bit index rises by one for each of the 48 bits of a millisecond, and the search time by one at each 48th bit
after the entry into SEARCH (R106, R107). -/
theorem test_bits_of_a_millisecond : ((List.range 1000).filter bitSampled).length = 48 ∧
    (let x : Supervision := { startSupervision with bitIndex := 77, searchFrom := 30 }
     (sampleBit x).bitIndex = 78 ∧ x.searchTime = 0 ∧ (sampleBit x).searchTime = 1) ∧
    (let x : Supervision := { startSupervision with aligned := true, bitIndex := 77 }
     (sampleBit x).bitIndex = 78) := by decide +kernel
theorem witness_ReportPositionIsUsedAndCounted : (aligned2 [true, true, true, true] 0).power = .running ∧
    ServiceDerived (aligned2 [true, true, true, true] 0) ∧ (supOf (aligned2 [true, true, true, true] 0) 2).aligned = true ∧
    (supOf (aligned2 [true, true, true, true] 998) 2).second = some ⟨998, 0, false⟩ ∧ 998 + 1 < 1000 ∧ 1000 ≤ 999 + 1 ∧
    (supOf (aligned2 [true, true, true, true] 0) 2).suspended = false ∧ goodReport.extractLsb' 40 8 = 0xB2#8 ∧
    crc8 (wordBytes goodReport) = goodReport.extractLsb' 0 8 ∧ ¬ (0 : BitVec 48).extractLsb' 40 8 = 0xB2#8 ∧
    crc8 (wordBytes (goodReport ^^^ 1)) ≠ (goodReport ^^^ 1).extractLsb' 0 8 ∧
    3 ≤ ([true, true, false, false].drop 1 ++ [false]).count false ∧ w.settings.autoRealign = true ∧
    ¬ 3 ≤ ([true, true, true, false].drop 1 ++ [false]).count false ∧
    { builtInSettings with triggerDelay := 0 }.triggerDelay = 0 := by unfold ServiceDerived; decide +kernel

/-- Line 2 at the last position of the last second of a window, with a run of line 3 active in SAMPLING and a script
for TRIGGERED runs at slot 10; `severe` seconds of the window are severely errored. -/
def windowEnding (severe : Nat) (delay : Nat) : State :=
  let s := aligned2 [true, true, true, true] 999
  { s with
    sup := alter s.sup 2 fun x => { x with window := ⟨14, severe⟩ }
    seq := { s.seq with active := some (inPhase run17 10 .sampling) }
    loader := { s.loader with settings := { s.settings with triggerDelay := delay, triggerSlot := 10 } } }

theorem witness_ReportPositionIsUsedAndCounted_window :
    (let s := windowEnding 14 30
     s.power = .running ∧ ServiceDerived s ∧ (supOf s 2).suspended = false ∧ (supOf s 2).aligned = true ∧
      (supOf s 2).second = some ⟨999, 0, false⟩ ∧ 1000 ≤ 999 + 1 ∧ (supOf s 2).window = ⟨14, 14⟩ ∧ 15 ≤ 14 + 1 ∧
      (lineOf s 2).sync = .inSync ∧ s.settings.windowThreshold ≤ 14 ∧ s.settings.triggerDelay ≠ 0 ∧
      (lineOf s 2).equipped = true ∧ look s.seq.holdoffs 2 = none ∧ s.seq.latch = false ∧ (lineOf s 2).hazard = false ∧
      s.seq.queue = [] ∧ s.seq.active = some (inPhase run17 10 .sampling) ∧ run17.origin ≠ .triggered ∧
      (inPhase run17 10 .sampling).phase ≠ .waitingBus ∧ s.seq.closing = none ∧ s.claims.own ≠ .holding ∧
      (chainFrom s.seq.steps s.settings.triggerSlot).good = true) ∧
    (windowEnding 14 0).settings.triggerDelay = 0 ∧ ¬ (windowEnding 0 30).settings.windowThreshold ≤ 0 := by
  unfold ServiceDerived; decide +kernel

/-- The anomalies of the good report that ends a second count in that second; the window's end takes the line to ERRORED, whose
TRIGGERED run stands behind the active one, and with trigger delay 0 the cause is suppressed (R116, R117, R119). -/
theorem test_window_end_raises_errored :
    (after (.reportPositionEnd 2 goodReport) (windowEnding 14 30) fun t =>
      (supOf t 2).window == ⟨0, 0⟩ && (lineOf t 2).es == 1 && (lineOf t 2).ses == 0 && (lineOf t 2).sync == .errored &&
        t.seq.queue.map (fun r => (r.line, r.cause)) == [(2, some .errored)]) ∧
    after (.reportPositionEnd 2 goodReport) (windowEnding 14 0) fun t => (lineOf t 2).sync == .errored && t.seq.queue == []
    := by decide +kernel

/-! ### Hypotheses: the test bus -/

/-- The relay release time runs until 10,000 ms in an own claim state, with a Connect of line 3 that waits. -/
def releasingIn (own : OwnState) (waits : Option Line) : State :=
  let s := active own (inPhase run17 10 .connecting) w
  { s with claims := { s.claims with releaseAt := some 10000, connectWaits := waits } }

theorem witness_HoldLapseAndReleaseTimersAct : Due (atTime 15200 taking) .holdExpiry ∧ ¬ Due (atTime 15199 taking) .holdExpiry ∧
    Due (atTime 10400 takeInFlight) .turnLapse ∧ ¬ Due (atTime 10399 takeInFlight) .turnLapse ∧
    Due (releasingIn .releasing none) .relayReleaseTimeEnd ∧ Due (releasingIn .holding (some 3)) .relayReleaseTimeEnd ∧
    ¬ Due (atTime 9999 (releasingIn .releasing none)) .relayReleaseTimeEnd := by
  refine ⟨(holdDue_iff _).mp ?_, fun h => absurd ((holdDue_iff _).mpr h) ?_, (turnDue_iff _).mp ?_,
    fun h => absurd ((turnDue_iff _).mpr h) ?_, (releaseDue_iff _).mp ?_, (releaseDue_iff _).mp ?_,
    fun h => absurd ((releaseDue_iff _).mpr h) ?_⟩ <;> decide +kernel
theorem witness_HoldLapseAndReleaseTimersAct_state : w.power = .running ∧
    (connected (inPhase run17 10 .sampling)).claims.own = .holding ∧ { takeInFlight.claims with own := .queued }.own = .queued ∧
    takeInFlight.claims.queue = ⟨0, .scheduled, 42⟩ :: [] ∧ takeInFlight.claims.holder = none ∧
    (releasingIn .releasing none).claims.own = .releasing ∧ (releasingIn .releasing none).notices.queue = [] ∧
    (releasingIn .none none).claims.own ≠ .releasing ∧ (releasingIn .none none).claims.connectWaits = none ∧
    (releasingIn .holding (some 3)).claims.connectWaits = some 3 ∧ (releasingIn .holding (some 3)).claims.relay = none ∧
    (releasingIn .holding (some 3)).claims.limitReached = false ∧
    (∀ t ∈ (releasingIn .holding (some 3)).claims.ownLimit, 10000 < t) ∧
    (releasingIn .holding (some 3)).seq.active = some (inPhase run17 10 .connecting) ∧
    (lineOf (releasingIn .holding (some 3)) 3).test ≠ .connected ∧
    (lineOf (releasingIn .holding (some 3)) 3).service ≠ .testing := by decide +kernel

/-- Station 4 at the end of its confirm window with a run that waits. -/
def confirming : State := atTime 10020 (active .taking (inPhase run17 10 .waitingBus) taking)

/-- Station 4 at its own hold limit, with a TRIGGERED run that has applied a STEP stimulus. -/
def limited : State :=
  atTime 14200 (connected { inPhase { run17 with origin := .triggered } 12 .sampling with charged := true })

theorem witness_ConfirmWindowHoldLimitAndOccupancyAct : (∀ b, Due confirming (.confirmWindowEnd b)) ∧
    (∀ b, ¬ Due (atTime 10019 confirming) (.confirmWindowEnd b)) ∧ Due limited .ownHoldLimit ∧
    ¬ Due (atTime 14199 limited) .ownHoldLimit := by
  refine ⟨fun b => (confirmDue_iff _ b).mp ?_, fun b h => absurd ((confirmDue_iff _ b).mpr h) ?_, (ownLimitDue_iff _).mp ?_,
    fun h => absurd ((ownLimitDue_iff _).mpr h) ?_⟩ <;> decide +kernel
theorem witness_ConfirmWindowHoldLimitAndOccupancyAct_state :
    (let s := confirming
     s.power = .running ∧ s.claims.own = .taking ∧ s.seq.active = some (inPhase run17 10 .waitingBus) ∧
      (inPhase run17 10 .waitingBus).phase = .waitingBus ∧ (lineOf s 3).hazard = false ∧ s.claims.limitReached = false ∧
      (∀ t ∈ s.claims.ownLimit, s.time < t) ∧ s.claims.releaseAt = none ∧ s.claims.relay = none ∧
      s.claims.inForce = some ⟨.scheduled, 42⟩ ∧ s.claims.holder ≠ none ∧ s.notices.queue = [] ∧
      s.notices.attempt = none ∧ s.notices.gapPassed = false) ∧
    (let s := limited
     s.power = .running ∧ s.claims.own = .holding ∧ s.claims.occDriven = true ∧ s.seq.queue = [] ∧ s.seq.closing = none ∧
      s.claims.relay = some 3 ∧ (lineOf s 3).test = .connected ∧
      s.seq.active = some { inPhase { run17 with origin := .triggered } 12 .sampling with charged := true }) ∧
    (connected (inPhase run17 10 .sampling)).claims.own = .holding ∧ run17.origin = .operator ∧
    (inPhase run17 10 .sampling).charged = false := by
  decide +kernel

/-- Station 4 at its own hold limit, with a run that has applied no STEP stimulus. -/
def limitedPlain (o : Origin) : State := atTime 14200 (connected (inPhase { run17 with origin := o } 10 .sampling))

theorem witness_ConfirmWindowHoldLimitAndOccupancyAct_plain :
    Due (limitedPlain .operator) .ownHoldLimit ∧ Due (limitedPlain .triggered) .ownHoldLimit := by
  refine ⟨(ownLimitDue_iff _).mp ?_, (ownLimitDue_iff _).mp ?_⟩ <;> decide +kernel
theorem witness_ConfirmWindowHoldLimitAndOccupancyAct_plain_state :
    (∀ o : Origin, let s := limitedPlain o
     s.power = .running ∧ s.seq.active = some (inPhase { run17 with origin := o } 10 .sampling) ∧
      s.seq.queue = [] ∧ s.seq.closing = none ∧ (chainFrom s.seq.steps 10).good = true ∧ (lineOf s 3).hazard = false ∧
      s.claims.own = .holding ∧ s.claims.occDriven = true) ∧
    ServiceDerived (limitedPlain .triggered) ∧
    (let reports : List Report := [⟨1, .busCondition .joined .isolated⟩]
     reports ≠ [] ∧ reports.length ≤ 14) := by
  refine ⟨fun o => ?_, ?_, by decide⟩
  · cases o <;> decide +kernel
  · unfold ServiceDerived; decide +kernel

/-- At the limit, with no STEP stimulus applied, a TRIGGERED run ends TIMEOUT at once, and an OPERATOR run stands in
WAITING_BUS with a claim of its own recorded (R150, R146); a pending cancel is dropped (assumption 14). -/
theorem test_ownHoldLimit_without_discharge :
    (after .ownHoldLimit (limitedPlain .triggered) fun t => t.seq.active == none &&
      (look t.meas.lastRuns 3).map (·.outcome) == some .timeout) ∧
    (after .ownHoldLimit (limitedPlain .operator) fun t =>
      t.seq.active.map (fun a => (a.phase, a.slot, a.run.status)) == some (.waitingBus, 10, .suspended) &&
        t.claims.recorded == some ⟨.scheduled, 21⟩) ∧
    after .ownHoldLimit (atTime 14200 (connected { inPhase run17 10 .sampling with cancel := true })) fun t =>
      t.seq.active.map (·.cancel) == some false := by decide +kernel

/-- A busy line at the end of the confirm window, and a lost occupancy, are reported OCCUPIED (R131, R134). -/
theorem test_occupied_is_reported :
    (let noted (s : State) : State := setMgmt (fun m => { m with reports := [⟨1, .busCondition .joined .isolated⟩] }) s
     (after (.confirmWindowEnd true) (noted confirming) fun t =>
       t.mgmt.reports.any fun r => r.body == .occupied .busyAtConfirm (some ⟨.scheduled, 42⟩)) ∧
     after .occupancyLoss (noted limited) fun t =>
       t.mgmt.reports.any fun r => r.body == .occupied .lostWhileHolding none) := by decide +kernel

/-- OCC_SNS reads active through HOLDING, and READ STATION shows it so (R133, R134). -/
theorem test_occupancy_is_sensed : (after (.confirmWindowEnd false) confirming fun t => t.claims.occSensed) ∧
    after .occupancyLoss limited fun t => !t.claims.occSensed := by decide +kernel

/-! ### Hypotheses: runs and measurement -/

theorem witness_ChainsEstimatesAndIdsAreFormed : look steps9 13 = none ∧ (chainFrom steps9 10).good = true ∧
    (chainFrom steps9 10).slots[0]? = some 10 ∧ (chainFrom steps9 10).slots[1]? = some 11 ∧
    (chainFrom steps9 10).slots.getLast? = some 12 ∧ (idsInUse { w.seq with counter := 255 }).length ≤ 29 ∧
    1 ∉ idsInUse { w.seq with counter := 255 } := by decide +kernel
theorem witness_ChainsEstimatesAndIdsAreFormed_paths : ([10, 11, 12] : List Slot).head? = some 10 ∧
    ([10, 11, 12] : List Slot).getLast? = some 12 ∧ ([10, 11, 12] : List Slot).length ≤ 128 ∧
    ((look steps9 10).map (·.next) = some (some 11) ∧ (look steps9 10).map (·.stop) = some false) ∧
    ((look steps9 11).map (·.next) = some (some 12) ∧ (look steps9 11).map (·.stop) = some false) ∧
    (look steps9 12).map (·.stop) = some true ∧ look steps9 13 = none ∧
    (chainFrom steps9 60).slots = (List.range 128).map (fun i => if i % 2 = 0 then 60 else 61) := by decide +kernel

/-- A run of slot 60, which does not stop and goes on to slot 61. -/
def continuing (head : List Run) : State :=
  let s := connected (inPhase run17 60 .discharging)
  { s with seq := { s.seq with queue := head }, meas := { s.meas with verdict := some .pass } }

theorem witness_PhasesEndAsTheirTableSays_due : Due (connected (inPhase run17 10 .connecting)) .operateTimeEnd ∧
    Due (connected (inPhase run17 10 .settling)) .settleTimeEnd ∧ Due (continuing []) .dischargeTimeEnd ∧
    Due (connected (inPhase run17 10 .ending)) .endingDischargeEnd ∧
    ¬ Due (atTime 9999 (connected (inPhase run17 10 .ending))) .endingDischargeEnd := by
  refine ⟨(operateDue_iff _).mp ?_, (settleDue_iff _).mp ?_, (dischargeDue_iff _).mp ?_, (endingDue_iff _).mp ?_,
    fun h => absurd ((endingDue_iff _).mpr h) ?_⟩ <;> decide +kernel

/-- A run marked for its cancel in a phase. -/
def cancelled (p : Phase) (charged : Bool) : State := connected { inPhase run17 10 p with cancel := true, charged := charged }

theorem witness_PhasesEndAsTheirTableSays_cancel : Due (cancelled .connecting false) .operateTimeEnd ∧
    Due (cancelled .settling true) .settleTimeEnd ∧ Due (cancelled .discharging false) .dischargeTimeEnd ∧
    (cancelled .connecting false).seq.queue = [] ∧ (cancelled .connecting false).seq.closing = none ∧
    ServiceDerived (cancelled .connecting false) ∧ (cancelled .connecting false).claims.own = .holding :=
  ⟨(operateDue_iff _).mp (by decide +kernel), (settleDue_iff _).mp (by decide +kernel),
    (dischargeDue_iff _).mp (by decide +kernel), by decide +kernel, by decide +kernel,
    by unfold ServiceDerived; decide +kernel, by decide +kernel⟩
theorem witness_PhasesEndAsTheirTableSays :
    (let a := inPhase run17 10 .connecting
     (connected a).power = .running ∧ (connected a).seq.active = some a ∧
      look (connected a).seq.steps a.slot = some (stepOf .foreignDc 0 400 false (some 11)) ∧ a.cancel = false ∧
      (connected a).meas.verdict = none) ∧
    (continuing []).meas.verdict ≠ none ∧ (continuing []).seq.active = some (inPhase run17 60 .discharging) ∧
    look (continuing []).seq.steps 60 = some (stepOf .foreignDc 0 16 false (some 61)) ∧
    (stepOf .foreignDc 0 16 true none).stop = true ∧ run17.origin = .operator ∧
    (∃ r ∈ (continuing [{ run17 with origin := .triggered }]).seq.queue.head?, r.origin = .triggered) ∧
    (connected (inPhase run17 10 .ending)).seq.closing = none ∧ (connected (inPhase run17 10 .ending)).seq.queue = [] ∧
    (connected (inPhase run17 10 .ending)).claims.own = .holding ∧
    { w.seq with closing := some ⟨17, 3, 10000⟩ }.closing = some ⟨17, 3, 10000⟩ ∧
    (∃ t ∈ taking.claims.ownLimit, taking.time + 1000 ≤ t) := by decide +kernel
theorem witness_PhasesEndAsTheirTableSays_ending :
    (connected (inPhase run17 10 .sampling)).seq.active = some (inPhase run17 10 .sampling) ∧
    { inPhase run17 10 .sampling with charged := true }.charged = true ∧ (inPhase run17 10 .sampling).charged = false ∧
    (connected (inPhase run17 10 .sampling)).claims.own = .holding ∧ (withReports 14).mgmt.reports ≠ [] ∧
    (withReports 14).mgmt.reports.length ≤ 14 := by decide +kernel

/-- The last pair of a measurement of another step, with a verdict still to come. -/
def lastPairOf (p : Step) (cancel : Bool) : State :=
  { lastPair with
    seq := { lastPair.seq with
      steps := put lastPair.seq.steps 50 (some p)
      active := some { inPhase { run17 with start := 50 } 50 .sampling with cancel := cancel } }
    meas := { lastPair.meas with quantity := some p.quantity } }

/-- A hazardous result, a repetition, a STEP step with and without a pending cancel: what each leads to (R147). -/
theorem test_phase_after_sampling :
    (after (.sampleTaken (-500) 0) (lastPairOf (stepOf .capacitance 0 16 true none) false) fun t =>
      t.seq.active.map (·.phase) == some .discharging && t.claims.stimulus == .discharge && t.meas.verdict.isSome) ∧
    (after (.sampleTaken (-500) 0) (lastPairOf (stepOf .capacitance 0 16 true none) true) fun t =>
      (look t.meas.lastRuns 3).map (·.outcome) == some .cancelled && t.seq.active == none) ∧
    (after (.sampleTaken (-500) 0) (lastPairOf { stepOf .resistance 0 16 true none with confirm := true } false) fun t =>
      t.seq.active.map (·.phase) == some .sampling && t.meas.acc.n == 0 && t.meas.made == 1) ∧
    after (.sampleTaken 20000 0) { lastPair with meas := { lastPair.meas with
        acc := ⟨15, 300000, 0, 0, some 20000, some 20000⟩ } } fun t =>
      (look t.seq.faults 3).map (fun r => (r.status, r.steps)) == some (.faultedHazard, 0) && t.seq.active == none := by
  decide +kernel
theorem witness_SamplesAccumulateStoreAndStop_next :
    (lastPairOf (stepOf .capacitance 0 16 true none) true).seq.active =
      some { inPhase { run17 with start := 50 } 50 .sampling with cancel := true } ∧
    look (lastPairOf (stepOf .capacitance 0 16 true none) true).seq.steps 50 = some (stepOf .capacitance 0 16 true none) ∧
    (stepOf .capacitance 0 16 true none).quantity = .capacitance ∧
    confirmDecision true false 1 none 0 = .another ∧ confirmDecision false false 1 none 0 ≠ .another ∧
    builtInSettings.dcHazard < (200000 : Int).natAbs ∧ lastPair.seq.closing = none ∧ lastPair.seq.queue = [] := by
  decide +kernel
theorem witness_SamplesAccumulateStoreAndStop : lastPair.power = .running ∧
    lastPair.seq.active = some (inPhase { run17 with start := 50 } 50 .sampling) ∧ lastPair.seq.closing = none ∧
    lastPair.seq.queue = [] ∧ lastPair.claims.relay = some 3 ∧ 20000 < (20001 : BitVec 16).toInt.natAbs ∧
    (20000 : BitVec 16).toInt.natAbs ≤ 20000 ∧ lastPair.meas.samples ≤ lastPair.meas.acc.n + 1 ∧
    look lastPair.seq.steps 50 = some (stepOf .foreignDc 0 16 true none) ∧
    (stepOf .foreignDc 0 16 true none).confirm = false ∧ lastPair.meas.quantity = some .foreignDc ∧
    lastPair.meas.wires = some .tipRing ∧ { lastPair.meas with samples := 17 }.acc.n + 1 < 17 ∧
    18446744073709551615 < 2 ^ 64 ∧ (∃ x ∈ some (5 : Int), agree 5 x = true) ∧
    ¬ (∃ x ∈ (none : Option Int), agree 5 x = true) ∧
    (let a : Accumulators := ⟨16, 8000, 0, 20000000, some 0, some (-4800)⟩
     (0 : Int) ≤ (16 : Nat) * a.sumVV - a.sumV ^ 2 ∧ 100 * ((16 : Nat) * a.sumVV - a.sumV ^ 2 : Int) < 2 ^ 64 ∧
       a.firstV = some 0 ∧ a.lastV = some (-4800)) := by decide +kernel

/-! ### Hypotheses: requests -/

theorem witness_EveryEncodedRequestReadsBack : wellFormed (.clearFault 1 254) = true ∧
    encodeRequest (.clearFault 1 254) = some [12, 1, 254] ∧
    (uplinkIn (.request 3 [12, 1] 2) 1).store.uplinkRx = .request 3 [12, 1] 2 ∧
    (uplinkIn (.request 3 [12, 1] 2) 1).power = .running ∧ ([254] : List Byte).length ≤ 255 ∧
    encodeRequest (.clearFault 1 254) = some ([12, 1] ++ [254]) ∧ 2 = ([12, 1] : List Byte).length ∧
    3 = 2 + ([254] : List Byte).length ∧ 64 < 65 ∧ 2 + ([254] : List Byte).length ≠ 70 := by decide +kernel
/-- Contents with a kind of no request, or with another length than that of their kind, are UNKNOWN (R163). -/
theorem test_unknown_contents : decodeRequest 3 3 [15, 9, 1] = .unknown [15, 9, 1] ∧
    decodeRequest 4 4 [1, 9, 1, 0] = .unknown [1, 9, 1, 0] ∧ decodeRequest 2 2 [1, 9] = .unknown [1, 9] ∧
    decodeRequest 0 0 [] = .unknown [] ∧ decodeRequest 3 3 [1, 9, 1] = .readLine 9 1 := by decide
theorem witness_ReadRequestsAnswerWithTheirData : TakesRequests w ∧
    11 < (12 : Byte).toNat ∧ (11 : Byte).toNat = (11 : Line).val :=
  ⟨takes_w, by decide⟩

/-- READ STATION shows the pairs taken while a measurement is in progress, and none otherwise (R155, R175). -/
theorem test_measurement_shown : measurementBytes lastPair = [0, 0, 0, 15, 0, 0] ∧
    measurementBytes w = [255, 255, 255, 255, 255, 255] := by decide +kernel

/-- Absent items of a step record are all ones (R175). -/
theorem test_absent_step_items : (stepBytes (some (stepOf .foreignDc 0 16 true none))).drop 8 = List.replicate 9 255 := by
  decide
theorem takes_settling : TakesRequests (connected (inPhase run17 10 .settling)) :=
  takes_of (by decide +kernel) (by decide +kernel) (by decide +kernel)
theorem witness_LoadStepWritesAFreeSlot : TakesRequests (connected (inPhase run17 10 .settling)) ∧
    127 < (128 : Byte).toNat ∧ (127 : Byte).toNat = (127 : Slot).val ∧
    stepOperand ⟨1, 0, 0, 1, 0, 15, 0, 0, 0⟩ = none ∧
    stepOperand ⟨1, 0, 0, 1, 2000, 16, 0, 0, 0⟩ = some (stepOf .foreignDc 2000 16 true none) ∧
    (12 : Slot) ∈ (chainFrom (connected (inPhase run17 10 .settling)).seq.steps run17.start).slots ∧
    (127 : Slot) ∉ (chainFrom (connected (inPhase run17 10 .settling)).seq.steps run17.start).slots :=
  ⟨takes_settling, by decide +kernel⟩
theorem witness_RunsAreSubmittedAndCancelled : TakesRequests w ∧
    11 < (12 : Byte).toNat ∧ 127 < (128 : Byte).toNat ∧
    (11 : Byte).toNat = (11 : Line).val ∧ (10 : Byte).toNat = (10 : Slot).val ∧
    16 ≤ (List.replicate 16 run17).length ∧ { lineUp with service := .vacant }.service = .vacant ∧
    { lineUp with hazard := true }.hazard = true ∧ (chainFrom w.seq.steps 127).good = false ∧
    (chainFrom w.seq.steps 10).good = true ∧ (connected (inPhase run17 10 .settling)).seq.active ≠ none ∧
    w.seq.active = none ∧ w.seq.closing = none ∧ w.seq.queue = [] ∧ w.claims.own = .none ∧ w.claims.queue = [] ∧
    2 ≤ w.notices.statusDone ∧ run17.id = (17 : Byte).toNat ∧ (17 : Byte) ≠ 0 ∧
    { w.seq with queue := [run17] }.queue = [] ++ run17 :: [] ∧
    look (put w.seq.faults 3 (some run17)) 3 = some run17 ∧
    (active .queued (inPhase run17 10 .waitingBus) w).claims.own = .queued ∧
    (inPhase run17 10 .waitingBus).phase = .waitingBus :=
  ⟨takes_w, by decide +kernel⟩
/-- Nothing active, and a run at the head of the queue. -/
def queuedRun (r : Run) (own : OwnState) (line : LineRec) : State :=
  { w with
    seq := { w.seq with queue := [r] }
    claims := { w.claims with own := own }
    lines := put w.lines 3 line }

theorem witness_RunsAreSubmittedAndCancelled_activation :
    (queuedRun run17 .none lineUp).seq.active = none ∧ (queuedRun run17 .none lineUp).seq.closing = none ∧
    (queuedRun run17 .none lineUp).seq.queue = run17 :: [] ∧ (chainFrom w.seq.steps 10).good = true ∧
    (chainFrom w.seq.steps 127).good = false ∧ { lineUp with hazard := true }.hazard = true ∧ lineUp.hazard = false ∧
    lineUp.service = .up ∧ ¬ (run17.origin = .triggered ∧ lineUp.service = .up) ∧ w.claims.limitReached = false ∧
    (∀ x ∈ w.claims.ownLimit, ¬ x ≤ w.time) ∧ w.claims.releaseAt = none ∧ w.claims.relay = none ∧
    (connected (inPhase run17 10 .sampling)).claims.own = .holding ∧ 2 ≤ w.notices.statusDone := by decide +kernel

/-- The examination of a run: MALFORMED, HAZARD and RECOVERED end it, a kept hold connects its line, and else it waits
(R146). -/
theorem test_activation :
    let outcome (s : State) := (look (activate s).meas.lastRuns 3).map (·.outcome)
    let phase (s : State) := (activate s).seq.active.map (·.phase)
    let bad : Run := { run17 with start := 127 }
    let trig : Run := { run17 with origin := .triggered }
    outcome (queuedRun bad .none { lineUp with hazard := true }) = some .malformed ∧
    outcome (queuedRun trig .none { lineUp with hazard := true }) = some .hazard ∧
    outcome (queuedRun trig .none lineUp) = some .recovered ∧
    phase (queuedRun run17 .holding lineUp) = some .connecting ∧
    (activate (queuedRun run17 .holding lineUp)).claims.relay = some 3 ∧
    phase (queuedRun run17 .none lineUp) = some .waitingBus := by decide +kernel
theorem witness_FaultsAreClearedAndLinesRealigned : TakesRequests w ∧
    w.seq.latch = false ∧
    { w.seq with latch := true }.latch = true ∧ 11 < (12 : Byte).toNat ∧ (11 : Byte).toNat = (11 : Line).val ∧
    (lineOf w 11).hazard = false ∧ { lineUp with hazard := true }.hazard = true ∧
    (∀ r ∈ look w.seq.faults 11, r.origin = .triggered) ∧ look (put w.seq.faults 11 (some run17)) 11 = some run17 ∧
    run17.origin = .operator ∧ (connected (inPhase run17 10 .settling)).seq.active ≠ none ∧
    (supOf (connected (inPhase run17 10 .settling)) 3).suspended = true ∧ (supOf w 11).suspended = false ∧
    (supOf w 11).aligned = false ∧ (supOf (aligned2 [true, true, true, true] 5) 2).aligned = true ∧
    w.power = .running ∧ (supOf w 11).cutEnd = none ∧ (supOf cut2 2).suspended = false ∧ (supOf cut2 2).aligned = false ∧
    (supOf cut2 2).cutEnd = some 48 ∧ (connected (inPhase run17 10 .settling)).power = .running :=
  ⟨takes_w, by decide +kernel⟩
theorem witness_RestartWaitsAndUnknownRequestsAreAnswered : TakesRequests w ∧
    ([77] : List Byte).length < 2 ∧
    ([77, 3] : List Byte) = 77 :: 3 :: [] ∧ w.power = .running ∧
    ({ w with mgmt := ⟨[], false, .waiting 10100⟩ } : State).mgmt.wait ≠ .none ∧
    encodeRequest (.readStation 1) = some [2, 1] ∧
    (uplinkIn (.request 2 [] 0) 1).store.uplinkRx = .request 2 [] 0 :=
  ⟨takes_w, by decide⟩
theorem witness_RestartWaitsAndUnknownRequestsAreAnswered_due :
    Due { w with mgmt := ⟨[], false, .waiting 10000⟩ } .restartWaitTimeout ∧
    ¬ Due { w with mgmt := ⟨[], false, .waiting 10001⟩ } .restartWaitTimeout ∧
    NoRequestInReception { w with mgmt := ⟨[], false, .waiting 10000⟩ } :=
  ⟨(restartDue_iff _).mp (by decide +kernel), fun h => absurd ((restartDue_iff _).mpr h) (by decide +kernel),
    fun _ _ _ h => UplinkRx.noConfusion (show UplinkRx.idle = _ from h)⟩

/-! ### A fall of PWRGOOD and the cells -/

/-- The cells of a frame in reception return to the free list when PWRGOOD falls (R63, R171). -/
theorem test_fall_returns_the_cells : after .pwrgoodFall (receiving 1) fun t =>
    look t.store.lineRx 3 == .idle && t.store.free.getLast? == some 0 && t.store.free.length == 100 := by decide +kernel

end Sys2Proof.Tests
end

/-! The classification of a downstream frame by its header (R99, R100). -/

namespace Sys2Proof.Machine

/-! ### The fields of a header (R1) -/

theorem pair_toList (v : Vector Byte 2) : v.toList = [v[0], v[1]] := by
  obtain ⟨⟨bytes⟩, h⟩ := v
  obtain ⟨a, b, rfl⟩ := List.length_eq_two.mp h
  rfl

theorem headerTag_eq (tag : Vector Byte 2) (kind : Byte) (length : Vector Byte 2) :
    fieldAt (tag.toList ++ [kind] ++ length.toList) 0 2 = 256 * tag[0].toNat + tag[1].toNat := by
  rw [pair_toList tag]
  simp [fieldAt, byteAt, numberOf, List.range_succ, Nat.mul_comm]

theorem headerKind_eq (tag : Vector Byte 2) (kind : Byte) (length : Vector Byte 2) :
    byteAt (tag.toList ++ [kind] ++ length.toList) 2 = kind := by
  rw [pair_toList tag]; rfl

theorem headerLength_eq (tag : Vector Byte 2) (kind : Byte) (length : Vector Byte 2) :
    fieldAt (tag.toList ++ [kind] ++ length.toList) 3 2 = 256 * length[0].toNat + length[1].toNat := by
  rw [pair_toList tag, pair_toList length]
  simp [fieldAt, byteAt, numberOf, List.range_succ, Nat.mul_comm]

/-- A header that ends between frames, or while the rest of a dropped frame is being discarded, classifies its frame. -/
theorem exec_uplinkHeaderEnd (tag : Vector Byte 2) (kind : Byte) (length : Vector Byte 2) {s : State}
    (hrun : s.power = .running) (hrx : s.store.uplinkRx = .idle ∨ s.store.uplinkRx = .discarding) :
    exec (.uplinkHeaderEnd tag kind length) s = .next (settle
      (classify (256 * tag[0].toNat + tag[1].toNat) kind (256 * length[0].toNat + length[1].toNat) s)) := by
  have htake : takeHeader (tag.toList ++ [kind] ++ length.toList) s =
      classify (256 * tag[0].toNat + tag[1].toNat) kind (256 * length[0].toNat + length[1].toNat) s := by
    rcases hrx with hrx | hrx <;>
      simp only [takeHeader, hrx, headerTag_eq, headerKind_eq, headerLength_eq]
  rw [exec, execUplinkHeaderEnd, live_running hrun, htake]

/-! ### The classes (R99, R100) -/

theorem goodLength_iff (n : Nat) : goodLength n = true ↔ 64 ≤ n ∧ n ≤ 2048 := by
  simp only [goodLength, Bool.and_eq_true, decide_eq_true_eq]; rfl

/-- In a sound map, the entry that holds a tag is the one that a search for the tag finds (R94). -/
theorem holderOfTag_of_look {s : State} (hmap : MapSound s) {i : MapIndex} {e : MapEntry}
    (he : look s.dist.map i = some e) : holderOfTag s.dist.map e.tag = some (i, e) := by
  cases hf : holderOfTag s.dist.map e.tag with
  | none => exact absurd rfl (holderOfTag_none hf i e he)
  | some found =>
    obtain ⟨j, f⟩ := found
    obtain ⟨hj, htag⟩ := holderOfTag_some hf
    obtain ⟨-, -, honce⟩ := hmap i e he
    by_cases hji : j = i
    · rw [hji, he] at hj
      rw [hji, Option.some.inj hj]
    · exact absurd htag (honce j hji f hj)

theorem holderOfTag_eq_none {map : Table (Option MapEntry) 32} {tag : Nat}
    (h : ∀ i, ∀ e ∈ look map i, e.tag ≠ tag) : holderOfTag map tag = none := by
  cases hf : holderOfTag map tag with
  | none => rfl
  | some found =>
    obtain ⟨hlook, htag⟩ := holderOfTag_some hf
    exact absurd htag (h _ _ hlook)

section
variable {tag n : Nat} {kind : Byte} {s : State}

theorem classify_request (hk : kind = 3) (ht : tag = s.settings.mgmtTag) :
    classify tag kind n s = setUplinkRx (.request n [] 0) s := by
  simp [classify, hk, ht]

theorem classify_otherManagementTag (hk : kind = 3) (ht : tag ≠ s.settings.mgmtTag) :
    classify tag kind n s = countMalformed (setUplinkRx .discarding s) := by
  simp [classify, hk, ht]

theorem classify_badLength (hk : kind = 1 ∨ kind = 2) (hn : ¬ (64 ≤ n ∧ n ≤ 2048)) :
    classify tag kind n s = countMalformed (setUplinkRx .discarding s) := by
  have hbad : goodLength n = false := by simpa [← goodLength_iff] using hn
  rcases hk with rfl | rfl <;> simp [classify, hbad]

theorem classify_flood (hk : kind = 2) (hn : 64 ≤ n ∧ n ≤ 2048) :
    classify tag kind n s = setUplinkRx (.floodHeader n) s := by
  simp [classify, hk, (goodLength_iff n).mpr hn]

theorem classify_data {i : MapIndex} {e : MapEntry} (hk : kind = 1) (hn : 64 ≤ n ∧ n ≤ 2048)
    (hf : holderOfTag s.dist.map tag = some (i, e)) :
    classify tag kind n s = setUplinkRx (.dataHeader e.line e.cls n) s := by
  simp [classify, hk, (goodLength_iff n).mpr hn, hf]

theorem classify_unmapped (hk : kind = 1) (hn : 64 ≤ n ∧ n ≤ 2048) (hf : holderOfTag s.dist.map tag = none) :
    classify tag kind n s = countUnmapped (setUplinkRx .discarding s) := by
  simp [classify, hk, (goodLength_iff n).mpr hn, hf]

theorem classify_otherKind (h1 : kind ≠ 1) (h2 : kind ≠ 2) (h3 : kind ≠ 3) :
    classify tag kind n s = countMalformed (setUplinkRx .discarding s) := by
  rw [classify, if_neg h3, if_neg (not_or.mpr ⟨h1, h2⟩)]

end

end Sys2Proof.Machine

/-! What a step does on an empty queue: the expiries that it may queue, and the parts of one microsecond. -/

namespace Sys2Proof.Machine

/-! ### Expiries and their timers -/

/-- The test before the effect of a timed command, and before the queueing of a command on an empty queue. -/
def expiryDue (c : Instr) (s : State) : Bool :=
  match c with
  | .restartWaitTimeout => restartDue s
  | .restartStart => decide (s.mgmt.wait = .ended)
  | .busQuietTimeout => quietDue s
  | .accessGapExpiry => gapDue s
  | .duplicateNumberHoldoffExpiry => duplicateDue s
  | .isolationTimerExpiry => isolationDue s
  | .presenceTimerExpiry k => presenceDue s k
  | .capacityViewExpiry => capacityDue s
  | .riseCheck => riseDue s
  | .noticePeriodExpiry => periodDue s
  | .searchTimeExpiry l => searchTimeDue s l
  | .losTriggerTimerExpiry l => losTimerDue s l
  | .holdExpiry => holdDue s
  | .turnLapse => turnDue s
  | .confirmWindowEnd _ => confirmDue s
  | .relayReleaseTimeEnd => releaseDue s
  | .ownHoldLimit => ownLimitDue s
  | .operateTimeEnd => phaseDue s .connecting
  | .settleTimeEnd => phaseDue s .settling
  | .dischargeTimeEnd => phaseDue s .discharging
  | .endingDischargeEnd => endingDue s
  | .holdoffExpiry l => holdoffDue s l
  | _ => false

theorem expiryDue_restartStart (s : State) : expiryDue .restartStart s = true ↔ s.mgmt.wait = .ended :=
  decide_eq_true_iff

/-- The test of a command other than RESTART_START is the condition under which its event happens. -/
theorem expiryDue_iff_due {c : Instr} (hc : c ≠ .restartStart) (s : State) : expiryDue c s = true ↔ Due s c := by
  cases c with
  | restartWaitTimeout => exact restartDue_iff s
  | restartStart => exact absurd rfl hc
  | busQuietTimeout => exact quietDue_iff s
  | accessGapExpiry => exact gapDue_iff s
  | duplicateNumberHoldoffExpiry => exact duplicateDue_iff s
  | isolationTimerExpiry => exact isolationDue_iff s
  | presenceTimerExpiry k => exact presenceDue_iff s k
  | capacityViewExpiry => exact capacityDue_iff s
  | riseCheck => exact riseDue_iff s
  | noticePeriodExpiry => exact periodDue_iff s
  | searchTimeExpiry l => exact searchTimeDue_iff s l
  | losTriggerTimerExpiry l => exact losTimerDue_iff s l
  | holdExpiry => exact holdDue_iff s
  | turnLapse => exact turnDue_iff s
  | confirmWindowEnd b => exact confirmDue_iff s b
  | relayReleaseTimeEnd => exact releaseDue_iff s
  | ownHoldLimit => exact ownLimitDue_iff s
  | operateTimeEnd => exact operateDue_iff s
  | settleTimeEnd => exact settleDue_iff s
  | dischargeTimeEnd => exact dischargeDue_iff s
  | endingDischargeEnd => exact endingDue_iff s
  | holdoffExpiry l => exact holdoffDue_iff s l
  | _ => simp [expiryDue, Due]

/-- The only commands that come with a timer's end are the timed ones. -/
theorem isTimed_of_due {c : Instr} {s : State} (h : Due s c) : isTimed c = true := by
  cases c with
  | restartWaitTimeout | busQuietTimeout | accessGapExpiry | duplicateNumberHoldoffExpiry | isolationTimerExpiry
  | presenceTimerExpiry _ | capacityViewExpiry | riseCheck | noticePeriodExpiry | searchTimeExpiry _
  | losTriggerTimerExpiry _ | holdExpiry | turnLapse | confirmWindowEnd _ | relayReleaseTimeEnd | ownHoldLimit
  | operateTimeEnd | settleTimeEnd | dischargeTimeEnd | endingDischargeEnd | holdoffExpiry _ => rfl
  | _ => exact False.elim h

theorem ne_restartStart_of_isTimed {c : Instr} (h : isTimed c = true) : c ≠ .restartStart := by
  rintro rfl; cases h

/-- A timed command has its effect behind its test. -/
theorem exec_of_isTimed {c : Instr} (h : isTimed c = true) (s : State) :
    ∃ f, exec c s = .next (live (whenDue (expiryDue c) f) s) := by
  cases c <;> cases h <;> exact ⟨_, rfl⟩

/-- An expiry whose timer has not ended does nothing but let the scheduler search (assumption 4). -/
theorem exec_expiry_not_due {c : Instr} {s : State} (hrun : s.power = .running) (hc : isTimed c = true)
    (hdue : ¬ Due s c) : exec c s = .next (settle s) := by
  have htest : expiryDue c s = false :=
    Bool.eq_false_iff.mpr fun h => hdue ((expiryDue_iff_due (ne_restartStart_of_isTimed hc) s).mp h)
  obtain ⟨f, hf⟩ := exec_of_isTimed hc s
  rw [hf, live_running hrun, whenDue_not htest]

/-! ### The command queued on an empty queue (assumption 3) -/

/-- The commands that an empty queue may be given, in the order of their tests. -/
def expiries : List (List Instr) :=
  [[.restartWaitTimeout], [.restartStart], [.busQuietTimeout], [.accessGapExpiry], [.duplicateNumberHoldoffExpiry],
    [.isolationTimerExpiry], (indices 8).map .presenceTimerExpiry, [.capacityViewExpiry], [.riseCheck],
    [.noticePeriodExpiry], (indices 12).map .searchTimeExpiry, (indices 12).map .losTriggerTimerExpiry, [.holdExpiry],
    [.turnLapse], [.relayReleaseTimeEnd], [.ownHoldLimit], [.operateTimeEnd], [.settleTimeEnd], [.dischargeTimeEnd],
    [.endingDischargeEnd], (indices 12).map .holdoffExpiry]

theorem find?_singleton_eq_dueIf (p : Instr → Bool) (c : Instr) : [c].find? p = dueIf c (p c) := by
  cases h : p c <;> simp [dueIf, h]

theorem find?_map_eq_dueAmong {n : Nat} (p : Instr → Bool) (c : Fin n → Instr) :
    ((indices n).map c).find? p = dueAmong c fun i => p (c i) := List.find?_map

/-- The command that is queued is the first whose test holds. -/
theorem dueCommand_eq_find? (s : State) : dueCommand s = expiries.flatten.find? (expiryDue · s) := by
  have hlist : dueManagement s ++ dueNotices s ++ dueShare s ++ dueSupervision s ++ dueClaims s ++ dueSequencer s =
      expiries.map (List.find? (expiryDue · s)) := by
    simp only [expiries, List.map_cons, List.map_nil, find?_singleton_eq_dueIf, find?_map_eq_dueAmong]
    rfl
  rw [List.find?_flatten, dueCommand, hlist, List.findSome?_map, Function.id_comp]

theorem mem_indices {n : Nat} (i : Fin n) : i ∈ indices n := List.mem_finRange i

theorem mem_expiries_of_isTimed {c : Instr} (h : isTimed c = true) (hc : ∀ b, c ≠ .confirmWindowEnd b) :
    c ∈ expiries.flatten := by
  cases c with
  | confirmWindowEnd b => exact absurd rfl (hc b)
  | _ => cases h <;> simp [expiries, mem_indices]

theorem due_of_dueCommand {s : State} {c : Instr} (h : dueCommand s = some c) :
    Due s c ∨ (c = .restartStart ∧ s.mgmt.wait = .ended) := by
  rw [dueCommand_eq_find?] at h
  have htest : expiryDue c s = true := List.find?_some (p := (expiryDue · s)) h
  by_cases hc : c = .restartStart
  · exact .inr ⟨hc, (expiryDue_restartStart s).mp (hc ▸ htest)⟩
  · exact .inl ((expiryDue_iff_due hc s).mp htest)

theorem dueCommand_ne_none {s : State} {c : Instr} (h : Due s c) (hc : ∀ b, c ≠ .confirmWindowEnd b) :
    dueCommand s ≠ none := by
  have htimed := isTimed_of_due h
  rw [dueCommand_eq_find?]
  intro hnone
  exact List.find?_eq_none.mp hnone c (mem_expiries_of_isTimed htimed hc)
    ((expiryDue_iff_due (ne_restartStart_of_isTimed htimed) s).mpr h)

/-- A restart wait that has ended comes before every timer that runs. -/
theorem dueCommand_of_wait_ended {s : State} (h : s.mgmt.wait = .ended) : dueCommand s = some .restartStart := by
  have hwait : expiryDue .restartWaitTimeout s = false := by simp [expiryDue, restartDue, h]
  have hstart := (expiryDue_restartStart s).mpr h
  rw [dueCommand_eq_find?]
  simp [expiries, hwait, hstart]

/-! ### Idle steps -/

theorem step_idle {s : State} (h : s.pending = []) : step s = .next (idleStep s) := by
  rw [step, h]

theorem idleStep_held {s : State} (h : s.power = .held) : idleStep s = s := by
  rw [idleStep, h]

theorem idleStep_reading {s : State} (h : s.power = .reading) : idleStep s = tickClocks s := by
  rw [idleStep, h]

theorem idleStep_due {s : State} {c : Instr} (hrun : s.power = .running) (hdue : dueCommand s = some c) :
    idleStep s = { s with pending := s.pending ++ [c] } := by
  simp only [idleStep, hrun, hdue]

theorem idleStep_tick {s : State} (hrun : s.power = .running) (hdue : dueCommand s = none) :
    idleStep s = tickRunning s := by
  simp only [idleStep, hrun, hdue]

/-! ### The parts of one microsecond -/

/-- Station time counts a millisecond in a thousand microseconds, and the division of the slow clock wraps at 64 (R1,
R77). -/
theorem tickClocks_eq (s : State) : tickClocks s = { s with
    time := s.time + (if s.micros + 1 < 1000 then 0 else 1)
    micros := if s.micros + 1 < 1000 then s.micros + 1 else 0
    prescale := (s.prescale + 1) % 64 } := by
  unfold tickClocks; split <;> rfl

/-- A free bus has been quiet for a microsecond more, and the attempt in flight is a microsecond older (R18, R22). -/
theorem tickNotices_eq (n : Notices) : tickNotices n = { n with
    quiet := n.quiet + (if n.framing = true ∧ n.receiving = false ∧ n.attempt = none then 1 else 0)
    attempt := n.attempt.map fun a => { a with elapsed := a.elapsed + 1 } } := by
  simp only [tickNotices, busFree_iff]
  split <;> rfl

theorem ticks_iff (slow : Bool) (c : Counter) :
    ticks slow c = true ↔ c.running = true ∧ (c.clock = .slow → slow = true) := by
  cases h : c.clock <;> simp [ticks, h]

theorem underflows_iff (slow : Bool) (c : Counter) :
    underflows slow c = true ↔ (c.running = true ∧ (c.clock = .slow → slow = true)) ∧ c.count = 0 := by
  simp [underflows, ticks_iff]

theorem mem_underflowCommands_iff (slow : Bool) (sc : Scheduler) (c : Instr) : c ∈ underflowCommands slow sc ↔
    (∃ e, c = .pacingUnderflow (.entry e) ∧ underflows slow (look sc.counters e) = true) ∨
      (c = .pacingUnderflow .station ∧ underflows slow sc.stationCounter = true) := by
  have hentries : (∃ e, underflows slow (look sc.counters e) = true ∧ .pacingUnderflow (.entry e) = c) ↔
      ∃ e, c = .pacingUnderflow (.entry e) ∧ underflows slow (look sc.counters e) = true :=
    exists_congr fun e => and_comm.trans (and_congr_left' eq_comm)
  simp [underflowCommands, mem_indices, hentries, apply_ite (c ∈ ·), and_comm]

/-- One tick makes each counter's underflow at most once. -/
theorem underflowCommands_nodup (slow : Bool) (sc : Scheduler) : (underflowCommands slow sc).Nodup := by
  have hentries : (((indices 13).filter fun e => underflows slow (look sc.counters e)).map fun e =>
      Instr.pacingUnderflow (.entry e)).Nodup :=
    ((List.nodup_finRange 13).filter _).map fun a b hab => by simpa using hab
  refine hentries.append ?_ ?_
  · split <;> simp
  · split <;> simp

/-- A bit sampled in SEARCH moves the search time with the bit index; a suspended aligner takes none (R106, R107,
R118). -/
theorem sampleBit_eq (x : Supervision) : sampleBit x =
    if x.suspended = true then x
    else if x.aligned = true then { x with bitIndex := x.bitIndex + 1 }
    else { x with bitIndex := x.bitIndex + 1, searchTime := min 20 ((x.bitIndex + 1 - x.searchFrom) / 48) } := rfl

/-- The aligners' microsecond touches the supervision of the lines alone. -/
theorem tickAligners_eq (s : State) : tickAligners s = { s with
    sup := if bitSampled s.micros = true then tabulate 12 fun l => sampleBit (look s.sup l) else s.sup } := by
  unfold tickAligners; split <;> rfl

theorem supOf_tickAligners (s : State) (l : Line) : supOf (tickAligners s) l =
    if bitSampled s.micros = true then sampleBit (supOf s l) else supOf s l := by
  rw [tickAligners_eq]
  split <;> simp [supOf]

/-- A tick leaves each block to its own tick. -/
theorem tickRunning_eq (s : State) : tickRunning s = { tickClocks s with
    pending := s.pending ++ underflowCommands (decide (s.prescale = 63)) s.sched
    notices := tickNotices s.notices
    sched := tickScheduler (decide (s.prescale = 63)) s.sched
    sup := (tickAligners s).sup } := by
  cases h : bitSampled s.micros <;> simp [tickRunning, tickClocks_eq, tickAligners_eq, h]

end Sys2Proof.Machine

/-! The statements of the scope: idle steps and headers. -/

namespace Sys2Proof.Machine

/-- Settles O39: the command is the classification of its header's fields, and each class is one case of it. -/
theorem uplinkHeaderClassifiesTheFrame : Obligations.UplinkHeaderClassifiesTheFrame := by
  intro tag kind length s hrun hmap hrx t n good becomes malformed
  have outcome {u : State} (h : classify t kind n s = u) :
      exec (.uplinkHeaderEnd tag kind length) s = .next (settle u) := by
    rw [exec_uplinkHeaderEnd tag kind length hrun hrx, ← h]
  refine ⟨fun hk hn => ⟨fun i e he ht => ?_, fun hnone => ?_⟩, fun hk hn => ?_, fun hk hn => ?_, fun hk ht => ?_,
    fun hk ht => ?_, fun h1 h2 h3 => ?_⟩
  · exact outcome (classify_data hk hn (ht ▸ holderOfTag_of_look hmap he))
  · exact outcome (classify_unmapped hk hn (holderOfTag_eq_none hnone))
  · exact outcome (classify_flood hk hn)
  · exact outcome (classify_badLength hk hn)
  · exact outcome (classify_request hk ht)
  · exact outcome (classify_otherManagementTag hk ht)
  · exact outcome (classify_otherKind h1 h2 h3)

/-- Settles O2: an idle step is `idleStep`, whose tick is taken apart block by block; the command that it queues is the
first whose test holds, and the tests are the conditions of `Due`. -/
theorem idleStepQueuesADueExpiryOrTicks : Obligations.IdleStepQueuesADueExpiryOrTicks := by
  refine ⟨fun s hempty => ?_, fun s => ⟨fun c => due_of_dueCommand, fun c => dueCommand_ne_none,
    dueCommand_of_wait_ended⟩, fun c s => exec_expiry_not_due⟩
  intro full clock runs counted sampled aligner
  have hclock : tickClocks s = clock := tickClocks_eq s
  refine ⟨idleStep s, step_idle hempty, idleStep_held, fun hread => (idleStep_reading hread).trans hclock,
    fun c hrun hdue => ?_, fun hrun hdue => ?_⟩
  · rw [idleStep_due hrun hdue, hempty, List.nil_append]
  · have hcounted (c : Counter) : counted c (tickCounter (decide (s.prescale = 63)) c) := by
      simp only [counted, runs, tickCounter, ticks_iff, decide_eq_true_eq]
    rw [idleStep_tick hrun hdue, tickRunning_eq, hclock, hempty, tickNotices_eq]
    refine ⟨rfl, fun e => ?_, hcounted _, fun l => ?_, underflowCommands_nodup _ _, fun c => ?_⟩
    · simpa [tickScheduler] using hcounted (look s.sched.counters e)
    · change supOf (tickAligners s) l = aligner (supOf s l)
      have hbit : bitSampled s.micros = true ↔ sampled := decide_eq_true_iff
      rw [supOf_tickAligners, sampleBit_eq]
      by_cases hs : sampled
      · rw [if_pos (hbit.mpr hs)]
        simp only [aligner, hs, not_true_eq_false, false_or]
      · rw [if_neg (mt hbit.mp hs)]
        exact (if_pos (.inl hs)).symm
    · change c ∈ [] ++ underflowCommands _ _ ↔ _
      simp only [List.nil_append, mem_underflowCommands_iff, underflows_iff, decide_eq_true_eq, and_assoc, runs]

end Sys2Proof.Machine

/-! What the reports and the cells of a frame leave alone, as an equation of states. -/

namespace Sys2Proof.Machine

/-- A state with the cells, UM, the report queue and its flag of another. -/
def withCells (s u : State) : State :=
  { s with
    store := { s.store with
      free := u.store.free, refs := u.store.refs, memory := u.store.memory, um := u.store.um
      lowMark := u.store.lowMark }
    mgmt := { u.mgmt with wait := s.mgmt.wait } }

/-- The frame that reports, responses and references given up have in common: they touch the cells, UM, the report queue
and its flag alone. -/
theorem eq_withCells {s t : State} (h : Undisturbed s t ∧ t.lines = s.lines ∧ t.sched = s.sched ∧
    t.store.up = s.store.up) : t = withCells s t := by
  obtain ⟨hu, hlines, hsched, hup⟩ := h
  have hstore : t.store = (withCells s t).store := by
    simp only [withCells, ← hup, ← hu.down, ← hu.lineRx, ← hu.uplinkRx, ← hu.floodDrop]
  have hmgmt : t.mgmt = (withCells s t).mgmt := by simp only [withCells, ← hu.wait]
  obtain ⟨htime, hmicros, hprescale⟩ := hu.clocks
  cases t
  simp only [withCells, State.mk.injEq] at *
  exact ⟨hu.pending, hu.power, hu.start, htime, hmicros, hprescale, hu.loader, hlines, hu.notices, hu.share, hstore, hsched,
    hu.dist, hu.sup, hu.claims, hu.seq, hu.meas, hmgmt⟩

theorem queueReport_eq (body : ReportBody) (s : State) : ∃ u, queueReport body s = withCells s u :=
  ⟨_, eq_withCells (queueReport_frame body s)⟩
theorem releaseEntries_eq (es : List Entry) (s : State) : ∃ u, releaseEntries es s = withCells s u :=
  ⟨_, eq_withCells (releaseEntries_frame es s)⟩
theorem releaseChain_eq (cells : List CellNo) (s : State) : ∃ u, releaseChain cells s = withCells s u :=
  ⟨_, eq_withCells (releaseChain_frame cells s)⟩

end Sys2Proof.Machine

/-! A line that leaves service, and the derivation of service states (R7 to R12, R118). -/

namespace Sys2Proof.Machine

/-! ### The parts of leaving service (R9) -/

/-- A line record's inputs, flags, profile and service state stand. -/
structure InputsStand (r x : LineRec) : Prop where
  equipped : x.equipped = r.equipped
  profile : x.profile = r.profile
  barred : x.barred = r.barred
  hazard : x.hazard = r.hazard
  sync : x.sync = r.sync
  test : x.test = r.test
  service : x.service = r.service

theorem InputsStand.refl (r : LineRec) : InputsStand r r := ⟨rfl, rfl, rfl, rfl, rfl, rfl, rfl⟩

theorem InputsStand.trans {r x y : LineRec} (h : InputsStand r x) (k : InputsStand x y) : InputsStand r y :=
  ⟨k.equipped.trans h.equipped, k.profile.trans h.profile, k.barred.trans h.barred, k.hazard.trans h.hazard,
    k.sync.trans h.sync, k.test.trans h.test, k.service.trans h.service⟩

/-- What the drops of a leaving line leave alone: all but the tallies of that line, the frame store, the frames on the line
ports and the reports. -/
structure DropsOnly (l : Line) (s t : State) : Prop where
  time : t.time = s.time
  claims : t.claims = s.claims
  sup : t.sup = s.sup
  sched : t.sched = s.sched
  others : ∀ k, k ≠ l → lineOf t k = lineOf s k
  record : InputsStand (lineOf s l) (lineOf t l)

section
variable {l : Line} {s t : State}

theorem DropsOnly.refl : DropsOnly l s s := ⟨rfl, rfl, rfl, rfl, fun _ _ => rfl, .refl _⟩

theorem dropsOnly_withCells (u : State) (h : DropsOnly l s t) : DropsOnly l s (withCells t u) :=
  ⟨h.time, h.claims, h.sup, h.sched, h.others, h.record⟩

theorem dropsOnly_setStore (f : Store → Store) (h : DropsOnly l s t) : DropsOnly l s (setStore f t) :=
  ⟨h.time, h.claims, h.sup, h.sched, h.others, h.record⟩

theorem dropsOnly_setDist (f : Distributor → Distributor) (h : DropsOnly l s t) : DropsOnly l s (setDist f t) :=
  ⟨h.time, h.claims, h.sup, h.sched, h.others, h.record⟩

theorem dropsOnly_setLine (f : LineRec → LineRec)
    (hf : ∀ r, InputsStand r (f r))
    (h : DropsOnly l s t) : DropsOnly l s (setLine l f t) where
  time := h.time
  claims := h.claims
  sup := h.sup
  sched := h.sched
  others k hk := (lineOf_setLine_ne l k f t hk.symm).trans (h.others k hk)
  record := h.record.trans (by rw [lineOf_setLine_same]; exact hf _)

theorem dropsOnly_countDrop (h : DropsOnly l s t) : DropsOnly l s (countDrop l t) := dropsOnly_setLine _ (fun _ => ⟨rfl, rfl, rfl, rfl, rfl, rfl, rfl⟩) h

theorem dropsOnly_countFlood (h : DropsOnly l s t) : DropsOnly l s (countFlood t) := dropsOnly_setStore _ h

theorem dropsOnly_releaseChain (cells : List CellNo) (h : DropsOnly l s t) : DropsOnly l s (releaseChain cells t) := by
  obtain ⟨u, hu⟩ := releaseChain_eq cells t
  rw [hu]; exact dropsOnly_withCells u h

theorem dropsOnly_releaseEntries (es : List Entry) (h : DropsOnly l s t) : DropsOnly l s (releaseEntries es t) := by
  obtain ⟨u, hu⟩ := releaseEntries_eq es t
  rw [hu]; exact dropsOnly_withCells u h

theorem dropsOnly_flushLine (h : DropsOnly l s t) : DropsOnly l s (flushLine l t) :=
  dropsOnly_releaseEntries _ (dropsOnly_setLine _ (fun _ => ⟨rfl, rfl, rfl, rfl, rfl, rfl, rfl⟩) (dropsOnly_setStore _ h))

theorem dropsOnly_dropLineRx (h : DropsOnly l s t) : DropsOnly l s (dropLineRx l t) := by
  unfold dropLineRx; split
  · exact dropsOnly_releaseChain _ (dropsOnly_countDrop (dropsOnly_setStore _ h))
  · exact h

theorem dropsOnly_dropUplinkRx (h : DropsOnly l s t) : DropsOnly l s (dropUplinkRx l t) := by
  unfold dropUplinkRx; split
  · split
    · exact dropsOnly_releaseChain _ (dropsOnly_countDrop (dropsOnly_setStore _ h))
    · exact h
  · split
    · dsimp only; split
      · exact dropsOnly_releaseChain _ (dropsOnly_countFlood (dropsOnly_countDrop (dropsOnly_setStore _ h)))
      · exact dropsOnly_countDrop (dropsOnly_setStore _ h)
    · exact h
  · exact h

theorem dropsOnly_abandonFrame (h : DropsOnly l s t) : DropsOnly l s (abandonFrame l t) := by
  unfold abandonFrame; split
  · exact dropsOnly_releaseChain _ (dropsOnly_setLine _ (fun _ => ⟨rfl, rfl, rfl, rfl, rfl, rfl, rfl⟩) (dropsOnly_setDist _ h))
  · exact h

end

/-- Both queues of a flushed line are empty, and each frame in them has been counted (R9, R74). -/
theorem flushLine_queues (l : Line) (s : State) :
    look (flushLine l s).store.up l = [] ∧ look (flushLine l s).store.down l = [] ∧
    (flushLine l s).dist = s.dist ∧
    (lineOf (flushLine l s) l).flush =
      tallyBy (lineOf s l).flush (look s.store.up l ++ look s.store.down l).length := by
  unfold flushLine; dsimp only
  obtain ⟨u, hu⟩ := releaseEntries_eq (look s.store.up l ++ look s.store.down l)
    (setLine l (fun x => { x with flush := tallyBy x.flush (look s.store.up l ++ look s.store.down l).length })
      (setStore (fun st => { st with up := put st.up l [], down := put st.down l [] }) s))
  rw [hu]
  exact ⟨look_put_same _ _ _, look_put_same _ _ _, rfl, congrArg LineRec.flush (lineOf_setLine_same l _ _)⟩

/-- The queues, the frames on the line ports and the flush tally of a line stand. -/
structure QueuesStand (l : Line) (s t : State) : Prop where
  up : t.store.up = s.store.up
  down : t.store.down = s.store.down
  dist : t.dist = s.dist
  flush : (lineOf t l).flush = (lineOf s l).flush

theorem countDrop_flush (l : Line) (s : State) : (lineOf (countDrop l s) l).flush = (lineOf s l).flush := by
  simp [countDrop]

theorem queuesStand_releaseChain_countDrop (l : Line) (cells : List CellNo) {f : Store → Store} (s : State)
    (hup : (f s.store).up = s.store.up) (hdown : (f s.store).down = s.store.down) :
    QueuesStand l s (releaseChain cells (countDrop l (setStore f s))) ∧
    (releaseChain cells (countDrop l (setStore f s))).store.lineRx = (f s.store).lineRx := by
  obtain ⟨u, hu⟩ := releaseChain_eq cells (countDrop l (setStore f s))
  rw [hu]
  exact ⟨⟨hup, hdown, rfl, countDrop_flush l _⟩, rfl⟩

/-- The drop of a line's reception leaves its queues alone, and no frame in reception (R9, R68). -/
theorem dropLineRx_queuesStand (l : Line) (s : State) :
    QueuesStand l s (dropLineRx l s) ∧ ∀ cells count, look (dropLineRx l s).store.lineRx l ≠ .receiving cells count := by
  unfold dropLineRx; split
  · next cells count _ =>
    obtain ⟨hq, hrx⟩ := queuesStand_releaseChain_countDrop l cells s
      (f := fun st => { st with lineRx := put st.lineRx l .discarding }) rfl rfl
    refine ⟨hq, fun _ _ h => ?_⟩
    rw [hrx, look_put_same] at h; cases h
  · next hno => exact ⟨⟨rfl, rfl, rfl, rfl⟩, hno⟩

/-- So does the drop of the uplink port's reception for the line, which leaves the line's own reception alone (R9, R68,
R70). -/
theorem dropUplinkRx_queuesStand (l : Line) (s : State) :
    QueuesStand l s (dropUplinkRx l s) ∧ (dropUplinkRx l s).store.lineRx = s.store.lineRx := by
  unfold dropUplinkRx; split
  · next cells _ _ =>
    split
    · exact queuesStand_releaseChain_countDrop l cells s rfl rfl
    · exact ⟨⟨rfl, rfl, rfl, rfl⟩, rfl⟩
  · next cells _ _ =>
    split
    · dsimp only; split
      · exact queuesStand_releaseChain_countDrop l cells (f := fun st =>
          { st with uplinkRx := .discarding, floodDrop := tally st.floodDrop }) s rfl rfl
      · exact ⟨⟨rfl, rfl, rfl, countDrop_flush l _⟩, rfl⟩
    · exact ⟨⟨rfl, rfl, rfl, rfl⟩, rfl⟩
  · exact ⟨⟨rfl, rfl, rfl, rfl⟩, rfl⟩

/-- A frame in transmission on the line port is abandoned, and counted in the flush tally (R9, R104). -/
theorem abandonFrame_queues (l : Line) (s : State) :
    (abandonFrame l s).store.up = s.store.up ∧ (abandonFrame l s).store.down = s.store.down ∧
    (abandonFrame l s).store.lineRx = s.store.lineRx ∧ look (abandonFrame l s).dist.sending l = none ∧
    (lineOf (abandonFrame l s) l).flush =
      (if look s.dist.sending l = none then (lineOf s l).flush else tally (lineOf s l).flush) := by
  unfold abandonFrame; split
  · next e he =>
    obtain ⟨u, hu⟩ := releaseChain_eq e.cells (setLine l (fun x => { x with flush := tally x.flush })
      (setDist (fun d => { d with sending := put d.sending l none, lastEnd := put d.lastEnd l (some .abort) }) s))
    rw [hu, if_neg (by simp [he])]
    exact ⟨rfl, rfl, rfl, look_put_same _ _ _, congrArg LineRec.flush (lineOf_setLine_same l _ _)⟩
  · next hnone => rw [if_pos hnone]; exact ⟨rfl, rfl, rfl, hnone, rfl⟩

/-- The stop of a line's part of the scheduler (R9 steps 4 to 6, R87) touches the scheduler alone. -/
theorem stopLine_eq (l : Line) (s : State) : ∃ sc, stopLine l s = { s with sched := sc } ∧
    look sc.deficits (entryOf l) = 0 ∧ look sc.levels (entryOf l) = ((lineOf s l).profile.burst : Int) ∧
    look sc.counters (entryOf l) = stopCounter (look s.sched.counters (entryOf l)) ∧
    ¬ (sc.turn ≠ .idle ∧ sc.pointer = entryOf l) := by
  unfold stopLine; dsimp only
  split
  · next hturn =>
    refine ⟨_, rfl, ?_, look_put_same _ _ _, look_alter_same _ _ _, fun h => h.1 rfl⟩
    simp only [setSched_sched] at hturn
    simp [hturn.2]
  · next hturn => exact ⟨_, rfl, look_put_same _ _ _, look_put_same _ _ _, look_alter_same _ _ _, hturn⟩

/-! ### A line that leaves service (R9) -/

/-- What leaving service does to the line, and what it leaves alone (R9). -/
structure LeftService (l : Line) (s t : State) : Prop where
  time : t.time = s.time
  claims : t.claims = s.claims
  sup : t.sup = s.sup
  others : ∀ k, k ≠ l → lineOf t k = lineOf s k
  record : InputsStand (lineOf s l) (lineOf t l)
  demand : (lineOf t l).demand = 0
  flush : (lineOf t l).flush = min 4294967295 ((lineOf s l).flush + (look s.store.up l).length +
    (look s.store.down l).length + (if look s.dist.sending l = none then 0 else 1))
  up : look t.store.up l = []
  down : look t.store.down l = []
  sending : look t.dist.sending l = none
  lineRx : ∀ cells count, look t.store.lineRx l ≠ .receiving cells count
  deficit : look t.sched.deficits (entryOf l) = 0
  level : look t.sched.levels (entryOf l) = ((lineOf s l).profile.burst : Int)
  counter : look t.sched.counters (entryOf l) = stopCounter (look s.sched.counters (entryOf l))
  turn : ¬ (t.sched.turn ≠ .idle ∧ t.sched.pointer = entryOf l)

theorem tally_tallyBy (a n : Nat) : tally (tallyBy a n) = min 4294967295 (a + n + 1) := by
  simp only [tally, tallyBy, satAdd, Config.tallyMax]; omega

theorem leaveService_leftService (l : Line) (s : State) : LeftService l s (leaveService l s) := by
  have hdrops : DropsOnly l s (abandonFrame l (dropUplinkRx l (dropLineRx l (flushLine l s)))) :=
    dropsOnly_abandonFrame (dropsOnly_dropUplinkRx (dropsOnly_dropLineRx (dropsOnly_flushLine .refl)))
  obtain ⟨hup, hdown, hdist, hflush⟩ := flushLine_queues l s
  obtain ⟨hline, hrx⟩ := dropLineRx_queuesStand l (flushLine l s)
  obtain ⟨huplink, hrx'⟩ := dropUplinkRx_queuesStand l (dropLineRx l (flushLine l s))
  obtain ⟨hup', hdown', hrx'', hsending, hflush'⟩ := abandonFrame_queues l (dropUplinkRx l (dropLineRx l (flushLine l s)))
  obtain ⟨sc, hstop, hdeficit, hlevel, hcounter, hturn⟩ :=
    stopLine_eq l (abandonFrame l (dropUplinkRx l (dropLineRx l (flushLine l s))))
  have hqueues : QueuesStand l (flushLine l s) (dropUplinkRx l (dropLineRx l (flushLine l s))) :=
    ⟨huplink.up.trans hline.up, huplink.down.trans hline.down, huplink.dist.trans hline.dist,
      huplink.flush.trans hline.flush⟩
  rw [hqueues.dist, hdist, hqueues.flush, hflush] at hflush'
  rw [hqueues.up] at hup'
  rw [hqueues.down] at hdown'
  rw [hrx'] at hrx''
  unfold leaveService
  rw [hstop]
  generalize abandonFrame l (dropUplinkRx l (dropLineRx l (flushLine l s))) = t at *
  exact {
    time := hdrops.time
    claims := hdrops.claims
    sup := hdrops.sup
    others := fun k hk => (lineOf_setLine_ne l k _ _ hk.symm).trans (hdrops.others k hk)
    record := by
      rw [lineOf_setLine_same]
      exact hdrops.record.trans ⟨rfl, rfl, rfl, rfl, rfl, rfl, rfl⟩
    demand := by rw [lineOf_setLine_same]
    flush := by
      rw [lineOf_setLine_same]
      change (lineOf t l).flush = _
      rw [hflush', tally_tallyBy, List.length_append]
      split <;> simp [tallyBy, satAdd, Config.tallyMax, Nat.add_assoc]
    up := by change look t.store.up l = []; rw [hup', hup]
    down := by change look t.store.down l = []; rw [hdown', hdown]
    sending := hsending
    lineRx := by change ∀ cells count, look t.store.lineRx l ≠ _; rw [hrx'']; exact hrx
    deficit := hdeficit
    level := by rw [← hdrops.record.profile]; exact hlevel
    counter := by rw [← hdrops.sched]; exact hcounter
    turn := hturn }

end Sys2Proof.Machine

namespace Sys2Proof.Machine

/-! ### A change of service state (R7 to R12) -/

/-- What every change of service state leaves alone, and the suspension of a line that enters TESTING (R10, R118). -/
structure EffectsOf (l : Line) (new : Service) (s t : State) : Prop where
  time : t.time = s.time
  claims : t.claims = s.claims
  sup : t.sup = if new = .testing then alter s.sup l suspendSup else s.sup
  others : ∀ k, k ≠ l → lineOf t k = lineOf s k
  record : InputsStand (lineOf s l) (lineOf t l)

theorem not_testing_of_inService {v : Service} (h : inService v = true) : v ≠ .testing := by
  rintro rfl; cases h

/-- A line that leaves service does so before it is suspended. -/
theorem serviceEffects_leaving {old new : Service} (l : Line) (s : State) (ho : inService old = true)
    (hn : inService new = false) :
    serviceEffects l old new s = if new = .testing then setSup l suspendSup (leaveService l s) else leaveService l s := by
  simp [serviceEffects, ho, hn]

/-- A line that does not leave service has its counter given its rate, is suspended, or stands. -/
theorem serviceEffects_staying {old new : Service} (l : Line) (s : State)
    (h : ¬ (inService old = true ∧ inService new = false)) :
    serviceEffects l old new s =
      if inService new = true then paceLine l new s else if new = .testing then setSup l suspendSup s else s := by
  have hleave : (inService old && !inService new) = false := by
    rwa [Bool.eq_false_iff, ne_eq, Bool.and_eq_true, Bool.not_eq_true']
  unfold serviceEffects
  rw [hleave]
  by_cases hn : inService new = true
  · simp [hn, not_testing_of_inService hn]
  · simp [hn]

theorem serviceEffects_effectsOf (l : Line) (old new : Service) (s : State) :
    EffectsOf l new s (serviceEffects l old new s) := by
  by_cases h : inService old = true ∧ inService new = false
  · rw [serviceEffects_leaving l s h.1 h.2]
    have hleft := leaveService_leftService l s
    generalize leaveService l s = t at hleft
    split
    · next hn => exact ⟨hleft.time, hleft.claims, by simp [hn, hleft.sup], hleft.others, hleft.record⟩
    · next hn => exact ⟨hleft.time, hleft.claims, by simp [hn, hleft.sup], hleft.others, hleft.record⟩
  · rw [serviceEffects_staying l s h]
    split
    · next hn => exact ⟨rfl, rfl, by rw [if_neg (not_testing_of_inService hn)]; rfl, fun _ _ => rfl, .refl _⟩
    · split
      · next hn => exact ⟨rfl, rfl, by rw [if_pos hn]; rfl, fun _ _ => rfl, .refl _⟩
      · next hn => exact ⟨rfl, rfl, by rw [if_neg hn], fun _ _ => rfl, .refl _⟩

/-! ### The derivation (R7) -/

/-- A state with the effects of the derivation of a line's service state applied, before its report. -/
def rederived (l : Line) (s : State) : State :=
  serviceEffects l (lineOf s l).service (deriveService (lineOf s l))
    (setLine l (fun x => { x with service := deriveService (lineOf s l) }) s)

theorem rederive_same {l : Line} {s : State} (h : (lineOf s l).service = deriveService (lineOf s l)) :
    rederive l s = s := by
  simp [rederive, h]

theorem rederive_changed {l : Line} {s : State} (h : (lineOf s l).service ≠ deriveService (lineOf s l)) :
    rederive l s = lineStateReport l (lineOf s l).service (rederived l s) := by
  simp [rederive, rederived, Ne.symm h]

/-- The line's record with its new service state, whatever the effects do to its tallies and its demand. -/
theorem rederived_effectsOf (l : Line) (s : State) :
    (rederived l s).time = s.time ∧ (rederived l s).claims = s.claims ∧
    (rederived l s).sup = (if deriveService (lineOf s l) = .testing then alter s.sup l suspendSup else s.sup) ∧
    (∀ k, k ≠ l → lineOf (rederived l s) k = lineOf s k) ∧
    InputsStand (derived (lineOf s l)) (lineOf (rederived l s) l) := by
  obtain ⟨htime, hclaims, hsup, hothers, hrecord⟩ := serviceEffects_effectsOf l (lineOf s l).service
    (deriveService (lineOf s l)) (setLine l (fun x => { x with service := deriveService (lineOf s l) }) s)
  rw [lineOf_setLine_same] at hrecord
  exact ⟨htime, hclaims, hsup, fun k hk => (hothers k hk).trans (lineOf_setLine_ne l k _ s hk.symm), hrecord⟩

/-- What a derivation does to the line table and to supervision, and that it leaves the claim unit alone. -/
structure Rederived (l : Line) (s t : State) : Prop where
  claims : t.claims = s.claims
  sup : t.sup = if deriveService (lineOf s l) = .testing ∧ (lineOf s l).service ≠ deriveService (lineOf s l) then
    alter s.sup l suspendSup else s.sup
  others : ∀ k, k ≠ l → lineOf t k = lineOf s k
  record : InputsStand (derived (lineOf s l)) (lineOf t l)

theorem rederive_rederived (l : Line) (s : State) : Rederived l s (rederive l s) := by
  by_cases h : (lineOf s l).service = deriveService (lineOf s l)
  · rw [rederive_same h]
    exact ⟨rfl, by simp [h], fun _ _ => rfl, ⟨rfl, rfl, rfl, rfl, rfl, rfl, h⟩⟩
  · obtain ⟨-, hclaims, hsup, hothers, hrecord⟩ := rederived_effectsOf l s
    rw [rederive_changed h]
    unfold lineStateReport; dsimp only
    obtain ⟨u, hu⟩ := queueReport_eq (.lineState l (lineOf s l).service (lineOf (rederived l s) l).service
      (lineOf (rederived l s) l).sync (lineOf (rederived l s) l).test (lineOf (rederived l s) l).barred
      (lineOf (rederived l s) l).hazard) (rederived l s)
    rw [hu]
    exact ⟨hclaims, hsup.trans (by simp [h]), hothers, hrecord⟩

/-! ### The test condition (R8, R10, R118) -/

/-- A line resumed, with sync condition OUT, as a line that leaves CONNECTED is. -/
def resumeLine (l : Line) (s : State) : State :=
  setLine l (fun x => { x with sync := .outOfSync }) (setSup l resumeSup s)

theorem setTest_same {l : Line} {s : State} {new : TestCond} (h : new = (lineOf s l).test) : setTest l new s = s := by
  simp [setTest, h]

theorem setTest_changed {l : Line} {s : State} {new : TestCond} (h : new ≠ (lineOf s l).test) :
    setTest l new s = followTimer l (rederive l (setLine l (fun x => { x with test := new })
      (if (lineOf s l).test = .connected then resumeLine l s else s))) := by
  simp [setTest, resumeLine, h]

theorem followTimer_eq (l : Line) (s : State) : followTimer l s = setSup l (fun x =>
    { x with timerFrom := if timerRuns s l then some (x.timerFrom.getD s.time) else none }) s := rfl

theorem timerRuns_suspended {s : State} {l : Line} (h : (supOf s l).suspended = true) : timerRuns s l = false := by
  simp [timerRuns, h]

theorem timerRuns_noSignalLoss {s : State} {l : Line} (h : (supOf s l).signalLoss.value = false) :
    timerRuns s l = false := by
  simp [timerRuns, h]

/-- A timer that does not run has no start. -/
theorem supOf_followTimer_stopped {s : State} {l : Line} (h : timerRuns s l = false) :
    supOf (followTimer l s) l = { supOf s l with timerFrom := none } := by
  simp [followTimer_eq, h]

theorem lineOf_followTimer (l k : Line) (s : State) : lineOf (followTimer l s) k = lineOf s k := rfl

end Sys2Proof.Machine

/-! Requests that a running part takes (R101, R163, R166). -/

namespace Sys2Proof.Machine

section
variable {s : State}

theorem endRequestFrame_of_noRequest (h : NoRequestInReception s) : endRequestFrame s.store = s.store := by
  unfold endRequestFrame; split
  · next hrx => exact absurd hrx (h _ _ _)
  · rfl

theorem asReceived_of_noRequest (h : NoRequestInReception s) (c : Instr) : asReceived s c = c := by
  unfold asReceived; split
  · next hrx => exact absurd hrx (h _ _ _)
  · rfl

/-- A request that a running part takes has its effect. -/
theorem live_takeRequest (h : TakesRequests s) (c : Instr) : live (takeRequest c) s = settle (requestEffect c s) := by
  obtain ⟨hrun, hwait, hno⟩ := h
  have hstore : setStore endRequestFrame s = s := by
    rw [setStore, endRequestFrame_of_noRequest hno]
  rw [live_running hrun, takeRequest, request, asReceived_of_noRequest hno, hstore]
  simp [hwait]

theorem lineOperand_eq_none {line : Byte} (h : 11 < line.toNat) : lineOperand line = none := by
  simp only [lineOperand]; exact dif_neg (by omega)

theorem lineOperand_eq_some {line : Byte} {l : Line} (h : line.toNat = l.val) : lineOperand line = some l := by
  simp only [lineOperand, h, l.isLt, dite_true]

theorem onLine_outOfRange {line : Byte} (h : 11 < line.toNat) (code num : Byte) (f : Line → State → State) :
    onLine code num line f s = respond code num .refusedRange [] false s := by
  rw [onLine, lineOperand_eq_none h, answer]

theorem onLine_inRange {line : Byte} {l : Line} (h : line.toNat = l.val) (code num : Byte) (f : Line → State → State) :
    onLine code num line f s = f l s := by
  rw [onLine, lineOperand_eq_some h]

end

end Sys2Proof.Machine

namespace Sys2Proof.Machine

/-! ### The derivation's effects, clause by clause (R9, R11, R12) -/

theorem deriveService_eq (r : LineRec) : deriveService r =
    if r.equipped = false then .vacant else if r.test = .connected then .testing
    else if r.barred = true then .barred else match r.sync with
      | .outOfSync => .down
      | .errored => .degraded
      | .inSync => .up := by
  unfold deriveService
  cases r.equipped <;> rfl

section
variable {l : Line} {s : State}

/-- The report comes behind the effects, with the line's inputs as they stand (R12). -/
theorem rederive_report (h : (lineOf s l).service ≠ deriveService (lineOf s l)) :
    rederive l s = queueReport (.lineState l (lineOf s l).service (deriveService (lineOf s l)) (lineOf s l).sync
      (lineOf s l).test (lineOf s l).barred (lineOf s l).hazard) (rederived l s) := by
  obtain ⟨-, -, -, -, hrecord⟩ := rederived_effectsOf l s
  rw [rederive_changed h, lineStateReport]
  simp only [hrecord.service, hrecord.sync, hrecord.test, hrecord.barred, hrecord.hazard, derived]

/-- The report touches the cells and the reports alone. -/
theorem rederive_eq_withCells (h : (lineOf s l).service ≠ deriveService (lineOf s l)) :
    ∃ u, rederive l s = withCells (rederived l s) u := by
  rw [rederive_report h]; exact queueReport_eq _ _

theorem ne_of_leaving {a b : Service} (ha : inService a = true) (hb : inService b = false) : a ≠ b := by
  rintro rfl; rw [ha] at hb; cases hb

/-- A line that leaves service, in the state that the derivation leaves (R9). -/
theorem rederive_leftService (ho : inService (lineOf s l).service = true)
    (hn : inService (deriveService (lineOf s l)) = false) :
    ∃ t, LeftService l (setLine l (fun x => { x with service := deriveService (lineOf s l) }) s) t ∧
      (rederive l s).store.up = t.store.up ∧ (rederive l s).store.down = t.store.down ∧
      (rederive l s).store.lineRx = t.store.lineRx ∧ (rederive l s).dist = t.dist ∧ (rederive l s).sched = t.sched ∧
      lineOf (rederive l s) l = lineOf t l := by
  obtain ⟨u, hu⟩ := rederive_eq_withCells (ne_of_leaving ho hn)
  refine ⟨leaveService l (setLine l (fun x => { x with service := deriveService (lineOf s l) }) s),
    leaveService_leftService l _, ?_⟩
  rw [hu, rederived, serviceEffects_leaving l _ ho hn]
  generalize leaveService l _ = t
  split <;> exact ⟨rfl, rfl, rfl, rfl, rfl, rfl⟩

/-- A line that enters or keeps service has its counter given its line rate, and nothing else is done to it (R11). -/
theorem rederive_paced (h : (lineOf s l).service ≠ deriveService (lineOf s l))
    (hn : inService (deriveService (lineOf s l)) = true) :
    ∃ u, rederive l s = withCells (paceLine l (deriveService (lineOf s l))
      (setLine l (fun x => { x with service := deriveService (lineOf s l) }) s)) u := by
  obtain ⟨u, hu⟩ := rederive_eq_withCells h
  refine ⟨u, ?_⟩
  rw [hu, rederived, serviceEffects_staying l _ (by simp [hn]), if_pos hn]

theorem counters_paced (l : Line) (v : Service) (s : State) :
    look (paceLine l v (setLine l (fun x => { x with service := v }) s)).sched.counters (entryOf l) =
      giveRate (lineRate (lineOf s l).profile v) (look s.sched.counters (entryOf l)) := by
  rw [paceLine, setSched_sched, look_alter_same, lineOf_setLine_same]; rfl

theorem rederived_mgmt (ho : inService (lineOf s l).service = false) : (rederived l s).mgmt = s.mgmt := by
  rw [rederived, serviceEffects_staying l _ (by simp [ho])]
  split
  · rfl
  · split <;> rfl

theorem giveRate_stopped {rate : Nat} {c : Counter} (hc : c.running = false) (hr : 1 ≤ rate) :
    giveRate rate c = loadCounter rate := by
  rw [giveRate, hc]; simp [Nat.ne_of_gt hr]

theorem giveRate_running {rate : Nat} {c : Counter} (hc : c.running = true) :
    giveRate rate c = { c with pending := some rate, rate := rate } := by
  rw [giveRate, hc]; rfl

theorem lineRate_inService {p : Profile} {v : Service} (h : inService v = true) :
    lineRate p v = if v = .up then p.peak else max 1 (p.peak * p.degraded / 100) := by
  cases v with
  | up | degraded => rfl
  | _ => cases h

theorem queueReport_full {body : ReportBody} {s : State} (h : 16 ≤ s.mgmt.reports.length) :
    queueReport body s = setMgmt (fun m => { m with missed := true }) s := if_pos h

theorem queueReport_waits {body : ReportBody} {s : State} (hne : s.mgmt.reports ≠ []) (h : s.mgmt.reports.length < 16) :
    queueReport body s = setMgmt (fun m => { m with reports := m.reports ++ [⟨s.time, body⟩] }) s := by
  unfold queueReport
  have hroom : ¬ Config.reportFrames ≤ s.mgmt.reports.length := Nat.not_le_of_lt h
  simp [hroom, hne]

end

/-! ### BAR LINE and UNBAR LINE -/

theorem barTo_eq (code num : Byte) (b : Bool) (l : Line) (s : State) :
    barTo code num b l s = respond code num .done
      [serviceCode (lineOf (setBarred l b s) l).service] false (setBarred l b s) := rfl

end Sys2Proof.Machine

namespace Sys2Proof.Machine

/-! ### The test condition takes a value -/

section
variable {l : Line} {s : State} {new : TestCond}

/-- The state in which the service state is derived behind a change of the test condition: a line that leaves CONNECTED has
been resumed (R10, R118). -/
def testTaken (l : Line) (new : TestCond) (s : State) : State :=
  setLine l (fun x => { x with test := new }) (if (lineOf s l).test = .connected then resumeLine l s else s)

theorem testTaken_entering (h : (lineOf s l).test ≠ .connected) :
    testTaken l new s = setLine l (fun x => { x with test := new }) s := by
  rw [testTaken, if_neg h]

theorem testTaken_leaving (h : (lineOf s l).test = .connected) :
    testTaken l new s = setLine l (fun x => { x with test := new }) (resumeLine l s) := by
  rw [testTaken, if_pos h]

theorem setTest_eq (h : new ≠ (lineOf s l).test) :
    setTest l new s = followTimer l (rederive l (testTaken l new s)) := setTest_changed h

theorem supOf_rederive (l : Line) (s : State) : supOf (rederive l s) l =
    if deriveService (lineOf s l) = .testing ∧ (lineOf s l).service ≠ deriveService (lineOf s l) then
      suspendSup (supOf s l) else supOf s l := by
  rw [supOf, (rederive_rederived l s).sup]
  split <;> simp [supOf]

theorem supOf_rederive_ne {k : Line} (hk : k ≠ l) : supOf (rederive l s) k = supOf s k := by
  rw [supOf, (rederive_rederived l s).sup]
  split
  · exact look_alter_ne _ _ _ _ hk.symm
  · rfl

/-- A line that is connected enters TESTING, and its supervision is suspended. -/
theorem setTest_connected (htest : (lineOf s l).test ≠ .connected) (heq : (lineOf s l).equipped = true)
    (hservice : (lineOf s l).service ≠ .testing) :
    InputsStand { lineOf s l with test := .connected, service := .testing } (lineOf (setTest l .connected s) l) ∧
    supOf (setTest l .connected s) l = suspendSup (supOf s l) := by
  have htaken := testTaken_entering (new := .connected) htest
  have hline : lineOf (testTaken l .connected s) l = { lineOf s l with test := .connected } := by
    rw [htaken, lineOf_setLine_same]
  have hderive : deriveService (lineOf (testTaken l .connected s) l) = .testing := by
    rw [hline]; simp [deriveService, heq]
  have hrecord := (rederive_rederived l (testTaken l .connected s)).record
  have hsup := supOf_rederive l (testTaken l .connected s)
  rw [hline, derived, ← hline, hderive, hline] at hrecord
  rw [hderive, hline, if_pos ⟨rfl, hservice⟩, htaken, supOf_setLine, ← htaken] at hsup
  rw [setTest_eq (Ne.symm htest)]
  refine ⟨hrecord, ?_⟩
  rw [supOf_followTimer_stopped (timerRuns_suspended (by rw [hsup]; rfl)), hsup]
  rfl

/-- A line that leaves CONNECTED is resumed with sync condition OUT, and does not enter TESTING. -/
theorem setTest_leaving (htest : (lineOf s l).test = .connected) (hnew : new ≠ .connected) :
    InputsStand (derived { lineOf s l with sync := .outOfSync, test := new }) (lineOf (setTest l new s) l) ∧
    supOf (setTest l new s) l = { resumeSup (supOf s l) with timerFrom := none } := by
  have htaken := testTaken_leaving (new := new) htest
  have hline : lineOf (testTaken l new s) l = { lineOf s l with sync := .outOfSync, test := new } := by
    rw [htaken, lineOf_setLine_same, resumeLine, lineOf_setLine_same, lineOf_setSup]
  have hderive : deriveService (lineOf (testTaken l new s) l) ≠ .testing := by
    rw [hline, deriveService_eq]
    split_ifs <;> simp_all
  have hrecord := (rederive_rederived l (testTaken l new s)).record
  have hsup := supOf_rederive l (testTaken l new s)
  rw [hline] at hrecord
  rw [if_neg fun h => hderive h.1, htaken, supOf_setLine, resumeLine, supOf_setLine, supOf_setSup_same, ← resumeLine,
    ← htaken] at hsup
  rw [setTest_eq (by rw [htest]; exact hnew)]
  refine ⟨hrecord, ?_⟩
  rw [supOf_followTimer_stopped (timerRuns_noSignalLoss (by rw [hsup]; rfl)), hsup]

end

/-- Settles O47: the requests set the flag and derive the service state, the derivation is taken apart by whether the line
leaves, enters or keeps service, and a change of the test condition by whether the line enters or leaves CONNECTED. -/
theorem barringALineTakesItOutOfService : Obligations.BarringALineTakesItOutOfService := by
  refine ⟨fun num line s htakes => ⟨fun hrange => ⟨?_, ?_⟩, fun l hl => ?_⟩, fun l s => ?_, fun l s => ⟨?_, ?_⟩⟩
  · rw [exec, execBarLine, live_takeRequest htakes, requestEffect, onLine_outOfRange hrange]
  · rw [exec, execUnbarLine, live_takeRequest htakes, requestEffect, onLine_outOfRange hrange]
  · constructor
    · rw [exec, execBarLine, live_takeRequest htakes, requestEffect, onLine_inRange hl, barTo_eq]; rfl
    · rw [exec, execUnbarLine, live_takeRequest htakes, requestEffect, onLine_inRange hl, barTo_eq]; rfl
  · intro r new t x e
    have hnew : new = deriveService r := (deriveService_eq r).symm
    clear_value new
    subst hnew
    have hderived : Rederived l s t := rederive_rederived l s
    obtain ⟨-, -, hbarred, -, hsync, htest, hservice⟩ := hderived.record
    refine ⟨rederive_same, hservice, hbarred, htest, hsync, hderived.record.equipped,
      fun k hk => by rw [hderived.others k hk], fun ho hn => ?_, fun ho hn hstop hrate => ?_, fun ho hn hne hrun => ?_,
      fun hne => ⟨rederived l s, rederive_report hne, (rederived_effectsOf l s).1,
        (rederived_effectsOf l s).2.2.2.2.service, rederived_mgmt⟩, fun hne ho hfull => ?_, fun hne hsome hroom ho => ?_, ?_,
      fun k hk => supOf_rederive_ne hk⟩
    · obtain ⟨u, hleft, hup, hdown, hrx, hdist, hsched, hline⟩ := rederive_leftService ho hn
      have hflush := hleft.flush
      have hlevel := hleft.level
      rw [lineOf_setLine_same] at hflush hlevel
      change look (rederive l s).store.up l = [] ∧ _
      simp only [t, x, hup, hdown, hrx, hdist, hsched, hline]
      exact ⟨hleft.up, hleft.down, hleft.sending, hleft.demand, hleft.lineRx, hflush, hleft.deficit, hlevel,
        hleft.counter, hleft.turn⟩
    · obtain ⟨u, hu⟩ := rederive_paced (ne_of_leaving hn ho).symm hn
      simp only [t, hu]
      exact ⟨(counters_paced l _ s).trans (giveRate_stopped hstop hrate), rfl, rfl, rfl⟩
    · obtain ⟨u, hu⟩ := rederive_paced hne hn
      simp only [t, x, hu]
      have hdemand : (lineOf (setLine l (fun x => { x with service := deriveService r }) s) l).demand = r.demand := by
        rw [lineOf_setLine_same]
      refine ⟨?_, rfl, rfl, rfl, rfl, hdemand⟩
      exact (counters_paced l _ s).trans ((giveRate_running hrun).trans (by rw [lineRate_inService hn]))
    · have hmgmt := rederived_mgmt ho
      simp only [t]
      rw [rederive_report hne, queueReport_full (by rw [hmgmt]; exact hfull.ge)]
      rfl
    · have hmgmt := rederived_mgmt ho
      simp only [t]
      rw [rederive_report hne, queueReport_waits (by rw [hmgmt]; exact hsome) (by rw [hmgmt]; exact hroom)]
      simp only [setMgmt_mgmt, hmgmt, (rederived_effectsOf l s).1]
      rfl
    · exact (supOf_rederive l s).trans rfl
  · intro htest heq hservice t
    obtain ⟨hrecord, hsup⟩ := setTest_connected htest heq hservice
    exact ⟨hrecord.test, hrecord.service, hrecord.sync, hsup⟩
  · intro new htest hnew t
    obtain ⟨hrecord, hsup⟩ := setTest_leaving htest hnew
    refine ⟨hrecord.test, hrecord.sync, ?_, hsup⟩
    rw [hrecord.service, derived]
    dsimp only
    rw [deriveService_eq]
    simp [hnew]

end Sys2Proof.Machine

/-! What a command does to aligners, to the relay and to the lines that are CONNECTED: a chain of touches (R107, R116, R118,
R133). It is finer than the chain of elementary changes, which leaves supervision and the relay open. -/

namespace Sys2Proof.Machine

/-! ### The part of the state that the laws of aligners and of the relay read -/

/-- The aligners, the claim unit, and which lines are CONNECTED. -/
structure Face where
  sup : Table Supervision 12
  claims : Claims
  connected : Line → Bool

def face (s : State) : Face := ⟨s.sup, s.claims, fun l => decide ((lineOf s l).test = .connected)⟩

section
variable (s : State)

@[simp] theorem face_setNotices (f : Notices → Notices) : face (setNotices f s) = face s := rfl
@[simp] theorem face_setShare (f : Share → Share) : face (setShare f s) = face s := rfl
@[simp] theorem face_setStore (f : Store → Store) : face (setStore f s) = face s := rfl
@[simp] theorem face_setSched (f : Scheduler → Scheduler) : face (setSched f s) = face s := rfl
@[simp] theorem face_setDist (f : Distributor → Distributor) : face (setDist f s) = face s := rfl
@[simp] theorem face_setSeq (f : Sequencer → Sequencer) : face (setSeq f s) = face s := rfl
@[simp] theorem face_setMeas (f : Measurement → Measurement) : face (setMeas f s) = face s := rfl
@[simp] theorem face_setMgmt (f : Management → Management) : face (setMgmt f s) = face s := rfl
@[simp] theorem face_withCells (u : State) : face (withCells s u) = face s := rfl

theorem face_eq {s t : State} (hsup : t.sup = s.sup) (hclaims : t.claims = s.claims)
    (htest : ∀ l, (lineOf t l).test = .connected ↔ (lineOf s l).test = .connected) : face t = face s := by
  simp only [face, hsup, hclaims, htest]

theorem face_setAllLines {F : Line → LineRec → LineRec}
    (hF : ∀ l x, (F l x).test = .connected ↔ x.test = .connected) : face (setAllLines F s) = face s :=
  face_eq rfl rfl fun l => by rw [lineOf_setAllLines]; exact hF l _

theorem face_setLine {l : Line} {f : LineRec → LineRec} (hf : ∀ x, (f x).test = x.test) :
    face (setLine l f s) = face s :=
  face_eq rfl rfl fun k => by rw [lineOf_setLine]; split <;> simp only [hf]

theorem face_of_undisturbed {s t : State} (h : Undisturbed s t) : face t = face s :=
  face_eq h.sup h.claims fun l => by
    have hline := congrArg LineRec.test (h.lines l)
    dsimp only at hline
    rw [hline]

@[simp] theorem face_offer : face (offer s) = face s := face_of_undisturbed (offer_frame s).1
@[simp] theorem face_queueReport (body : ReportBody) : face (queueReport body s) = face s :=
  face_of_undisturbed (queueReport_frame body s).1
@[simp] theorem face_releaseEntries (es : List Entry) : face (releaseEntries es s) = face s :=
  face_of_undisturbed (releaseEntries_frame es s).1
@[simp] theorem face_releaseChain (cells : List CellNo) : face (releaseChain cells s) = face s :=
  face_of_undisturbed (releaseChain_frame cells s).1
@[simp] theorem face_respond (code num : Byte) (a : Answer) (data : List Byte) (w : Bool) :
    face (respond code num a data w s) = face s := face_of_undisturbed (respond_frame code num a data w s).1
@[simp] theorem face_startOpportunity : face (startOpportunity s) = face s :=
  face_of_undisturbed (undisturbed_startOpportunity s)
@[simp] theorem face_settle : face (settle s) = face s := face_of_undisturbed (undisturbed_settle s)

@[simp] theorem face_askNotice (a : Ask) : face (askNotice a s) = face s := by
  obtain ⟨n, hn⟩ := askNotice_frame a s
  rw [hn]; rfl

@[simp] theorem face_startHead : face (startHead s) = face s := by
  unfold startHead; dsimp only; split
  · split <;> rfl
  · rfl

@[simp] theorem face_changeAllowance (a : Nat) : face (changeAllowance a s) = face s := by
  unfold changeAllowance; split <;> rfl

@[simp] theorem face_recompute : face (recompute s) = face s := by
  unfold recompute applyShare; dsimp only; split <;> simp

/-! ### Blocks that do not touch it -/

@[simp] theorem face_countDrop (l : Line) : face (countDrop l s) = face s := face_setLine s fun _ => rfl
@[simp] theorem face_countFlood : face (countFlood s) = face s := rfl
@[simp] theorem face_setLineRx (l : Line) (r : LineRx) : face (setLineRx l r s) = face s := rfl
@[simp] theorem face_setUplinkRx (r : UplinkRx) : face (setUplinkRx r s) = face s := rfl
@[simp] theorem face_countMalformed : face (countMalformed s) = face s := rfl
@[simp] theorem face_countUnmapped : face (countUnmapped s) = face s := rfl

@[simp] theorem face_dropLineRx (l : Line) : face (dropLineRx l s) = face s := by
  unfold dropLineRx; split <;> simp

theorem face_takeHeader (header : List Byte) : face (takeHeader header s) = face s := by
  have hclassify (tag : Nat) (kind : Byte) (n : Nat) : face (classify tag kind n s) = face s := by
    unfold classify; split_ifs
    · simp
    · simp
    · simp
    · simp
    · split <;> simp
    · simp
  unfold takeHeader; split
  · exact hclassify _ _ _
  · exact hclassify _ _ _
  · rfl

theorem face_admitFirst (p : Port) (b : Byte) : face (admitFirst p b s) = face s := by
  cases p with
  | line l =>
    simp only [admitFirst, admitLine]; split
    · rfl
    · split
      · split <;> simp
      · simp
  | uplink =>
    simp only [admitFirst, admitUplink]; split
    · split <;> simp
    · simp
    · split <;> simp
    · simp
    · simp
    · rfl

@[simp] theorem face_dropDownstream (r x : UplinkRx) : face (dropDownstream r x s) = face s := by
  unfold dropDownstream; split <;> simp

theorem face_growFrame (p : Port) (bytes : List Byte) : face (growFrame p bytes s) = face s := by
  cases p with
  | line l =>
    simp only [growFrame, growLine]; split
    · split
      · split <;> simp
      · simp
    · rfl
  | uplink =>
    simp only [growFrame, growUplink]; split
    · split <;> simp
    · split <;> simp
    · simp
    · simp
    · simp
    · rfl

@[simp] theorem face_checkPort (l : Line) : face (checkPort l s) = face s := by
  have hread : face (readReady l s) = face s := by unfold readReady; split <;> rfl
  have hlook (t : State) : face (lookDown l t) = face t :=
    (face_releaseEntries _ _).trans (face_setLine _ fun _ => rfl)
  have htake (t : State) : face (takeDown l t) = face t := by unfold takeDown; split <;> rfl
  unfold checkPort takeIfReady; split
  · rw [htake, hlook, hread]
  · exact hread

theorem face_checkPorts (ls : List Line) : face (ls.foldl (fun s l => checkPort l s) s) = face s := by
  induction ls generalizing s with
  | nil => rfl
  | cons l ls ih => exact (ih (checkPort l s)).trans (face_checkPort s l)

theorem face_endFrame (p : Port) (rest : List Byte) : face (endFrame p rest s) = face s := by
  cases p with
  | line l =>
    simp only [endFrame, endLine]; split
    · simp
    · simp
    · split <;> simp
  | uplink =>
    simp only [endFrame, endUplink]; split
    · simp
    · simp
    · rfl
    · simp
    · simp
    · split <;> simp
    · split
      · rw [face_checkPorts]; rfl
      · simp

theorem face_abortFrame (p : Port) : face (abortFrame p s) = face s := by
  cases p with
  | line l => simp only [abortFrame, abortLine]; split <;> simp
  | uplink => simp only [abortFrame, abortUplink]; split <;> simp

theorem face_offerByte (l : Line) : face (offerByte l s) = face s :=
  face_setLine s fun x => by split <;> rfl

theorem face_completeDown (l : Line) : face (completeDown l s) = face s := by
  unfold completeDown; split <;> simp

theorem face_takeUnderflow (p : Pacer) : face (takeUnderflow p s) = face s := by
  unfold takeUnderflow; split
  · split <;> rfl
  · split
    · unfold underflowStation; dsimp only; split <;> simp
    · rfl

theorem face_completeUp : face (completeUp s) = face s := by
  have hwait (f : UplinkFrame) (t : State) : face (endWaitFor f t) = face t := by unfold endWaitFor; split <;> rfl
  unfold completeUp; split
  · rfl
  · dsimp only; split <;> simp [hwait]

/-! ### The share unit, and the notices that the claim unit does not hear of -/

@[simp] theorem face_setPeer (k : StationNo) (f : Peer → Peer) : face (setPeer k f s) = face s := rfl

theorem face_takeNoticePeriod : face (takeNoticePeriod s) = face s := by
  have hdemands (t : State) : face (updateDemands t) = face t := face_setAllLines t fun _ _ => Iff.rfl
  unfold takeNoticePeriod noticePeriodWork askStatus advertise
  simp [hdemands]

theorem face_takeRiseCheck : face (takeRiseCheck s) = face s := by
  unfold takeRiseCheck; split <;> simp

@[simp] theorem face_setCondition (c : BusCondition) : face (setCondition c s) = face s := by
  unfold setCondition; dsimp only; split <;> simp

@[simp] theorem face_countNotice : face (countNotice s) = face s := by
  unfold countNotice; split <;> simp

@[simp] theorem face_reportDuplicate (g : GoodNotice) : face (reportDuplicate g s) = face s := by
  unfold reportDuplicate; split <;> simp

theorem face_takeRecessiveRun : face (takeRecessiveRun s) = face s := by unfold takeRecessiveRun; split <;> rfl
theorem face_takeStartBit : face (takeStartBit s) = face s := by unfold takeStartBit; split <;> rfl

/-! ### The requests that the claim unit, the line table and supervision do not hear of -/

theorem face_setTagRequest (num index : Byte) (tag : BitVec 16) (line cls : Byte) :
    face (setTagRequest num index tag line cls s) = face s := by
  have hput (x : MapIndex) (e : Option MapEntry) : face (putMap x e s) = face s := rfl
  have hplace (x : MapIndex) (l : Line) (c : FrameClass) : face (placeTag num x tag.toNat l c s) = face s := by
    unfold placeTag done refuse; split
    · simp
    · split
      · split <;> simp [hput]
      · simp [hput]
  unfold setTagRequest answer; split
  · simp
  · split
    · split
      · simp
      · exact hplace _ _ _
    · simp

theorem face_clearTagRequest (num index : Byte) : face (clearTagRequest num index s) = face s := by
  unfold clearTagRequest answer done putMap; split <;> simp

theorem face_writeStep (num : Byte) (k : Slot) (p : Option Step) : face (writeStep num k p s) = face s := by
  unfold writeStep done refuse; split <;> simp

theorem face_loadStepRequest (num slot : Byte) (rec : RawStep) : face (loadStepRequest num slot rec s) = face s := by
  unfold loadStepRequest answer; split
  · simp
  · split
    · exact face_writeStep s _ _ _
    · simp

theorem face_emptyStepRequest (num slot : Byte) : face (emptyStepRequest num slot s) = face s := by
  unfold emptyStepRequest answer; split
  · simp
  · exact face_writeStep s _ _ _

theorem face_restartRequest (num : Byte) : face (restartRequest num s) = face s := by simp [restartRequest]

theorem face_unknownRequest (contents : List Byte) : face (unknownRequest contents s) = face s := by
  unfold unknownRequest answer; split <;> simp

end

end Sys2Proof.Machine

namespace Sys2Proof.Machine

/-! ### The laws, and what keeps them -/

/-- An aligner is ALIGNED exactly while its line has a second in progress, and never while suspended. -/
def SoundAligner (x : Supervision) : Prop :=
  (x.aligned = true ↔ x.second ≠ none) ∧ (x.suspended = true → x.aligned = false)

theorem soundAligner_search {x : Supervision} (ha : x.aligned = false) (hs : x.second = none) : SoundAligner x := by
  simp [SoundAligner, ha, hs]

/-- The law reads three fields alone. -/
theorem SoundAligner.congr {x y : Supervision} (h : SoundAligner x) (ha : y.aligned = x.aligned)
    (hs : y.second = x.second) (hp : y.suspended = x.suspended) : SoundAligner y := by
  simpa only [SoundAligner, ha, hs, hp] using h

/-- A relay is closed, or a Connect waits, only in HOLDING (R133). -/
def RelayHeld (cl : Claims) : Prop := cl.relay ≠ none ∨ cl.connectWaits ≠ none → cl.own = .holding

/-- The law of the relay, while the part is not held. -/
def Wired (s : State) : Prop :=
  (∀ l, (lineOf s l).test = .connected ↔ s.claims.relay = some l) ∧ RelayHeld s.claims

/-- Outside HOLDING no relay is closed and no Connect waits. -/
theorem RelayHeld.open_ {cl : Claims} (h : RelayHeld cl) (ho : cl.own ≠ .holding) :
    cl.relay = none ∧ cl.connectWaits = none := by
  by_contra hc
  exact ho (h (by tauto))

/-- A change of the claim unit that closes no relay and opens none, and leaves a closed one to HOLDING. -/
structure ClaimMove (x y : Claims) : Prop where
  relay : y.relay = x.relay
  held : RelayHeld x → RelayHeld y

section
variable {x y : Claims}

theorem ClaimMove.same (hr : y.relay = x.relay) (hw : y.connectWaits = x.connectWaits) (ho : y.own = x.own) :
    ClaimMove x y := ⟨hr, fun h => by simpa only [RelayHeld, hr, hw, ho] using h⟩

/-- The own claim state may change where it is not HOLDING. -/
theorem ClaimMove.outside (hx : x.own ≠ .holding) (hr : y.relay = x.relay)
    (hw : y.connectWaits = x.connectWaits ∨ y.connectWaits = none) : ClaimMove x y := by
  refine ⟨hr, fun h hc => ?_⟩
  obtain ⟨hrelay, hwaits⟩ := h.open_ hx
  rw [hr, hrelay] at hc
  rcases hw with hw | hw <;> simp [hw, hwaits] at hc

/-- Anything may wait in HOLDING. -/
theorem ClaimMove.holding (hr : y.relay = x.relay) (ho : y.own = .holding) : ClaimMove x y := ⟨hr, fun _ _ => ho⟩

/-- HOLDING may be left where no relay is closed and no Connect waits any more. -/
theorem ClaimMove.leaving (hr : y.relay = x.relay) (hx : x.relay = none) (hw : y.connectWaits = none) :
    ClaimMove x y := ⟨hr, fun _ hc => by simp [hr, hx, hw] at hc⟩

/-- A dropped Connect changes nothing else. -/
theorem ClaimMove.dropped (hr : y.relay = x.relay) (hw : y.connectWaits = none) (ho : y.own = x.own) :
    ClaimMove x y :=
  ⟨hr, fun h hc => by rw [ho]; exact h (.inl (by simpa [hr, hw] using hc))⟩

/-- What the rules do to the holder view leaves the own claim and the relay alone. -/
theorem ViewMove.standing {time : Nat} {own : StationNo} (h : ViewMove time own x y) :
    y.relay = x.relay ∧ y.connectWaits = x.connectWaits ∧ y.own = x.own := by
  have hgone (k : StationNo) (cl : Claims) : (viewGone k cl).relay = cl.relay ∧
      (viewGone k cl).connectWaits = cl.connectWaits ∧ (viewGone k cl).own = cl.own := by
    unfold viewGone; dsimp only; split <;> exact ⟨rfl, rfl, rfl⟩
  cases h with
  | claim k p n => simp only [withTurn, viewClaim]; split <;> exact ⟨rfl, rfl, rfl⟩
  | take k n => simp only [withTurn, viewTake]; split <;> exact ⟨rfl, rfl, rfl⟩
  | held k n => simp only [withTurn, viewHeld]; split <;> exact ⟨rfl, rfl, rfl⟩
  | release k => simp only [withTurn, viewRelease]; split <;> exact ⟨rfl, rfl, rfl⟩
  | status k b => simp only [withTurn, viewStatus]; split <;> exact ⟨rfl, rfl, rfl⟩
  | gone k => exact hgone k _
  | ended => exact ⟨rfl, rfl, rfl⟩
  | endedOwn k => simp only [withTurn, endOwnHold]; split <;> exact ⟨rfl, rfl, rfl⟩
  | lapse => exact ⟨rfl, rfl, rfl⟩
  | present k => exact ⟨rfl, rfl, rfl⟩
  | absent k _ => exact hgone k _

theorem ViewMove.claimMove {time : Nat} {own : StationNo} (h : ViewMove time own x y) : ClaimMove x y :=
  .same h.standing.1 h.standing.2.1 h.standing.2.2

end

/-! ### The test condition of a line, the relay -/

section
variable (l : Line) (s : State)

theorem rederive_test (k : Line) : (lineOf (rederive l s) k).test = (lineOf s k).test := by
  have h := rederive_rederived l s
  by_cases hk : k = l
  · rw [hk]; exact h.record.test
  · rw [h.others k hk]

theorem setTest_claims (new : TestCond) : (setTest l new s).claims = s.claims := by
  by_cases h : new = (lineOf s l).test
  · rw [setTest_same h]
  · rw [setTest_eq h, followTimer_eq, setSup_claims, (rederive_rederived l _).claims]
    unfold testTaken; split <;> rfl

theorem setTest_test (new : TestCond) (k : Line) :
    (lineOf (setTest l new s) k).test = if k = l then new else (lineOf s k).test := by
  by_cases h : new = (lineOf s l).test
  · rw [setTest_same h]
    split
    · next hk => rw [hk, h]
    · rfl
  · rw [setTest_eq h, lineOf_followTimer, rederive_test, testTaken, lineOf_setLine]
    by_cases hk : k = l
    · simp [hk]
    · have hresume : lineOf (resumeLine l s) k = lineOf s k := lineOf_setLine_ne l k _ _ (Ne.symm hk)
      rw [if_neg (Ne.symm hk), if_neg hk]
      split
      · rw [hresume]
      · rfl

theorem soundAligner_suspendSup (x : Supervision) : SoundAligner (suspendSup x) := soundAligner_search rfl rfl
theorem soundAligner_resumeSup (x : Supervision) : SoundAligner (resumeSup x) := soundAligner_search rfl rfl

theorem alignersSound_setSup {f : Supervision → Supervision} (hf : SoundAligner (supOf s l) → SoundAligner (f (supOf s l)))
    (h : AlignersSound s) : AlignersSound (setSup l f s) := by
  intro k
  by_cases hk : l = k
  · subst hk
    change SoundAligner (supOf (setSup l f s) l)
    rw [supOf_setSup_same]
    exact hf (h l)
  · change SoundAligner (supOf (setSup l f s) k)
    rw [supOf_setSup_ne _ _ _ _ hk]
    exact h k

theorem alignersSound_rederive (h : AlignersSound s) : AlignersSound (rederive l s) := by
  intro k
  change SoundAligner (supOf (rederive l s) k)
  by_cases hk : k = l
  · rw [hk, supOf_rederive]
    split
    · exact soundAligner_suspendSup _
    · exact h l
  · rw [supOf_rederive_ne hk]
    exact h k

theorem alignersSound_followTimer (h : AlignersSound s) : AlignersSound (followTimer l s) :=
  alignersSound_setSup l s (fun hx => hx.congr rfl rfl rfl) h

theorem alignersSound_setTest (new : TestCond) (h : AlignersSound s) : AlignersSound (setTest l new s) := by
  by_cases hnew : new = (lineOf s l).test
  · rw [setTest_same hnew]; exact h
  · rw [setTest_eq hnew]
    refine alignersSound_followTimer l _ (alignersSound_rederive l _ ?_)
    unfold testTaken; split
    · exact alignersSound_setSup l s (fun _ => soundAligner_resumeSup _) h
    · exact h

end

section
variable {s : State}

/-- Disconnect opens the relay, and leaves the rest of what the laws read of the claim unit alone (R133). -/
theorem disconnect_claims (s : State) : (disconnect s).claims.relay = none ∧
    (disconnect s).claims.own = s.claims.own ∧ (disconnect s).claims.connectWaits = s.claims.connectWaits := by
  unfold disconnect; split
  · next h => exact ⟨h, rfl, rfl⟩
  · rw [setTest_claims]; exact ⟨rfl, rfl, rfl⟩

theorem restingTest_ne_connected (s : State) (l : Line) : restingTest s l ≠ .connected := by
  intro h
  unfold restingTest at h
  split at h <;> split at h <;> cases h

theorem alignersSound_disconnect (h : AlignersSound s) : AlignersSound (disconnect s) := by
  unfold disconnect; split
  · exact h
  · exact alignersSound_setTest _ _ _ h

theorem wired_disconnect (h : Wired s) : Wired (disconnect s) := by
  obtain ⟨hrelay, hown, hwaits⟩ := disconnect_claims s
  refine ⟨fun k => ?_, fun hc => ?_⟩
  · rw [hrelay]
    refine ⟨fun hk => ?_, fun hk => by cases hk⟩
    unfold disconnect at hk; split at hk
    · next hnone => rw [(h.1 k).mp hk] at hnone; cases hnone
    · next l hl =>
      rw [setTest_test] at hk
      split at hk
      · exact absurd hk (restingTest_ne_connected s l)
      · next hkl =>
        have := hl.symm.trans ((h.1 k).mp hk)
        exact absurd (Option.some.inj this).symm hkl
  · rw [hown]
    rw [hrelay, hwaits] at hc
    exact h.2 (.inr (hc.resolve_left (by simp)))

theorem alignersSound_closeRelay (l : Line) (h : AlignersSound s) : AlignersSound (closeRelay l s) :=
  alignersSound_setTest l (setClaims (fun cl => { cl with relay := some l, connectWaits := none }) s) .connected h

/-- A relay that is closed in HOLDING while none is closed. -/
theorem wired_closeRelay (l : Line) (ho : s.claims.own = .holding) (hr : s.claims.relay = none) (h : Wired s) :
    Wired (closeRelay l s) := by
  have hclaims : (closeRelay l s).claims = { s.claims with relay := some l, connectWaits := none } :=
    setTest_claims l (setClaims (fun cl => { cl with relay := some l, connectWaits := none }) s) .connected
  refine ⟨fun k => ?_, fun _ => by rw [hclaims]; exact ho⟩
  have htest : (lineOf (closeRelay l s) k).test = if k = l then .connected else (lineOf s k).test :=
    setTest_test l (setClaims (fun cl => { cl with relay := some l, connectWaits := none }) s) .connected k
  rw [htest, hclaims]
  split
  · next hk => simp [hk]
  · next hk =>
    rw [h.1 k, hr]
    simp [Ne.symm hk]

end

/-! ### Touches -/

/-- One touch. The guards on the claim unit hold where `w` does, the law of the relay before the command. -/
inductive Touch (w : Prop) : State → State → Prop where
  | aside {s t : State} (h : face t = face s) : Touch w s t
  | sup (l : Line) (f : Supervision → Supervision) {s t : State}
    (hf : SoundAligner (supOf s l) → SoundAligner (f (supOf s l)))
    (h : face t = { face s with sup := alter s.sup l f }) : Touch w s t
  | claims (f : Claims → Claims) (s) (h : w → ClaimMove s.claims (f s.claims)) : Touch w s (setClaims f s)
  | opens (s) : Touch w s (disconnect s)
  | closes (l : Line) (s) (ho : w → s.claims.own = .holding) (hr : s.claims.relay = none) : Touch w s (closeRelay l s)

/-- A chain of touches. -/
abbrev Touches (w : Prop) : State → State → Prop := Relation.ReflTransGen (Touch w)

theorem alignersSound_of_sup {s t : State} (h : t.sup = s.sup) (hs : AlignersSound s) : AlignersSound t := by
  intro l
  simpa only [supOf, h] using hs l

theorem Touch.keeps_alignersSound {w : Prop} {s t : State} (h : Touch w s t) (hs : AlignersSound s) :
    AlignersSound t := by
  cases h with
  | aside h => exact alignersSound_of_sup (congrArg Face.sup h) hs
  | sup l f hf h =>
    exact alignersSound_of_sup (s := setSup l f s) (congrArg Face.sup h) (alignersSound_setSup l s hf hs)
  | claims f _ _ => exact hs
  | opens => exact alignersSound_disconnect hs
  | closes l => exact alignersSound_closeRelay l hs

theorem wired_of_face {s t : State} (hc : (face t).claims = (face s).claims)
    (hl : (face t).connected = (face s).connected) (hs : Wired s) : Wired t := by
  refine ⟨fun l => ?_, by rw [show t.claims = s.claims from hc]; exact hs.2⟩
  have htest := congrFun hl l
  simp only [face, decide_eq_decide] at htest
  rw [htest, show t.claims = s.claims from hc]
  exact hs.1 l

theorem Touch.keeps_wired {w : Prop} (hw : w) {s t : State} (h : Touch w s t) (hs : Wired s) : Wired t := by
  cases h with
  | aside h => exact wired_of_face (by rw [h]) (by rw [h]) hs
  | sup l f _ h => exact wired_of_face (by rw [h]) (by rw [h]) hs
  | claims f _ hf => exact ⟨fun l => by rw [setClaims_claims, (hf hw).relay]; exact hs.1 l, (hf hw).held hs.2⟩
  | opens => exact wired_disconnect hs
  | closes l _ ho hr => exact wired_closeRelay l (ho hw) hr hs

theorem Touches.keeps_alignersSound {w : Prop} {s t : State} (h : Touches w s t) (hs : AlignersSound s) :
    AlignersSound t := by
  induction h with
  | refl => exact hs
  | tail _ c ih => exact c.keeps_alignersSound ih

theorem Touches.keeps_wired {w : Prop} (hw : w) {s t : State} (h : Touches w s t) (hs : Wired s) : Wired t := by
  induction h with
  | refl => exact hs
  | tail _ c ih => exact c.keeps_wired hw ih

end Sys2Proof.Machine

/-! The functions that a command is made of as chains of touches. As for elementary changes, the lemmas are stated for the end
of a chain. -/

namespace Sys2Proof.Machine

section
variable {w : Prop} {s t : State}

theorem touches_aside {u : State} (hu : face u = face t) (h : Touches w s t) : Touches w s u := h.tail (.aside hu)

theorem touches_seq (f : Sequencer → Sequencer) (h : Touches w s t) : Touches w s (setSeq f t) :=
  touches_aside (face_setSeq t f) h
theorem touches_meas (f : Measurement → Measurement) (h : Touches w s t) : Touches w s (setMeas f t) :=
  touches_aside (face_setMeas t f) h
theorem touches_notices (f : Notices → Notices) (h : Touches w s t) : Touches w s (setNotices f t) :=
  touches_aside (face_setNotices t f) h
theorem touches_line (l : Line) (f : LineRec → LineRec) (hf : ∀ x, (f x).test = x.test) (h : Touches w s t) :
    Touches w s (setLine l f t) := touches_aside (face_setLine t hf) h
theorem touches_queueReport (body : ReportBody) (h : Touches w s t) : Touches w s (queueReport body t) :=
  touches_aside (face_queueReport t body) h
theorem touches_askNotice (a : Ask) (h : Touches w s t) : Touches w s (askNotice a t) :=
  touches_aside (face_askNotice t a) h
theorem touches_recompute (h : Touches w s t) : Touches w s (recompute t) := touches_aside (face_recompute t) h
theorem touches_setPeer (k : StationNo) (f : Peer → Peer) (h : Touches w s t) : Touches w s (setPeer k f t) :=
  touches_aside (face_setPeer t k f) h

theorem touches_sup (l : Line) (f : Supervision → Supervision) (hf : SoundAligner (supOf t l) → SoundAligner (f (supOf t l)))
    (h : Touches w s t) : Touches w s (setSup l f t) := h.tail (.sup l f hf rfl)

theorem touches_claims (f : Claims → Claims) (hf : w → ClaimMove t.claims (f t.claims)) (h : Touches w s t) :
    Touches w s (setClaims f t) := h.tail (.claims f t hf)

/-- A change of the claim unit that leaves the own claim state, the relay and a waiting Connect alone. -/
theorem touches_claimsOther (f : Claims → Claims)
    (hf : ∀ cl, (f cl).relay = cl.relay ∧ (f cl).connectWaits = cl.connectWaits ∧ (f cl).own = cl.own)
    (h : Touches w s t) : Touches w s (setClaims f t) :=
  touches_claims f (fun _ => .same (hf _).1 (hf _).2.1 (hf _).2.2) h

theorem touches_view (f : Claims → Claims) (hf : ViewMove t.time t.station t.claims (f t.claims)) (h : Touches w s t) :
    Touches w s (setClaims f t) := touches_claims f (fun _ => hf.claimMove) h

theorem askNotice_claims (a : Ask) (s : State) : (askNotice a s).claims = s.claims := congrArg Face.claims (face_askNotice s a)
theorem queueReport_claims (body : ReportBody) (s : State) : (queueReport body s).claims = s.claims :=
  congrArg Face.claims (face_queueReport s body)

/-! ### The line table and supervision -/

theorem touches_followTimer (l : Line) (h : Touches w s t) : Touches w s (followTimer l t) :=
  touches_sup l _ (fun hx => hx.congr rfl rfl rfl) h

theorem face_rederive (l : Line) (s : State) : face (rederive l s) = { face s with
    sup := if deriveService (lineOf s l) = .testing ∧ (lineOf s l).service ≠ deriveService (lineOf s l) then
      alter s.sup l suspendSup else s.sup } := by
  simp only [face, (rederive_rederived l s).sup, (rederive_rederived l s).claims, rederive_test]

theorem touches_rederive (l : Line) (h : Touches w s t) : Touches w s (rederive l t) := by
  have hface := face_rederive l t
  split at hface
  · exact h.tail (.sup l suspendSup (fun _ => soundAligner_suspendSup _) hface)
  · exact touches_aside hface h

theorem touches_setBarred (l : Line) (b : Bool) (h : Touches w s t) : Touches w s (setBarred l b t) :=
  touches_rederive l (touches_line l _ (fun _ => rfl) h)

theorem touches_setSync (l : Line) (x : Sync) (h : Touches w s t) : Touches w s (setSync l x t) := by
  unfold setSync; dsimp only; split
  · exact h
  · refine touches_followTimer l (touches_rederive l ?_)
    split
    · exact touches_sup l _ (fun hx => hx.congr rfl rfl rfl) (touches_line l _ (fun _ => rfl) h)
    · exact touches_line l _ (fun _ => rfl) h

theorem touches_alignerLoss (l : Line) (h : Touches w s t) : Touches w s (alignerLoss l t) :=
  touches_sup l _ (fun _ => soundAligner_search rfl rfl) (touches_line l _ (fun _ => rfl) h)

theorem touches_debounceFlags (l : Line) (word : BitVec 48) (h : Touches w s t) :
    Touches w s (debounceFlags l word t) := by
  have halarm {u : State} (a : Alarm) (old new : Bool) (h : Touches w s u) :
      Touches w s (alarmIfChanged l a old new u) := by
    unfold alarmIfChanged; split
    · exact h
    · exact touches_queueReport _ h
  have hset : setSup l (fun _ => { supOf t l with
      showtime := debounceFlag t.settings.debounce (wordShowtime word) (supOf t l).showtime
      signalLoss := debounceFlag t.settings.debounce (wordSignalLoss word) (supOf t l).signalLoss
      dyingGasp := debounceFlag t.settings.debounce (wordDyingGasp word) (supOf t l).dyingGasp
      remoteDefect := debounceFlag t.settings.debounce (wordRemoteDefect word) (supOf t l).remoteDefect }) t =
      setSup l (fun x => { x with
        showtime := debounceFlag t.settings.debounce (wordShowtime word) x.showtime
        signalLoss := debounceFlag t.settings.debounce (wordSignalLoss word) x.signalLoss
        dyingGasp := debounceFlag t.settings.debounce (wordDyingGasp word) x.dyingGasp
        remoteDefect := debounceFlag t.settings.debounce (wordRemoteDefect word) x.remoteDefect }) t := rfl
  unfold debounceFlags; dsimp only
  rw [hset]
  exact touches_followTimer l (halarm _ _ _ (halarm _ _ _ (halarm _ _ _
    (touches_sup l _ (fun hx => hx.congr rfl rfl rfl) h))))

theorem touches_decideSync (l : Line) (h : Touches w s t) : Touches w s (decideSync l t) := by
  unfold decideSync; dsimp only; split
  · exact touches_setSync _ _ h
  · split
    · exact touches_setSync _ _ h
    · exact h

/-- A second in progress that is changed is still one. -/
theorem SoundAligner.mapSecond {x y : Supervision} (h : SoundAligner x) (f : Second → Second)
    (ha : y.aligned = x.aligned) (hs : y.second = x.second.map f) (hp : y.suspended = x.suspended) : SoundAligner y := by
  simpa only [SoundAligner, ha, hs, hp, ne_eq, Option.map_eq_none_iff] using h

theorem touches_usePosition (l : Line) (word : BitVec 48) (h : Touches w s t) : Touches w s (usePosition l word t) := by
  unfold usePosition useReport; split
  · exact h
  · split
    · exact touches_sup l _ (fun hx => hx.mapSecond _ rfl rfl rfl) h
    · exact touches_decideSync l (touches_debounceFlags l word (touches_line l _ (fun _ => rfl)
        (touches_sup l _ (fun hx => hx.mapSecond _ rfl rfl rfl) h)))

theorem touches_closeWindow (l : Line) (h : Touches w s t) : Touches w s (closeWindow l t) :=
  touches_setSync l _ (touches_sup l _ (fun hx => hx.congr rfl rfl rfl) h)

theorem soundAligner_countPosition {x : Supervision} (h : SoundAligner x) : SoundAligner (countPosition x).1 := by
  unfold countPosition; split
  · exact h
  · next hs => exact h.mapSecond (fun d => { d with positions := d.positions + 1 }) rfl (by rw [hs]; rfl) rfl

/-- A second that has ended has been one in progress. -/
theorem second_of_countPosition {x : Supervision} {d : Second} (h : (countPosition x).2 = some d) :
    (countPosition x).1.second = some d := by
  unfold countPosition at h ⊢; split at h
  · cases h
  · dsimp only at h ⊢
    split at h
    · exact h
    · cases h

/-- A second that follows one in progress. -/
theorem SoundAligner.nextSecond {x y : Supervision} (h : SoundAligner x) (hx : x.second ≠ none)
    (ha : y.aligned = x.aligned) (hs : y.second ≠ none) (hp : y.suspended = x.suspended) : SoundAligner y := by
  obtain ⟨h1, h2⟩ := h
  refine ⟨?_, by rw [ha, hp]; exact h2⟩
  rw [ha, h1]
  exact ⟨fun _ => hs, fun _ => hx⟩

theorem touches_endSecond (l : Line) (d : Second) (hd : (supOf t l).second ≠ none) (h : Touches w s t) :
    Touches w s (endSecond l d t).1 := by
  have hclose : Touches w s (closeSecond l d t) :=
    touches_sup l _ (fun hx => hx.nextSecond hd rfl (by simp) rfl) (touches_line l _ (fun _ => rfl) h)
  unfold endSecond; dsimp only; split
  · exact touches_closeWindow l hclose
  · exact hclose

theorem touches_closePosition (l : Line) (h : Touches w s t) : Touches w s (closePosition l t).1 := by
  have hcount : Touches w s (setSup l (fun x => (countPosition x).1) t) :=
    touches_sup l _ (fun hx => soundAligner_countPosition hx) h
  unfold closePosition; dsimp only; split
  · exact hcount
  · next d hd =>
    refine touches_endSecond l d ?_ hcount
    rw [supOf_setSup_same, second_of_countPosition hd]
    simp

theorem touches_takePosition (l : Line) (word : BitVec 48) (h : Touches w s t) :
    Touches w s (takePosition l word t).1 := by
  have htest : Touches w s (setSup l (testMarker (wordMarkerGood word)) t) :=
    touches_sup l _ (fun hx => hx.congr rfl rfl rfl) h
  unfold takePosition; dsimp only; split
  · exact touches_sup l _ (fun hx => hx.congr rfl rfl rfl) (touches_alignerLoss l htest)
  · exact touches_closePosition l (touches_usePosition l word htest)

theorem soundAligner_searchCut (word : BitVec 48) {x : Supervision} (h : SoundAligner x) :
    SoundAligner (searchCut word x) := by
  unfold searchCut; split
  · exact h
  · exact h.congr rfl rfl rfl

theorem touches_takeMarker (l : Line) (position : Nat) (h : Touches w s t) : Touches w s (takeMarker l position t) := by
  unfold takeMarker; split
  · next hsearch =>
    have hsuspended : (supOf t l).suspended = false := by
      unfold searching at hsearch
      simp only [Bool.and_eq_true, Bool.not_eq_true'] at hsearch
      exact hsearch.1
    have hconfirm (b : Bool) : Touches w s (setSup l (confirmMarker b position) t) :=
      touches_sup l _ (fun _ => ⟨by simp [confirmMarker], by simp [confirmMarker, hsuspended]⟩) h
    split
    · exact touches_sup l _ (fun hx => hx.congr rfl rfl rfl) h
    · exact touches_sup l _ (fun hx => hx.congr rfl rfl rfl) h
    · unfold confirm; dsimp only; split
      · exact hconfirm _
      · split
        · exact hconfirm _
        · exact touches_queueReport _ (hconfirm _)
  · exact h

/-! ### Claims (R129 to R135) -/

theorem touches_followTurn (h : Touches w s t) : Touches w s (followTurn t) := by
  unfold followTurn; split
  · next hq =>
    have hown : t.claims.own ≠ .holding := by
      simp only [Bool.and_eq_true, decide_eq_true_eq] at hq
      rw [hq.1]; simp
    exact touches_askNotice _ (touches_claims _ (fun _ => .outside hown rfl (.inl rfl)) h)
  · exact h

theorem touches_enterQueued (ho : t.claims.own ≠ .holding) (h : Touches w s t) : Touches w s (enterQueued t) :=
  touches_followTurn (touches_askNotice _ (touches_claims _ (fun _ => .outside ho rfl (.inl rfl)) h))

theorem touches_claimFromNone (x : ClaimTerms) (ho : t.claims.own ≠ .holding) (h : Touches w s t) :
    Touches w s (claimFromNone x t) := by
  have hforce := touches_claimsOther (fun cl => { cl with inForce := some x }) (fun _ => ⟨rfl, rfl, rfl⟩) h
  unfold claimFromNone; dsimp only; split
  · exact touches_claimsOther _ (fun _ => ⟨rfl, rfl, rfl⟩) hforce
  · exact touches_enterQueued ho hforce

theorem touches_claimHead (x : ClaimTerms) (h : Touches w s t) : Touches w s (claimHead x t) := by
  have hforce := touches_claimsOther (fun cl => { cl with inForce := some x }) (fun _ => ⟨rfl, rfl, rfl⟩) h
  unfold claimHead; split
  · next ho => exact touches_claimFromNone x (by rw [ho]; simp) h
  · next ho => exact touches_enterQueued (by rw [setClaims_claims, ho]; simp) hforce
  · exact hforce
  · exact hforce
  · exact h
  · exact touches_claimsOther _ (fun _ => ⟨rfl, rfl, rfl⟩) h

theorem touches_disconnect (h : Touches w s t) : Touches w s (disconnect t) := h.tail (.opens t)

theorem touches_connect (l : Line) (ho : w → t.claims.own = .holding) (h : Touches w s t) :
    Touches w s (connect l t) := by
  unfold connect; split
  · exact h
  · split
    · exact touches_claims _ (fun hw => .holding rfl (ho hw)) h
    · split
      · next hr => exact h.tail (.closes l t ho hr)
      · split
        · exact touches_seq _ h
        · exact touches_claims _ (fun hw => .holding rfl ((disconnect_claims t).2.1.trans (ho hw)))
            (touches_disconnect h)

theorem touches_drive (x : Stimulus) (h : Touches w s t) : Touches w s (drive x t) :=
  touches_claimsOther _ (fun _ => ⟨rfl, rfl, rfl⟩) h

theorem touches_leaveHolding (h : Touches w s t) : Touches w s (leaveHolding t) :=
  touches_claims _ (fun _ => .leaving rfl (disconnect_claims t).1 rfl) (touches_disconnect h)

theorem touches_giveUp (h : Touches w s t) : Touches w s (giveUp t) := by
  have hasked (ho : t.claims.own ≠ .holding) : Touches w s (askNotice .release (setClaims (fun cl =>
      { cl with own := .none, inForce := none, reclaim := false, confirmAt := none, ownLimit := none }) t)) :=
    touches_askNotice _ (touches_claims _ (fun _ => .outside ho rfl (.inl rfl)) h)
  unfold giveUp; split
  · exact touches_claimsOther _ (fun _ => ⟨rfl, rfl, rfl⟩) h
  · next ho => exact hasked (by rw [ho]; simp)
  · next ho => exact hasked (by rw [ho]; simp)
  · next ho => exact hasked (by rw [ho]; simp)
  · exact touches_leaveHolding h
  · exact touches_claimsOther _ (fun _ => ⟨rfl, rfl, rfl⟩) h

end

end Sys2Proof.Machine

namespace Sys2Proof.Machine

section
variable {w : Prop} {s t : State}

/-! ### The test sequencer (R142 to R151) -/

theorem face_refreshTests (s : State) : face (refreshTests s) = face s :=
  face_setAllLines s (fun l x => by
    split
    · rfl
    · next hx => simp [restingTest_ne_connected s l, hx])

theorem touches_refreshTests (h : Touches w s t) : Touches w s (refreshTests t) := touches_aside (face_refreshTests t) h

theorem refreshTests_claims (s : State) : (refreshTests s).claims = s.claims := congrArg Face.claims (face_refreshTests s)

theorem touches_endRecord (r : Run) (o : RunOutcome) (k : Slot) (h : Touches w s t) :
    Touches w s (endRecord r o k t) := by
  unfold endRecord; dsimp only; split
  · exact touches_seq _ (touches_meas _ (touches_queueReport _ h))
  · exact touches_meas _ (touches_queueReport _ h)

theorem touches_enterFront (r : Run) (h : Touches w s t) : Touches w s (enterFront r t) := by
  have hqueue := touches_seq (fun q => { q with queue := placeFront (roomIn q.queue) r }) h
  unfold enterFront
  refine touches_refreshTests ?_
  split
  · exact touches_endRecord _ _ _ hqueue
  · exact hqueue

theorem touches_enterTail (r : Run) (h : Touches w s t) : Touches w s (enterTail r t) :=
  touches_refreshTests (touches_seq _ h)

theorem touches_clearActive (h : Touches w s t) : Touches w s (clearActive t) := touches_seq _ h
theorem touches_setActive (f) (h : Touches w s t) : Touches w s (setActive f t) := touches_seq _ h

theorem touches_decideHold (o : RunOutcome) (h : Touches w s t) : Touches w s (decideHold o t) := by
  unfold decideHold; split
  · exact h
  · exact touches_giveUp h

/-- A run becomes active; its relay is closed at once where the claim is HOLDING already (R146). -/
theorem touches_becomeActive (r : Run) (h : Touches w s t) : Touches w s (becomeActive r t) := by
  unfold becomeActive; split
  · next ho => exact touches_connect _ (fun _ => by rw [refreshTests_claims]; exact ho) (touches_refreshTests (touches_seq _ h))
  · exact touches_claimHead _ (touches_refreshTests (touches_seq _ h))

theorem touches_endAtActivation (r : Run) (o : RunOutcome) (h : Touches w s t) : Touches w s (endAtActivation r o t) :=
  touches_refreshTests (touches_endRecord _ _ _ (touches_decideHold _ h))

theorem touches_activateUpTo (n : Nat) (h : Touches w s t) : Touches w s (activateUpTo n t) := by
  induction n generalizing t with
  | zero => exact h
  | succ n ih =>
    unfold activateUpTo; split
    · exact h
    · split
      · exact h
      · next r rest _ =>
        have hrest := touches_seq (fun q => { q with queue := rest }) h
        dsimp only; split
        · exact ih (touches_endAtActivation _ _ hrest)
        · exact touches_becomeActive _ hrest

theorem touches_activate (h : Touches w s t) : Touches w s (activate t) := touches_activateUpTo _ h

theorem touches_finishEnding (a : Active) (h : Touches w s t) : Touches w s (finishEnding a t) :=
  touches_activate (touches_refreshTests (touches_endRecord _ _ _ (touches_clearActive
    (touches_decideHold _ (touches_disconnect h)))))

theorem touches_beginEnding (o : RunOutcome) (a : Active) (h : Touches w s t) : Touches w s (beginEnding o a t) := by
  unfold beginEnding; dsimp only; split
  · exact touches_drive _ (touches_setActive _ h)
  · exact touches_finishEnding _ (touches_setActive _ h)

theorem touches_startSampling (h : Touches w s t) : Touches w s (startSampling t) :=
  touches_meas _ (touches_setActive _ h)

theorem touches_startSettling (b : Bool) (a : Active) (h : Touches w s t) : Touches w s (startSettling b a t) := by
  unfold startSettling; split
  · exact h
  · dsimp only; split
    · exact touches_startSampling (touches_drive _ (touches_meas _ (touches_setActive _ h)))
    · exact touches_drive _ (touches_meas _ (touches_setActive _ h))

theorem touches_startDischarging (h : Touches w s t) : Touches w s (startDischarging t) :=
  touches_drive _ (touches_setActive _ h)

theorem touches_suspendRun (a : Active) (k : Slot) (h : Touches w s t) : Touches w s (suspendRun a k t) :=
  touches_enterFront _ (touches_clearActive h)

theorem touches_setHazard (l : Line) (b : Bool) (h : Touches w s t) : Touches w s (setHazard l b t) :=
  touches_line _ _ (fun _ => rfl) h

theorem touches_nextPhase (a : Active) (h : Touches w s t) : Touches w s (nextPhase a t) := by
  unfold nextPhase; split
  · exact h
  · dsimp only; split
    · exact touches_beginEnding _ _ (touches_setActive _ h)
    · split
      · exact touches_beginEnding _ _ (touches_setActive _ h)
      · split
        · exact touches_beginEnding _ _ (touches_line _ _ (fun _ => rfl) (touches_setActive _ h))
        · split
          · exact touches_setActive _ h
          · split
            · exact touches_activate (touches_suspendRun _ _ (touches_setActive _ h))
            · exact touches_startSettling _ _ (touches_setActive _ (touches_setActive _ h))

theorem touches_startConnecting (a : Active) (ho : w → t.claims.own = .holding) (h : Touches w s t) :
    Touches w s (startConnecting a t) := by
  unfold startConnecting; dsimp only; split
  · exact touches_beginEnding _ _ (touches_setActive _ h)
  · exact touches_connect _ ho (touches_setActive _ h)

theorem touches_headHeld (ho : w → t.claims.own = .holding) (h : Touches w s t) : Touches w s (headHeld t) := by
  unfold headHeld; split
  · split
    · exact touches_startConnecting _ ho h
    · exact touches_giveUp h
  · exact touches_giveUp h

theorem touches_limitTaken (h : Touches w s t) : Touches w s (limitTaken t) := by
  unfold limitTaken; split
  · exact h
  · split
    · exact h
    · split
      · exact touches_beginEnding _ _ h
      · dsimp only; split
        · exact touches_drive _ (touches_seq _ (touches_suspendRun _ _ h))
        · exact touches_activate (touches_giveUp (touches_disconnect (touches_suspendRun _ _ h)))

theorem touches_holdLost (h : Touches w s t) : Touches w s (holdLost t) := by
  unfold holdLost; split
  · exact touches_activate (touches_seq _ h)
  · split
    · exact h
    · split
      · exact h
      · split
        · exact touches_finishEnding _ h
        · split
          · exact touches_activate (touches_suspendRun _ _ h)
          · exact touches_activate (touches_refreshTests (touches_endRecord _ _ _ (touches_clearActive
              (touches_seq _ h))))

theorem touches_faultRun (r : Run) (k : Slot) (h : Touches w s t) : Touches w s (faultRun r k t) :=
  touches_endRecord _ _ _ (touches_decideHold _ (touches_seq _ h))

theorem touches_protectiveStop (h : Touches w s t) : Touches w s (protectiveStop t) := by
  unfold protectiveStop; split
  · next c _ =>
    have hopen := touches_setHazard c.line true (touches_disconnect
      (touches_seq (fun q => { q with closing := none }) h))
    dsimp only; split
    · exact touches_activate (touches_refreshTests (touches_faultRun _ _ (touches_seq _ hopen)))
    · exact touches_activate (touches_decideHold _ hopen)
  · exact touches_activate (touches_refreshTests (touches_faultRun _ _ (touches_clearActive
        (touches_setHazard _ _ (touches_disconnect (touches_setActive _ h))))))
  · exact touches_disconnect h

theorem touches_displaceWaiting (h : Touches w s t) : Touches w s (displaceWaiting t) := by
  unfold displaceWaiting; split
  · split
    · exact touches_enterFront _ (touches_clearActive h)
    · exact h
  · exact h

theorem touches_raiseTrigger (l : Line) (c : Cause) (h : Touches w s t) : Touches w s (raiseTrigger l c t) := by
  unfold raiseTrigger triggeredRequest; dsimp only; split
  · exact h
  · split
    · exact h
    · split
      · exact touches_endRecord _ _ _ (touches_seq _ h)
      · exact touches_activate (touches_displaceWaiting (touches_enterFront _ (touches_seq _ h)))

/-! ### The measurement unit -/

theorem touches_storeResult (run : Run) (p : Step) (q : Quantity) (r : Result) (h : Touches w s t) :
    Touches w s (storeResult run p q r t) := by
  unfold storeResult; dsimp only; split
  · exact touches_queueReport _ (touches_meas _ h)
  · exact touches_meas _ h

theorem touches_afterFinal (a : Active) (p : Step) (h : Touches w s t) : Touches w s (afterFinal a p t) := by
  unfold afterFinal; split
  · split
    · exact touches_beginEnding _ _ h
    · exact touches_startDischarging h
  · exact touches_nextPhase _ h

theorem touches_afterAnother (p : Step) (h : Touches w s t) : Touches w s (afterAnother p t) := by
  unfold afterAnother; split
  · exact touches_startDischarging h
  · exact touches_startSampling h

theorem touches_endMeasurement (a : Active) (p : Step) (q : Quantity) (x : Wires) (h : Touches w s t) :
    Touches w s (endMeasurement a p q x t) := by
  unfold endMeasurement; dsimp only; split
  · exact touches_protectiveStop (touches_storeResult _ _ _ _ h)
  · split
    · exact touches_afterAnother _ (touches_meas _ h)
    · exact touches_afterFinal _ _ (touches_storeResult _ _ _ _ (touches_meas _ h))

theorem touches_samplePair (v i : Int) (h : Touches w s t) : Touches w s (samplePair v i t) := by
  unfold samplePair takePair; split
  · exact touches_protectiveStop h
  · split
    · split
      · dsimp only; split
        · exact touches_meas _ h
        · split
          · exact touches_endMeasurement _ _ _ _ (touches_meas _ h)
          · exact touches_meas _ h
      · exact h
    · exact h

/-! ### What notices and timers do to claims (R124 to R135) -/

theorem touches_loseHold (h : Touches w s t) : Touches w s (loseHold t) := touches_holdLost (touches_leaveHolding h)

theorem touches_followOwn (h : Touches w s t) : Touches w s (followOwn t) := by
  unfold followOwn; split
  · exact touches_followTurn h
  · next ho =>
    split
    · exact h
    · exact touches_enterQueued (by rw [ho]; simp) h
  · split
    · exact h
    · exact touches_loseHold h
  · exact h

theorem touches_changeView (f) (hf : ViewMove t.time t.station t.claims (withTurn t.time f t.claims))
    (h : Touches w s t) : Touches w s (changeView f t) := touches_followOwn (touches_view _ hf h)

theorem touches_heardTake (k : StationNo) (n : Nat) (h : Touches w s t) : Touches w s (heardTake k n t) := by
  unfold heardTake; dsimp only; split
  · exact touches_askNotice _ (touches_changeView _ (.take _ _) h)
  · exact touches_changeView _ (.take _ _) h

theorem touches_backToQueued (ho : t.claims.own ≠ .holding) (h : Touches w s t) : Touches w s (backToQueued t) := by
  unfold backToQueued; split
  · exact touches_followTurn (touches_claims _ (fun _ => .outside ho rfl (.inl rfl)) h)
  · exact touches_enterQueued ho h

theorem touches_ownTakeEnd (n : Nat) (h : Touches w s t) : Touches w s (ownTakeEnd n t) := by
  have hmove : ViewMove t.time t.station t.claims (withTurn t.time (viewTake t.time t.station n) t.claims) := .take _ _
  have hview := touches_view _ hmove h
  unfold ownTakeEnd; dsimp only; split
  · next ho =>
    have hturn : (setClaims (withTurn t.time (viewTake t.time t.station n)) t).claims.own ≠ .holding := by
      rw [setClaims_claims, hmove.standing.2.2, ho]; simp
    split
    · exact touches_claims _ (fun _ => .outside hturn rfl (.inl rfl)) hview
    · exact touches_backToQueued hturn hview
  · exact touches_followOwn hview

theorem touches_endReleasing (ho : t.claims.own ≠ .holding) (h : Touches w s t) : Touches w s (endReleasing t) := by
  have hnone : Touches w s (setClaims (fun cl => { cl with own := .none, inForce := none, recorded := none }) t) :=
    touches_claims _ (fun _ => .outside ho rfl (.inl rfl)) h
  unfold endReleasing; dsimp only; split
  · exact touches_claimFromNone _ (by simp) hnone
  · exact hnone

theorem touches_ownHoldOver (f) (hf : ViewMove t.time t.station t.claims (withTurn t.time f t.claims))
    (h : Touches w s t) : Touches w s (ownHoldOver f t) := by
  unfold ownHoldOver; split
  · next ho =>
    exact touches_endReleasing (by rw [setClaims_claims, hf.standing.2.2, ho.1]; simp) (touches_view _ hf h)
  · exact touches_changeView _ hf h

theorem touches_ownStatusEnd (b : Bool) (h : Touches w s t) : Touches w s (ownStatusEnd b t) := by
  have hchanged : Touches w s (changeView (viewStatus t.station b) t) := touches_changeView _ (.status _ _) h
  have hwaiting : Touches w s (releaseWaitingClaim (changeView (viewStatus t.station b) t)) := by
    unfold releaseWaitingClaim; split
    · next ho => exact touches_enterQueued (by rw [ho.1]; simp) hchanged
    · exact hchanged
  unfold ownStatusEnd reclaimAfterStatus; split
  · have hreclaim := touches_claimsOther (fun cl => { cl with reclaim := false }) (fun _ => ⟨rfl, rfl, rfl⟩) hwaiting
    dsimp only; split
    · next ho => exact touches_enterQueued (by rw [ho]; simp) hreclaim
    · exact hreclaim
  · exact hwaiting

theorem touches_noticeDiscarded (k : NoticeKind) (h : Touches w s t) : Touches w s (noticeDiscarded k t) := by
  unfold noticeDiscarded; split
  · next ho => exact touches_enterQueued (by rw [ho]; simp) h
  · next ho =>
    split
    · exact touches_askNotice _ h
    · exact touches_backToQueued (by rw [ho]; simp) h
  · exact touches_ownHoldOver _ (.endedOwn _) h
  · split
    · exact touches_changeView _ (.endedOwn _) (touches_claimsOther _ (fun _ => ⟨rfl, rfl, rfl⟩) h)
    · exact h
  · split
    · exact touches_changeView _ (.endedOwn _) h
    · exact h
  · split
    · exact touches_changeView _ (.endedOwn _) h
    · exact h
  · exact h

theorem touches_releaseAbsorbed (h : Touches w s t) : Touches w s (releaseAbsorbed t) := by
  unfold releaseAbsorbed; split
  · split
    · exact h
    · exact touches_ownHoldOver _ (.endedOwn _) h
  · exact h

theorem touches_takeHoldExpiry (h : Touches w s t) : Touches w s (takeHoldExpiry t) := touches_changeView _ .ended h
theorem touches_takeLapse (h : Touches w s t) : Touches w s (takeLapse t) := touches_changeView _ .lapse h

/-- The confirm window ends in TAKING (R131). -/
theorem touches_takeConfirm (b : Bool) (hd : confirmDue t = true) (h : Touches w s t) :
    Touches w s (takeConfirm b t) := by
  have ho : t.claims.own = .taking := by
    unfold confirmDue at hd
    simp only [Bool.and_eq_true, decide_eq_true_eq] at hd
    exact hd.1
  have hsensed := touches_claimsOther (fun cl => { cl with occSensed := b }) (fun _ => ⟨rfl, rfl, rfl⟩) h
  unfold takeConfirm; dsimp only; split
  · refine touches_enterQueued ?_ (touches_askNotice _ (touches_queueReport _ hsensed))
    rw [askNotice_claims, queueReport_claims, setClaims_claims, ho]
    simp
  · exact touches_headHeld (fun _ => rfl) (touches_claims _ (fun _ => .holding rfl rfl) hsensed)

/-- The release time ends: a Connect that waited for it is made, in HOLDING (R133). -/
theorem touches_takeReleaseEnd (hw : w → RelayHeld t.claims) (h : Touches w s t) :
    Touches w s (takeReleaseEnd t) := by
  have hover := touches_claims (fun cl => { cl with releaseAt := none, connectWaits := none })
    (fun _ => .dropped rfl rfl rfl) h
  unfold takeReleaseEnd; dsimp only; split
  · have hreleased := touches_askNotice .release (touches_claimsOther (fun cl => { cl with occDriven := false })
      (fun _ => ⟨rfl, rfl, rfl⟩) hover)
    unfold releaseOccupancy; dsimp only; split
    · exact touches_releaseAbsorbed hreleased
    · exact hreleased
  · split
    · next hc => exact touches_connect _ (fun h => hw h (.inr (by rw [hc]; simp))) hover
    · exact hover

theorem touches_takeOwnLimit (h : Touches w s t) : Touches w s (takeOwnLimit t) :=
  touches_limitTaken (touches_claimsOther _ (fun _ => ⟨rfl, rfl, rfl⟩) h)

theorem touches_takeOccupancyLoss (h : Touches w s t) : Touches w s (takeOccupancyLoss t) := by
  unfold takeOccupancyLoss; split
  · exact touches_loseHold (touches_queueReport _ (touches_claimsOther _ (fun _ => ⟨rfl, rfl, rfl⟩) h))
  · exact h

/-! ### The timed events of the sequencer and of supervision -/

theorem touches_takeOperateEnd (h : Touches w s t) : Touches w s (takeOperateEnd t) := by
  unfold takeOperateEnd; split
  · split
    · exact touches_beginEnding _ _ h
    · exact touches_startSettling _ _ h
  · exact h

theorem touches_takeSettleEnd (h : Touches w s t) : Touches w s (takeSettleEnd t) := by
  unfold takeSettleEnd; split
  · split
    · exact touches_beginEnding _ _ h
    · exact touches_startSampling h
  · exact h

theorem touches_takeDischargeEnd (h : Touches w s t) : Touches w s (takeDischargeEnd t) := by
  unfold takeDischargeEnd; split
  · split
    · exact touches_beginEnding _ _ h
    · split
      · exact touches_nextPhase _ h
      · exact touches_startSettling _ _ h
  · exact h

theorem touches_takeEndingEnd (h : Touches w s t) : Touches w s (takeEndingEnd t) := by
  unfold takeEndingEnd; split
  · exact touches_activate (touches_giveUp (touches_disconnect (touches_seq _ h)))
  · exact touches_finishEnding _ h
  · exact h

theorem touches_takeReport (l : Line) (word : BitVec 48) (h : Touches w s t) : Touches w s (takeReport l word t) := by
  unfold takeReport; split
  · dsimp only; split
    · exact touches_raiseTrigger _ _ (touches_takePosition _ _ h)
    · exact touches_takePosition _ _ h
  · split
    · exact touches_sup l _ (soundAligner_searchCut word) h
    · exact h

theorem touches_takeLosTimer (l : Line) (h : Touches w s t) : Touches w s (takeLosTimer l t) :=
  touches_raiseTrigger _ _ (touches_sup l _ (fun hx => hx.congr rfl rfl rfl) h)

/-! ### Peers and notices -/

theorem touches_tellPresence (k : StationNo) (o n : Presence) (hk : n = .absent → k ≠ t.station) (h : Touches w s t) :
    Touches w s (tellPresence k o n t) := by
  unfold tellPresence; split
  · next hn =>
    exact touches_followOwn (touches_view (fun cl => withTurn t.time (viewGone k)
      { cl with present := put cl.present k false }) (.absent k (hk hn)) h)
  · split
    · exact touches_view _ (.present k) h
    · exact h

theorem touches_setPresence (k : StationNo) (n : Presence) (hk : n = .absent → k ≠ t.station) (h : Touches w s t) :
    Touches w s (setPresence k n t) := by
  unfold setPresence; dsimp only; split
  · exact h
  · refine touches_tellPresence _ _ _ (fun hn => ?_)
      (touches_recompute (touches_queueReport _ (touches_setPeer _ _ h)))
    have hstation : (recompute (queueReport (.peer k (peerOf t k).presence n) (setPeer k (fun p => { p with
        presence := n, joinedAt := if n = .joining then some t.time else p.joinedAt }) t))).station = t.station := by
      obtain ⟨u, hu⟩ := queueReport_eq (.peer k (peerOf t k).presence n) (setPeer k (fun p => { p with
        presence := n, joinedAt := if n = .joining then some t.time else p.joinedAt }) t)
      rw [State.station, (recompute_frame _).2.2.2.1, hu]; rfl
    rw [hstation]
    exact hk hn

theorem touches_peerStatus (k : StationNo) (n : Nat) (r b : Bool) (wt d a : Nat) (h : Touches w s t) :
    Touches w s (peerStatus k n r b wt d a t) := by
  have hnever : ∀ x : Presence, presenceAfterStatus x ≠ .absent := by intro x; cases x <;> simp [presenceAfterStatus]
  unfold peerStatus; dsimp only
  refine touches_recompute ?_
  split
  · exact touches_changeView _ (.gone _) (touches_setPresence _ _ (fun hn => absurd hn (hnever _)) (touches_setPeer _ _ h))
  · exact touches_setPresence _ _ (fun hn => absurd hn (hnever _)) (touches_setPeer _ _ h)

theorem touches_handToClaims (k : StationNo) (x : Heard) (h : Touches w s t) : Touches w s (handToClaims k x t) := by
  unfold handToClaims; split
  · exact touches_changeView _ (.status _ _) h
  · exact h
  · exact touches_changeView _ (.claim _ _ _) h
  · exact touches_heardTake _ _ h
  · exact touches_changeView _ (.held _ _) h
  · exact touches_changeView _ (.release _) h

theorem touches_handToPeers (k : StationNo) (n : Nat) (x : Heard) (h : Touches w s t) :
    Touches w s (handToPeers k n x t) := by
  unfold handToPeers; split
  · exact touches_peerStatus _ _ _ _ _ _ _ h
  · exact touches_setPeer _ _ h

theorem touches_handOn (g : GoodNotice) (h : Touches w s t) : Touches w s (handOn g t) := by
  unfold handOn; dsimp only; split
  · exact touches_recompute (touches_aside (face_setShare _ _) h)
  · split
    · split
      · exact h
      · exact touches_handToClaims _ _ (touches_handToPeers _ _ _ h)
    · exact h

theorem touches_takeGood (g : GoodNotice) (h : Touches w s t) : Touches w s (takeGood g t) := by
  unfold takeGood; dsimp only
  refine touches_handOn _ (touches_aside (face_countNotice _) ?_)
  split
  · exact touches_aside (face_reportDuplicate _ _) (touches_notices _ h)
  · exact touches_notices _ h

theorem touches_takeNotice (levels : List Bool) (h : Touches w s t) : Touches w s (takeNotice levels t) := by
  unfold takeNotice; split
  · dsimp only; split
    · exact touches_takeGood _ (touches_notices _ h)
    · exact touches_notices _ (touches_notices _ h)
  · exact h

theorem touches_handOwn (a : Ask) (x : Attempt) (h : Touches w s t) : Touches w s (handOwn a x t) := by
  unfold handOwn; split
  · exact touches_ownStatusEnd _ (touches_recompute (touches_setPeer _ _ (touches_notices _ h)))
  · exact touches_changeView _ (.claim _ _ _) h
  · exact touches_ownTakeEnd _ h
  · exact touches_changeView _ (.held _ _) h
  · exact touches_ownHoldOver _ (.release _) h

theorem touches_takeCompletion (h : Touches w s t) : Touches w s (takeCompletion t) := by
  unfold takeCompletion; split
  · exact touches_handOwn _ _ (touches_notices _ h)
  · exact h

theorem touches_reportDropped (e : OutNotice) (h : Touches w s t) : Touches w s (reportDropped e t) :=
  touches_noticeDiscarded _ (touches_queueReport _ h)

theorem touches_takeLoss (h : Touches w s t) : Touches w s (takeLoss t) := by
  unfold takeLoss; split
  · next a e x _ _ =>
    dsimp only
    have hsettled : Touches w s (match (settleLoss { e with losses := e.losses + 1 } x).dropped with
        | some d => reportDropped d
            (setNotices (loseAttempt (settleLoss { e with losses := e.losses + 1 } x).queue a) t)
        | none => setNotices (loseAttempt (settleLoss { e with losses := e.losses + 1 } x).queue a) t) := by
      split
      · exact touches_reportDropped _ (touches_notices _ h)
      · exact touches_notices _ h
    split
    · exact touches_releaseAbsorbed hsettled
    · exact hsettled
  · exact h

/-! ### The requests -/

theorem touches_done (c n : Byte) (d : List Byte) (h : Touches w s t) : Touches w s (done c n d t) :=
  touches_aside (face_respond t _ _ _ _ _) h
theorem touches_refuse (c n : Byte) (d : List Byte) (h : Touches w s t) : Touches w s (refuse c n d t) :=
  touches_aside (face_respond t _ _ _ _ _) h
theorem touches_answer (c n : Byte) (a : Answer) (h : Touches w s t) : Touches w s (answer c n a t) :=
  touches_aside (face_respond t _ _ _ _ _) h

theorem touches_onLine (c n l : Byte) (f : Line → State → State) (hf : ∀ l t, Touches w s t → Touches w s (f l t))
    (h : Touches w s t) : Touches w s (onLine c n l f t) := by
  unfold onLine; split
  · exact hf _ _ h
  · exact touches_answer _ _ _ h

theorem touches_barTo (c n : Byte) (b : Bool) (l : Line) (h : Touches w s t) : Touches w s (barTo c n b l t) :=
  touches_done _ _ _ (touches_setBarred _ _ h)

theorem touches_submitRequest (n l k o : Byte) (h : Touches w s t) : Touches w s (submitRequest n l k o t) := by
  unfold submitRequest; split
  · split
    · exact touches_refuse _ _ _ h
    · exact touches_done _ _ _ (touches_activate (touches_enterTail _ (touches_seq _ h)))
  · exact touches_answer _ _ _ h

theorem touches_cancelRun (id : Nat) {u : State} (hu : cancelRun id t = some u) (h : Touches w s t) :
    Touches w s u := by
  unfold cancelRun at hu
  split at hu
  · cases hu
    exact touches_refreshTests (touches_endRecord _ _ _ (touches_seq _ h))
  · split at hu
    · cases hu; exact touches_seq _ h
    · split at hu
      · split at hu
        · unfold cancelActive at hu
          split at hu
          · cases hu
            exact touches_activate (touches_refreshTests (touches_endRecord _ _ _ (touches_clearActive (touches_giveUp h))))
          · split at hu
            · cases hu
            · cases hu; exact touches_setActive _ h
        · cases hu
      · cases hu

theorem touches_cancelRequest (n i : Byte) (h : Touches w s t) : Touches w s (cancelRequest n i t) := by
  unfold cancelRequest; split
  · exact touches_answer _ _ _ h
  · split
    · next u hu => exact touches_done _ _ _ (touches_cancelRun _ hu h)
    · exact touches_refuse _ _ _ h

theorem touches_clearFaultLine (n : Byte) (l : Line) (h : Touches w s t) : Touches w s (clearFaultLine n l t) := by
  have hcleared : Touches w s (discardFault l (setHazard l false t)) := touches_seq _ (touches_setHazard _ _ h)
  unfold clearFaultLine clearLineFault; dsimp only; split
  · split
    · split
      · split
        · exact touches_refuse _ _ _ h
        · exact touches_done _ _ _ (touches_activate (touches_enterTail _ hcleared))
      · exact touches_done _ _ _ hcleared
    · exact touches_done _ _ _ hcleared
  · exact touches_refuse _ _ _ h

theorem touches_clearLatch (n : Byte) (h : Touches w s t) : Touches w s (clearLatch n t) := by
  unfold clearLatch; split
  · exact touches_done _ _ _ (touches_seq _ h)
  · exact touches_refuse _ _ _ h

theorem touches_realignLine (n : Byte) (l : Line) (h : Touches w s t) : Touches w s (realignLine n l t) := by
  unfold realignLine; split
  · exact touches_refuse _ _ _ h
  · dsimp only
    refine touches_done _ _ _ ?_
    split
    · exact touches_sup l _ (fun hx => hx.congr rfl rfl rfl) (touches_alignerLoss _ h)
    · exact touches_sup l _ (fun hx => hx.congr rfl rfl rfl) h

end

end Sys2Proof.Machine

namespace Sys2Proof.Machine

/-! ### Every command of a running part as a chain of touches -/

section
variable {w : Prop} {s t : State}

theorem touches_whenDue (due : State → Bool) {f : State → State} (hf : due t = true → Touches w s (f t))
    (h : Touches w s t) : Touches w s (whenDue due f t) := by
  unfold whenDue; split
  · next hd => exact hf hd
  · exact h

theorem touches_live (f : State → State) (hf : Touches w s (f s)) : Touches w s (live f s) := by
  unfold live; split
  · exact touches_aside (face_settle _) hf
  · exact .refl

theorem touches_liveAside (f : State → State) (hf : ∀ s, face (f s) = face s) : Touches w s (live f s) :=
  touches_live f (touches_aside (hf s) .refl)

theorem touches_request (f : State → State) (hf : ∀ t, Touches w s t → Touches w s (f t)) (h : Touches w s t) :
    Touches w s (request f t) := by
  have hended : Touches w s (setStore endRequestFrame t) := touches_aside (face_setStore _ _) h
  unfold request; dsimp only; split
  · exact hf _ hended
  · exact hended

/-- The effect of a request. -/
theorem touches_requestEffect (c : Instr) (h : Touches w s t) : Touches w s (requestEffect c t) := by
  cases c <;> simp only [requestEffect]
  case readLine n l => exact touches_onLine _ _ _ _ (fun _ _ h => touches_done _ _ _ h) h
  case readStation n => exact touches_done _ _ _ h
  case readPeers n => exact touches_done _ _ _ h
  case readResults n l => exact touches_onLine _ _ _ _ (fun _ _ h => touches_done _ _ _ h) h
  case barLine n l => exact touches_onLine _ _ _ _ (fun _ _ h => touches_barTo _ _ _ _ h) h
  case unbarLine n l => exact touches_onLine _ _ _ _ (fun _ _ h => touches_barTo _ _ _ _ h) h
  case setTag n x t l c => exact touches_aside (face_setTagRequest _ _ _ _ _ _) h
  case clearTag n x => exact touches_aside (face_clearTagRequest _ _ _) h
  case loadStep n k r => exact touches_aside (face_loadStepRequest _ _ _ _) h
  case loadStepEmpty n k => exact touches_aside (face_emptyStepRequest _ _ _) h
  case submitRun n l k o => exact touches_submitRequest _ _ _ _ h
  case cancelRun n i => exact touches_cancelRequest _ _ h
  case clearFault n l => exact touches_onLine _ _ _ _ (fun _ _ h => touches_clearFaultLine _ _ h) h
  case clearFaultLatch n => exact touches_clearLatch _ h
  case realign n l => exact touches_onLine _ _ _ _ (fun _ _ h => touches_realignLine _ _ h) h
  case restart n => exact touches_aside (face_restartRequest _ _) h
  case unknown c => exact touches_aside (face_unknownRequest _ _) h
  all_goals exact h

theorem touches_takeRequest (c : Instr) : Touches w s (live (takeRequest c) s) := by
  refine touches_live _ (touches_request _ (fun t h => ?_) .refl)
  unfold asReceived; split
  · split
    · exact touches_requestEffect c h
    · exact touches_requestEffect (.unknown _) h
  · exact touches_requestEffect c h

theorem touches_takeFrameEnd (p : Port) (rest : List Byte) : Touches w s (live (takeFrameEnd p rest) s) := by
  refine touches_live _ ?_
  unfold takeFrameEnd; split
  · exact touches_request _ (fun _ h => touches_requestEffect _ h) .refl
  · exact touches_aside (face_endFrame _ _ _) .refl

end

/-- A command of a running part touches aligners, the claim unit and the CONNECTED lines only as a chain of touches
does. -/
theorem exec_touches (c : Instr) (hc : isLive c = true) (s : State) :
    ∃ t, exec c s = .next t ∧ Touches (RelayHeld s.claims) s t := by
  have R := touches_takeRequest (w := RelayHeld s.claims) (s := s)
  have hdue {due : State → Bool} {f : State → State} (hf : due s = true → Touches (RelayHeld s.claims) s (f s)) :
      Touches (RelayHeld s.claims) s (live (whenDue due f) s) := touches_live _ (touches_whenDue due hf .refl)
  cases c with
  | powerOn => cases hc
  | pwrgoodFall => cases hc
  | restartStart => cases hc
  | configurationReadEnd => cases hc
  | firstRecessiveRun => exact ⟨_, rfl, touches_liveAside _ face_takeRecessiveRun⟩
  | noticeEnd b e => exact ⟨_, rfl, touches_live _ (touches_takeNotice _ .refl)⟩
  | duplicateNumberHoldoffExpiry => exact ⟨_, rfl, hdue fun _ => touches_notices _ .refl⟩
  | noticeCompletion => exact ⟨_, rfl, touches_live _ (touches_takeCompletion .refl)⟩
  | contentionLoss => exact ⟨_, rfl, touches_live _ (touches_takeLoss .refl)⟩
  | accessGapExpiry => exact ⟨_, rfl, hdue fun _ => touches_aside (face_startHead _) (touches_notices _ .refl)⟩
  | busQuietTimeout => exact ⟨_, rfl, hdue fun _ => touches_aside (face_startHead _) (touches_notices _ .refl)⟩
  | isolationTimerExpiry => exact ⟨_, rfl, hdue fun _ => touches_aside (face_setCondition _ _) (touches_notices _ .refl)⟩
  | noticePeriodExpiry => exact ⟨_, rfl, hdue fun _ => touches_aside (face_takeNoticePeriod s) .refl⟩
  | presenceTimerExpiry k =>
    exact ⟨_, rfl, hdue fun h => touches_setPresence k _ (fun _ => presenceDue_ne h) .refl⟩
  | capacityViewExpiry => exact ⟨_, rfl, hdue fun _ => touches_aside (face_setShare s _) .refl⟩
  | riseCheck => exact ⟨_, rfl, hdue fun _ => touches_aside (face_takeRiseCheck s) .refl⟩
  | firstCellAdmission p b => exact ⟨_, rfl, touches_liveAside _ fun s => face_admitFirst s p b⟩
  | furtherCellNeeded p b => exact ⟨_, rfl, touches_liveAside _ fun s => face_growFrame s p _⟩
  | frameReceptionEnd p b => exact ⟨_, rfl, touches_takeFrameEnd p b⟩
  | frameAbortReceived p => exact ⟨_, rfl, touches_liveAside _ fun s => face_abortFrame s p⟩
  | uplinkHeaderEnd t k n => exact ⟨_, rfl, touches_liveAside _ fun s => face_takeHeader s _⟩
  | pacingUnderflow p => exact ⟨_, rfl, touches_liveAside _ fun s => face_takeUnderflow s p⟩
  | uplinkTransmissionComplete => exact ⟨_, rfl, touches_liveAside _ face_completeUp⟩
  | lpRdyAsserted l => exact ⟨_, rfl, touches_live _ (touches_aside (face_checkPort _ l) (touches_aside (face_setDist s _) .refl))⟩
  | lpRdyWithdrawn l => exact ⟨_, rfl, touches_liveAside _ fun s => face_setDist s _⟩
  | linePortTransmissionComplete l => exact ⟨_, rfl, touches_liveAside _ fun s => face_completeDown s l⟩
  | searchMarkerFound l n => exact ⟨_, rfl, touches_live _ (touches_takeMarker l n .refl)⟩
  | searchTimeExpiry l => exact ⟨_, rfl, hdue fun _ => touches_setSync l _ .refl⟩
  | reportPositionEnd l word => exact ⟨_, rfl, touches_live _ (touches_takeReport l word .refl)⟩
  | losTriggerTimerExpiry l => exact ⟨_, rfl, hdue fun _ => touches_takeLosTimer l .refl⟩
  | holdExpiry => exact ⟨_, rfl, hdue fun _ => touches_takeHoldExpiry .refl⟩
  | turnLapse => exact ⟨_, rfl, hdue fun _ => touches_takeLapse .refl⟩
  | confirmWindowEnd b => exact ⟨_, rfl, hdue fun h => touches_takeConfirm b h .refl⟩
  | relayReleaseTimeEnd => exact ⟨_, rfl, hdue fun _ => touches_takeReleaseEnd id .refl⟩
  | ownHoldLimit => exact ⟨_, rfl, hdue fun _ => touches_takeOwnLimit .refl⟩
  | occupancyLoss => exact ⟨_, rfl, touches_live _ (touches_takeOccupancyLoss .refl)⟩
  | operateTimeEnd => exact ⟨_, rfl, hdue fun _ => touches_takeOperateEnd .refl⟩
  | settleTimeEnd => exact ⟨_, rfl, hdue fun _ => touches_takeSettleEnd .refl⟩
  | dischargeTimeEnd => exact ⟨_, rfl, hdue fun _ => touches_takeDischargeEnd .refl⟩
  | endingDischargeEnd => exact ⟨_, rfl, hdue fun _ => touches_takeEndingEnd .refl⟩
  | holdoffExpiry l => exact ⟨_, rfl, hdue fun _ => touches_seq _ .refl⟩
  | sampleTaken v i => exact ⟨_, rfl, touches_live _ (touches_samplePair _ _ .refl)⟩
  | sampleFrameFault => exact ⟨_, rfl, touches_live _ (touches_meas _ .refl)⟩
  | readLine => exact ⟨_, rfl, R _⟩
  | readStation => exact ⟨_, rfl, R _⟩
  | readPeers => exact ⟨_, rfl, R _⟩
  | readResults => exact ⟨_, rfl, R _⟩
  | barLine => exact ⟨_, rfl, R _⟩
  | unbarLine => exact ⟨_, rfl, R _⟩
  | setTag => exact ⟨_, rfl, R _⟩
  | clearTag => exact ⟨_, rfl, R _⟩
  | loadStep => exact ⟨_, rfl, R _⟩
  | loadStepEmpty => exact ⟨_, rfl, R _⟩
  | submitRun => exact ⟨_, rfl, R _⟩
  | cancelRun => exact ⟨_, rfl, R _⟩
  | clearFault => exact ⟨_, rfl, R _⟩
  | clearFaultLatch => exact ⟨_, rfl, R _⟩
  | realign => exact ⟨_, rfl, R _⟩
  | restart => exact ⟨_, rfl, R _⟩
  | unknown => exact ⟨_, rfl, R _⟩
  | restartWaitTimeout => exact ⟨_, rfl, hdue fun _ => touches_aside (face_setMgmt s _) .refl⟩
  | startBitRead => exact ⟨_, rfl, touches_liveAside _ face_takeStartBit⟩
  | upstreamByteArrival l => exact ⟨_, rfl, touches_liveAside _ fun s => face_offerByte s l⟩

/-! ### What every step keeps -/

/-- What holds through each way in which a step can change the state holds through every step: the pending commands, the
clocks, a tick, a command of a running part, and the four commands that start, hold or open the part. -/
structure StepKeeps (P : State → Prop) : Prop where
  pending : ∀ s q, P s → P { s with pending := q }
  clocks : ∀ s, P s → P (tickClocks s)
  tick : ∀ s, P s → P (tickRunning s)
  live : ∀ c, isLive c = true → ∀ s t, P s → exec c s = .next t → P t
  powerUp : ∀ s, P s → P (powerUp s)
  cutOff : ∀ s, P s → P (cutOff s)
  restart : ∀ s, P s → P (restartNow s)
  opens : ∀ straps b s, P s → P (settle (startReports (deliver straps b s)))

namespace StepKeeps
variable {P : State → Prop} (h : StepKeeps P) {s t : State}
include h

theorem idle (hs : P s) : P (idleStep s) := by
  unfold idleStep; split
  · exact hs
  · exact h.clocks s hs
  · split
    · exact h.pending s _ hs
    · exact h.tick s hs

theorem exec (c : Instr) (hs : P s) (he : exec c s = .next t) : P t := by
  by_cases hc : isLive c = true
  · exact h.live c hc s t hs he
  · cases c with
    | powerOn => cases he; exact h.powerUp s hs
    | pwrgoodFall => cases he; exact h.cutOff s hs
    | restartStart =>
      cases he
      unfold beginRestart; split
      · exact hs
      · split
        · exact h.restart s hs
        · exact hs
    | configurationReadEnd straps image =>
      cases he
      unfold endRead; split
      · exact h.opens straps _ s hs
      · exact hs
    | _ => exact absurd rfl hc

theorem step (hs : P s) (ht : step s = .next t) : P t := by
  unfold Machine.step at ht; split at ht
  · cases ht; exact h.idle hs
  · exact h.exec _ (h.pending s _ hs) ht

end StepKeeps

/-! ### The start of a part -/

theorem startReports_undisturbed (s : State) : Undisturbed s (startReports s) ∧ (startReports s).lines = s.lines ∧
    (startReports s).sched = s.sched ∧ (startReports s).store.up = s.store.up := by
  have hstarted := queueReport_frame (.started s.start s.station s.loader.defaulted.isSome s.loader.clamped) s
  unfold startReports; dsimp only; split
  · next cause _ =>
    have hdefaulted := queueReport_frame (.configDefaulted cause)
      (queueReport (.started s.start s.station s.loader.defaulted.isSome s.loader.clamped) s)
    exact ⟨hstarted.1.trans hdefaulted.1, hdefaulted.2.1.trans hstarted.2.1, hdefaulted.2.2.1.trans hstarted.2.2.1,
      hdefaulted.2.2.2.trans hstarted.2.2.2⟩
  · exact hstarted

/-- The start reports and the first search leave what the start has given as it is. -/
theorem opened_undisturbed (straps : BitVec 3) (b : List Byte) (s : State) :
    Undisturbed (deliver straps b s) (settle (startReports (deliver straps b s))) :=
  (startReports_undisturbed _).1.trans (undisturbed_settle _)

theorem deliver_sup (straps : BitVec 3) (b : List Byte) (s : State) : (deliver straps b s).sup = s.sup := rfl

theorem deliver_line (straps : BitVec 3) (b : List Byte) (s : State) (l : Line) :
    lineOf (deliver straps b s) l = startLine (look (takeImage b).equipped l) (look (takeImage b).profiles l)
      (lineOf s l).barred (lineOf s l).hazard := look_tabulate ..

theorem powerUp_line (s : State) (l : Line) : lineOf (powerUp s) l = startLine true builtInProfile false false :=
  look_filled ..

theorem restartNow_line (s : State) (l : Line) : lineOf (restartNow s) l = restartLine (lineOf s l) := look_tabulate ..

/-! ### Derived service states (R7) -/

theorem deriveService_congr {x y : LineRec} (he : y.equipped = x.equipped) (hb : y.barred = x.barred)
    (hs : y.sync = x.sync) (ht : y.test = .connected ↔ x.test = .connected) : deriveService y = deriveService x := by
  simp only [deriveService_eq, he, hb, hs, ht]

theorem serviceDerived_of {s t : State} (h : ∀ l, (lineOf t l).service = (lineOf s l).service ∧
    deriveService (lineOf t l) = deriveService (lineOf s l)) (hs : ServiceDerived s) : ServiceDerived t := fun l =>
  (h l).1.trans ((hs l).trans (h l).2.symm)

theorem serviceDerived_of_lines {s t : State} (h : t.lines = s.lines) (hs : ServiceDerived s) : ServiceDerived t :=
  serviceDerived_of (fun l => by unfold lineOf; rw [h]; exact ⟨rfl, rfl⟩) hs

theorem Undisturbed.inputsStand {s t : State} (h : Undisturbed s t) (l : Line) :
    InputsStand (lineOf s l) (lineOf t l) := by
  have hline := h.lines l
  simp only [LineRec.mk.injEq] at hline
  obtain ⟨hequipped, hprofile, hbarred, hhazard, hsync, htest, hservice, -⟩ := hline
  exact ⟨hequipped, hprofile, hbarred, hhazard, hsync, htest, hservice⟩

theorem serviceDerived_of_undisturbed {s t : State} (h : Undisturbed s t) (hs : ServiceDerived s) : ServiceDerived t :=
  serviceDerived_of (fun l =>
    have hkept := h.inputsStand l
    ⟨hkept.service, deriveService_congr hkept.equipped hkept.barred hkept.sync (by rw [hkept.test])⟩) hs

theorem takeRiseCheck_lines (s : State) : (takeRiseCheck s).lines = s.lines := by
  unfold takeRiseCheck; split
  · rfl
  · unfold changeAllowance; split <;> rfl

theorem Change.keeps_serviceDerived {sc : Scope} {s t : State} (h : Change sc s t) (hs : ServiceDerived s) :
    ServiceDerived t := by
  cases h with
  | lines F hF =>
    refine serviceDerived_of (fun l => ?_) hs
    rw [lineOf_setAllLines]
    have hkept := hF l (lineOf s l)
    exact ⟨hkept.service, deriveService_congr hkept.equipped hkept.barred hkept.sync hkept.test⟩
  | input l f _ _ =>
    intro k
    rw [lineOf_setLine]; split
    · rfl
    · exact hs k
  | recompute => exact serviceDerived_of_lines (recompute_frame s).2.2.2.2.1 hs
  | riseCheck => exact serviceDerived_of_lines (takeRiseCheck_lines s) hs
  | _ => exact hs

theorem tickRunning_lines (s : State) : (tickRunning s).lines = s.lines := by rw [tickRunning_eq, tickClocks_eq]

theorem serviceDerived_powerUp (s : State) : ServiceDerived (powerUp s) := fun l => by rw [powerUp_line]; rfl

theorem stepKeeps_serviceDerived : StepKeeps ServiceDerived where
  pending _ _ hs := hs
  clocks s hs := by rw [tickClocks_eq]; exact hs
  tick s hs := serviceDerived_of_lines (tickRunning_lines s) hs
  live c hc s t hs he := by
    obtain ⟨u, hu, hleads⟩ := exec_leads c hc s
    rw [he] at hu; cases hu
    exact hleads.keeps (fun _ _ c => c.keeps_serviceDerived) hs
  powerUp s _ := serviceDerived_powerUp s
  cutOff _ hs := hs
  restart s _ l := by rw [restartNow_line]; rfl
  opens straps b s _ := serviceDerived_of_undisturbed (opened_undisturbed straps b s) fun l => by
    rw [deliver_line]; rfl

/-! ### Aligners (R107, R116, R118) -/

theorem soundAligner_start : SoundAligner startSupervision := soundAligner_search rfl rfl

theorem soundAligner_sampleBit {x : Supervision} (h : SoundAligner x) : SoundAligner (sampleBit x) := by
  rw [sampleBit_eq]; split
  · exact h
  · split <;> exact h.congr rfl rfl rfl

theorem alignersSound_start {s : State} (h : s.sup = filled 12 startSupervision) : AlignersSound s := fun l => by
  have hline : supOf s l = startSupervision := by unfold supOf; rw [h]; exact look_filled ..
  rw [hline]; exact soundAligner_start

theorem stepKeeps_alignersSound : StepKeeps AlignersSound where
  pending _ _ hs := hs
  clocks s hs := by rw [tickClocks_eq]; exact hs
  tick s hs l := by
    have hline : supOf (tickRunning s) l = supOf (tickAligners s) l := by rw [tickRunning_eq]; rfl
    rw [hline, supOf_tickAligners]; split
    · exact soundAligner_sampleBit (hs l)
    · exact hs l
  live c hc s t hs he := by
    obtain ⟨u, hu, htouches⟩ := exec_touches c hc s
    rw [he] at hu; cases hu
    exact htouches.keeps_alignersSound hs
  powerUp _ _ := alignersSound_start rfl
  cutOff _ hs := hs
  restart _ _ := alignersSound_start rfl
  opens straps b s hs := alignersSound_of_sup
    ((opened_undisturbed straps b s).sup.trans (deliver_sup straps b s)) hs

/-! ### The relay (R133) -/

/-- After a start no line is CONNECTED, no relay is closed and no Connect waits. -/
theorem wired_start {s : State} {own : StationNo} (hc : s.claims = startClaims own)
    (ht : ∀ l, (lineOf s l).test = .none) : Wired s := by
  refine ⟨fun l => ?_, ?_⟩
  · rw [ht l, hc]; simp [startClaims]
  · rw [hc]; simp [RelayHeld, startClaims]

theorem relaySound_powerUp (s : State) : RelaySound (powerUp s) := fun _ =>
  wired_start rfl fun l => by rw [powerUp_line]; rfl

theorem stepKeeps_relaySound : StepKeeps RelaySound where
  pending _ _ hs := hs
  clocks s hs := by rw [tickClocks_eq]; exact hs
  tick s hs hp := by
    rw [tickRunning_eq, tickClocks_eq] at hp ⊢
    exact hs hp
  live c hc s t hs he := by
    obtain ⟨u, hu, hleads⟩ := exec_leads c hc s
    obtain ⟨v, hv, htouches⟩ := exec_touches c hc s
    rw [he] at hu hv; cases hu; cases hv
    intro hp
    have hwired : Wired s := hs (by rw [← hleads.other.2.1]; exact hp)
    exact htouches.keeps_wired hwired.2 hwired
  powerUp s _ := relaySound_powerUp s
  cutOff _ _ hp := absurd rfl hp
  restart s _ _ := wired_start rfl fun l => by rw [restartNow_line]; rfl
  opens straps b s _ _ := wired_of_face (s := deliver straps b s)
    (by rw [face_of_undisturbed (opened_undisturbed straps b s)])
    (by rw [face_of_undisturbed (opened_undisturbed straps b s)])
    (wired_start rfl fun l => by rw [deliver_line]; rfl)

/-- Settles O17: the service law through the chains of elementary changes, the laws of the aligners and of the relay
through the chains of touches. -/
theorem everyStepKeepsServiceStatesDerived : Obligations.EveryStepKeepsServiceStatesDerived :=
  ⟨fun _ _ => stepKeeps_serviceDerived.step, fun _ _ => stepKeeps_relaySound.step,
    fun _ _ => stepKeeps_alignersSound.step⟩

end Sys2Proof.Machine

/-! Who changes what: an elementary change leaves alone what its scope does not name. -/

namespace Sys2Proof.Machine

section
variable {sc : Scope} {s t : State}

theorem takeRiseCheck_frame (s : State) : (takeRiseCheck s).dist = s.dist ∧ (takeRiseCheck s).seq = s.seq ∧
    (takeRiseCheck s).meas = s.meas ∧ (takeRiseCheck s).mgmt = s.mgmt ∧ (takeRiseCheck s).claims = s.claims := by
  unfold takeRiseCheck changeAllowance; split
  · exact ⟨rfl, rfl, rfl, rfl, rfl⟩
  · split <;> exact ⟨rfl, rfl, rfl, rfl, rfl⟩

theorem recompute_rest (s : State) : (recompute s).dist = s.dist ∧ (recompute s).seq = s.seq ∧
    (recompute s).meas = s.meas ∧ (recompute s).mgmt = s.mgmt ∧ (recompute s).claims = s.claims := by
  obtain ⟨-, -, -, -, -, -, -, hdist, -, hclaims, hseq, hmeas, hmgmt, -⟩ := recompute_frame s
  exact ⟨hdist, hseq, hmeas, hmgmt, hclaims⟩

theorem lineOf_recompute (s : State) (l : Line) : lineOf (recompute s) l = lineOf s l :=
  congrArg (fun t => look t l) (recompute_frame s).2.2.2.2.1

theorem lineOf_takeRiseCheck (s : State) (l : Line) : lineOf (takeRiseCheck s) l = lineOf s l :=
  congrArg (fun t => look t l) (takeRiseCheck_lines s)

theorem Leads.same {α : Type} (p : State → α) (hp : ∀ s t, Change sc s t → p t = p s) (h : Leads sc s t) : p t = p s :=
  h.keeps (P := fun u => p u = p s) (fun _ _ c ih => (hp _ _ c).trans ih) rfl

/-- The equipped bit and the profile of a line stand through every change (R2, R169). -/
theorem Change.keeps_provision (l : Line) (h : Change sc s t) :
    ((lineOf t l).equipped, (lineOf t l).profile) = ((lineOf s l).equipped, (lineOf s l).profile) := by
  cases h with
  | lines F hF => rw [lineOf_setAllLines, (hF l _).equipped, (hF l _).profile]
  | input k f hf _ =>
    rw [lineOf_setLine]; split
    · next hk => exact Prod.ext (hk ▸ (hf _).1) (hk ▸ (hf _).2)
    · rfl
  | recompute => rw [lineOf_recompute]
  | riseCheck => rw [lineOf_takeRiseCheck]
  | _ => rfl

theorem Change.keeps_barred (l : Line) (hsc : sc.barred = false) (h : Change sc s t) :
    (lineOf t l).barred = (lineOf s l).barred := by
  cases h with
  | lines F hF => rw [lineOf_setAllLines, (hF l _).barred]
  | input k f _ hb =>
    have hkept := hb.resolve_left (by rw [hsc]; decide)
    rw [lineOf_setLine]; split
    · next hk => exact hk ▸ hkept _
    · rfl
  | recompute => rw [lineOf_recompute]
  | riseCheck => rw [lineOf_takeRiseCheck]
  | _ => rfl

theorem Change.keeps_map (hsc : sc.map = false) (h : Change sc s t) : t.dist.map = s.dist.map := by
  cases h with
  | dist f _ hf => exact hf
  | map x e _ hs _ => rw [hsc] at hs; cases hs
  | recompute => rw [(recompute_rest s).1]
  | riseCheck => rw [(takeRiseCheck_frame s).1]
  | _ => rfl

theorem Change.keeps_steps (hsc : sc.steps = false) (h : Change sc s t) : t.seq.steps = s.seq.steps := by
  cases h with
  | seq f _ _ hs => exact hs.resolve_left (by rw [hsc]; decide)
  | recompute => rw [(recompute_rest s).2.1]
  | riseCheck => rw [(takeRiseCheck_frame s).2.1]
  | _ => rfl

theorem Change.keeps_results (hsc : sc.results = false) (h : Change sc s t) : t.meas.results = s.meas.results := by
  cases h with
  | meas f hf _ => exact hf _
  | result _ _ _ hs => rw [hsc] at hs; cases hs
  | recompute => rw [(recompute_rest s).2.2.1]
  | riseCheck => rw [(takeRiseCheck_frame s).2.2.1]
  | _ => rfl

theorem Change.keeps_wait (hsc : sc.wait = false) (h : Change sc s t) : t.mgmt.wait = s.mgmt.wait := by
  cases h with
  | mgmt f _ _ hw => exact hw.resolve_left (by rw [hsc]; decide)
  | recompute => rw [(recompute_rest s).2.2.2.1]
  | riseCheck => rw [(takeRiseCheck_frame s).2.2.2.1]
  | _ => rfl

/-- The holder, its queue and its expiry, of the holder view (R123). -/
def heldView (s : State) : Option StationNo × List Claimant × Option Nat :=
  (s.claims.holder, s.claims.queue, s.claims.expiry)

theorem Change.keeps_heldView (hsc : sc.view = false) (h : Change sc s t) : heldView t = heldView s := by
  cases h with
  | claims f hf _ => simp only [heldView, setClaims_claims, (hf _).holder, (hf _).queue, (hf _).expiry]
  | view _ _ hs => rw [hsc] at hs; cases hs
  | recompute => rw [heldView, heldView, (recompute_rest s).2.2.2.2]
  | riseCheck => rw [heldView, heldView, (takeRiseCheck_frame s).2.2.2.2]
  | _ => rfl

end

/-! ### The scopes of the commands -/

section
variable {d : Instr}

theorem scopeOf_map (hset : ∀ n x g l k, d ≠ .setTag n x g l k) (hclear : ∀ n x, d ≠ .clearTag n x) :
    (scopeOf d).map = false := by
  cases d with
  | setTag n x g l k => exact absurd rfl (hset n x g l k)
  | clearTag n x => exact absurd rfl (hclear n x)
  | _ => rfl

theorem scopeOf_steps (hload : ∀ n k r, d ≠ .loadStep n k r) (hempty : ∀ n k, d ≠ .loadStepEmpty n k) :
    (scopeOf d).steps = false := by
  cases d with
  | loadStep n k r => exact absurd rfl (hload n k r)
  | loadStepEmpty n k => exact absurd rfl (hempty n k)
  | _ => rfl

theorem scopeOf_results (h : ∀ v i, d ≠ .sampleTaken v i) : (scopeOf d).results = false := by
  cases d with
  | sampleTaken v i => exact absurd rfl (h v i)
  | _ => rfl

theorem scopeOf_barred (hbar : ∀ n l, d ≠ .barLine n l) (hunbar : ∀ n l, d ≠ .unbarLine n l) :
    (scopeOf d).barred = false := by
  cases d with
  | barLine n l => exact absurd rfl (hbar n l)
  | unbarLine n l => exact absurd rfl (hunbar n l)
  | _ => rfl

theorem scopeOf_wait (hrestart : ∀ n, d ≠ .restart n) (htimeout : d ≠ .restartWaitTimeout)
    (hcomplete : d ≠ .uplinkTransmissionComplete) : (scopeOf d).wait = false := by
  cases d with
  | restart n => exact absurd rfl (hrestart n)
  | restartWaitTimeout => exact absurd rfl htimeout
  | uplinkTransmissionComplete => exact absurd rfl hcomplete
  | _ => rfl

theorem scopeOf_view (hnotice : ∀ b e, d ≠ .noticeEnd b e) (hcompletion : d ≠ .noticeCompletion)
    (hloss : d ≠ .contentionLoss) (hexpiry : d ≠ .holdExpiry) (hlapse : d ≠ .turnLapse)
    (hrelease : d ≠ .relayReleaseTimeEnd) (hpresence : ∀ k, d ≠ .presenceTimerExpiry k) :
    (scopeOf d).view = false := by
  cases d with
  | noticeEnd b e => exact absurd rfl (hnotice b e)
  | noticeCompletion => exact absurd rfl hcompletion
  | contentionLoss => exact absurd rfl hloss
  | holdExpiry => exact absurd rfl hexpiry
  | turnLapse => exact absurd rfl hlapse
  | relayReleaseTimeEnd => exact absurd rfl hrelease
  | presenceTimerExpiry k => exact absurd rfl (hpresence k)
  | _ => rfl

end

/-- A command of a running part that does not start or hold it: a chain within its scope, the end of a configuration read
that is not expected included. -/
theorem exec_leads_running {c : Instr} {s t : State} (hrun : s.power = .running) (he : exec c s = .next t)
    (hon : c ≠ .powerOn) (hfall : c ≠ .pwrgoodFall) (hrestart : c ≠ .restartStart) :
    Leads (scopeOf (acting s c)) s t := by
  by_cases hc : isLive c = true
  · obtain ⟨u, hu, hleads⟩ := exec_leads c hc s
    rw [he] at hu; cases hu
    exact hleads
  · cases c with
    | powerOn => exact absurd rfl hon
    | pwrgoodFall => exact absurd rfl hfall
    | restartStart => exact absurd rfl hrestart
    | configurationReadEnd straps image =>
      have hstays : endRead straps image.toList s = s := by simp [endRead, hrun]
      have ht : t = s := (Host.Outcome.next.inj he).symm.trans hstays
      rw [ht]
    | _ => exact absurd rfl hc

/-- Settles O21: a command's scope names what the chain of its elementary changes may touch. -/
theorem onlyTheNamedCommandsChangeEachPart : Obligations.OnlyTheNamedCommandsChangeEachPart := by
  intro c s t hrun he hon hfall hrestart
  have hleads := exec_leads_running hrun he hon hfall hrestart
  dsimp only
  generalize acting s c = d at hleads ⊢
  refine ⟨hleads.loader, fun l => ?_, fun hset hclear => ?_, fun hload hempty => ?_, fun hsample => ?_,
    fun hbar hunbar l => ?_, fun hreq htimeout hcomplete => ?_, fun hn hcm hl he hla hr hp => ?_⟩
  · have h := hleads.same (fun u => ((lineOf u l).equipped, (lineOf u l).profile)) fun _ _ c => c.keeps_provision l
    exact Prod.mk.inj h
  · exact hleads.same _ fun _ _ c => c.keeps_map (scopeOf_map hset hclear)
  · exact hleads.same _ fun _ _ c => c.keeps_steps (scopeOf_steps hload hempty)
  · exact hleads.same _ fun _ _ c => c.keeps_results (scopeOf_results hsample)
  · exact hleads.same (fun u => (lineOf u l).barred) fun _ _ c => c.keeps_barred l (scopeOf_barred hbar hunbar)
  · exact hleads.same _ fun _ _ c => c.keeps_wait (scopeOf_wait hreq htimeout hcomplete)
  · have h := hleads.same heldView fun _ _ c => c.keeps_heldView (scopeOf_view hn hcm hl he hla hr hp)
    simpa only [heldView, Prod.mk.injEq] using h

end Sys2Proof.Machine

/-! Upstream frames on a line port (R13, R67 to R69, R174). -/

namespace Sys2Proof.Machine

section
variable {l : Line} {s : State}

theorem inService_iff (v : Service) : inService v = true ↔ v = .up ∨ v = .degraded := by
  cases v <;> simp [inService]

theorem admitsUp_iff : admitsUp s l = true ↔ ((lineOf s l).service = .up ∨ (lineOf s l).service = .degraded) ∧
    upCells s.store l < (lineOf s l).profile.upLimit ∧ 64 ≤ s.store.free.length := by
  simp only [admitsUp, aboveReserve, Bool.and_eq_true, inService_iff, decide_eq_true_eq, and_assoc]
  rfl

/-- A first byte that no reception stands against takes a cell, where the line admits it. -/
theorem admitLine_admits {b : Byte} {c : CellNo} {rest : List CellNo}
    (hrx : ∀ cells count, look s.store.lineRx l ≠ .receiving cells count) (ha : admitsUp s l = true)
    (hfree : s.store.free = c :: rest) : admitLine l b s =
      setLineRx l (.receiving [c] 1) (setStore (fun st => storeFirst c b (claimCells st [c] rest)) s) := by
  unfold admitLine; split
  · next cells count h => exact absurd h (hrx cells count)
  · rw [if_pos ha, hfree]

theorem admitLine_refuses {b : Byte} (hrx : ∀ cells count, look s.store.lineRx l ≠ .receiving cells count)
    (ha : ¬ admitsUp s l = true) : admitLine l b s = countDrop l (setLineRx l .discarding s) := by
  unfold admitLine; split
  · next cells count h => exact absurd h (hrx cells count)
  · rw [if_neg ha]

section
variable {cells : List CellNo} {count : Nat} (hrx : look s.store.lineRx l = .receiving cells count)
include hrx

theorem growLine_grows {bytes : List Byte} {c : CellNo} {rest : List CellNo} (hfree : s.store.free = c :: rest)
    (hroom : count + 256 ≤ 2048) : growLine l bytes s = setLineRx l (.receiving (cells ++ [c]) (count + 256))
      (setStore (fun st => storeMore (cells ++ [c]) count bytes (claimCells st [c] rest)) s) := by
  simp only [growLine, hrx, hfree]
  exact if_pos hroom

theorem dropLineRx_receiving : dropLineRx l s = releaseChain cells (countDrop l (setLineRx l .discarding s)) := by
  simp only [dropLineRx, hrx]
  rfl

theorem growLine_drops {bytes : List Byte} (h : s.store.free = [] ∨ 2048 < count + 256) :
    growLine l bytes s = releaseChain cells (countDrop l (setLineRx l .discarding s)) := by
  rw [← dropLineRx_receiving hrx]
  simp only [growLine, hrx]
  split
  · next c rest hfree =>
    have hlong : ¬ count + 256 ≤ 2048 := by
      rcases h with h | h
      · rw [h] at hfree; cases hfree
      · omega
    exact if_neg hlong
  · rfl

theorem endLine_queues {rest : List Byte} (hn : 64 ≤ count + rest.length) : endLine l rest s =
    setLineRx l .idle (setStore (fun st => { storeMore cells count rest st with
      up := alter st.up l fun q => q ++ [⟨cells, count + rest.length, s.time, .normal, false⟩] }) s) := by
  simp only [endLine, hrx]
  exact if_neg (Nat.not_lt.mpr hn)

theorem endLine_short {rest : List Byte} (hn : count + rest.length < 64) :
    endLine l rest s = releaseChain cells (countDrop l (setLineRx l .idle s)) := by
  simp only [endLine, hrx]
  exact if_pos hn

theorem abortLine_receiving : abortLine l s = releaseChain cells (countDrop l (setLineRx l .idle s)) := by
  simp only [abortLine, hrx]

end

/-- Where a line port's reception ends, the management reception on the uplink is not meant. -/
theorem takeFrameEnd_line (rest : List Byte) (s : State) : takeFrameEnd (.line l) rest s = endLine l (rest.take 255) s := by
  unfold takeFrameEnd; split
  · next h _ => cases h
  · rfl

/-- A command of a running part: its effect, then the searches. -/
theorem exec_live {f : State → State} (hrun : s.power = .running) {t : State} (h : f s = t) :
    (Host.Outcome.next (live f s) : Host.Outcome State Fault Refusal) = .next (settle t) := by
  rw [live_running hrun, h]

end

/-- Settles O38: each clause is the equation of `admitLine`, `growLine` or `endLine` for its case. -/
theorem upstreamFrameIsAdmittedGrownAndQueued : Obligations.UpstreamFrameIsAdmittedGrownAndQueued := by
  intro l s hrun
  refine ⟨fun b hrx => ⟨fun c rest ha hfree => ?_, fun ha => ?_⟩,
    fun bytes cells count hrx => ⟨fun c rest hfree hroom => ?_, fun h => ?_⟩,
    fun rest cells count hrx hlen => ⟨fun hn => ?_, fun hn => ?_⟩⟩
  · exact exec_live hrun (admitLine_admits hrx (admitsUp_iff.mpr ha) hfree)
  · exact exec_live hrun (admitLine_refuses hrx (mt admitsUp_iff.mp ha))
  · exact exec_live hrun (growLine_grows hrx hfree hroom)
  · exact exec_live hrun (growLine_drops hrx h)
  all_goals
    have hend : takeFrameEnd (.line l) rest s = endLine l rest s := by
      rw [takeFrameEnd_line, List.take_of_length_le hlen]
  · exact exec_live hrun (hend.trans (endLine_queues hrx hn))
  · exact exec_live hrun (hend.trans (endLine_short hrx hn))

section
variable {s : State}

theorem abortUplink_data {l : Line} {cls : FrameClass} {length : Nat} {cells : List CellNo} {count : Nat}
    (h : s.store.uplinkRx = .data l cls length cells count) :
    abortUplink s = releaseChain cells (countDrop l (setUplinkRx .idle s)) := by
  simp only [abortUplink, h, dropDownstream]

theorem abortUplink_flood {targets : List Line} {length : Nat} {cells : List CellNo} {count : Nat}
    (h : s.store.uplinkRx = .flood targets length cells count) :
    abortUplink s = releaseChain cells (countFlood (setUplinkRx .idle s)) := by
  simp only [abortUplink, h, dropDownstream]

theorem abortUplink_request {length : Nat} {kept : List Byte} {received : Nat}
    (h : s.store.uplinkRx = .request length kept received) : abortUplink s = countMalformed (setUplinkRx .idle s) := by
  simp only [abortUplink, h]

theorem abortLine_discarding {l : Line} (h : look s.store.lineRx l = .discarding) :
    abortLine l s = setLineRx l .idle s := by
  simp only [abortLine, h]

end

/-- Settles O41: each clause is the equation of `abortLine` or `abortUplink` for its case. -/
theorem abortedFramesAreDroppedAndBytesOffered : Obligations.AbortedFramesAreDroppedAndBytesOffered := by
  intro s hrun
  refine ⟨fun l cells count hrx => ?_, fun l hrx => ?_, fun l cls length cells count hrx => ?_,
    fun targets length cells count hrx => ?_, fun length kept received hrx => ?_, fun l => ?_⟩
  · exact exec_live hrun (abortLine_receiving hrx)
  · exact exec_live hrun (abortLine_discarding hrx)
  · exact exec_live hrun (abortUplink_data hrx)
  · exact exec_live hrun (abortUplink_flood hrx)
  · exact exec_live hrun (abortUplink_request hrx)
  · exact exec_live hrun (f := offerByte l) rfl

end Sys2Proof.Machine

/-! CLEAR FAULT, REALIGN, and the end of a position in SEARCH (R6, R111, R112, R151). -/

namespace Sys2Proof.Machine

/-! ### Tables -/

theorem alter_alter {α : Type} {n : Nat} (t : Table α n) (i : Fin n) (f g : α → α) :
    alter (alter t i f) i g = alter t i (g ∘ f) := by
  refine table_ext fun j => ?_
  by_cases h : i = j
  · subst h; simp
  · simp only [look_alter_ne _ _ _ _ h]

theorem alter_same {α : Type} {n : Nat} {t : Table α n} {i : Fin n} {f : α → α} (h : f (look t i) = look t i) :
    alter t i f = t := by
  refine table_ext fun j => ?_
  rw [look_alter]; split
  · next hj => rw [h, hj]
  · rfl

section
variable {l : Line} {s : State}

theorem setSup_setSup (f g : Supervision → Supervision) : setSup l g (setSup l f s) = setSup l (g ∘ f) s := by
  simp only [setSup, alter_alter]

theorem setSup_same {f : Supervision → Supervision} (h : f (supOf s l) = supOf s l) : setSup l f s = s := by
  unfold supOf at h
  simp only [setSup, alter_same h]

/-! ### CLEAR FAULT -/

/-- No run is activated while one is active (R146). -/
theorem activate_active (h : s.seq.active ≠ none) : activate s = s := by
  unfold activate
  cases s.seq.queue.length with
  | zero => rfl
  | succ n => exact if_pos (by simp [Option.isSome_iff_ne_none.mpr h])

theorem refreshTests_hazard (s : State) (l : Line) : (lineOf (refreshTests s) l).hazard = (lineOf s l).hazard := by
  rw [refreshTests, lineOf_setAllLines]; split <;> rfl

/-- The line's hazard flag cleared and its fault slot emptied (R151). -/
def faultCleared (l : Line) (s : State) : State := discardFault l (setHazard l false s)

theorem clearFaultLine_unset (num : Byte) (h : (lineOf s l).hazard = false) :
    clearFaultLine num l s = respond 12 num .refusedState [] false s := by
  rw [clearFaultLine, h]; rfl

theorem clearFaultLine_set (num : Byte) (h : (lineOf s l).hazard = true) :
    clearFaultLine num l s = clearLineFault num l s := if_pos h

/-- An empty fault slot, or one with a TRIGGERED record (R151). -/
theorem clearLineFault_discards (num : Byte) (h : ∀ r ∈ look s.seq.faults l, r.origin = .triggered) :
    clearLineFault num l s = respond 12 num .done [] false (faultCleared l s) := by
  unfold clearLineFault; dsimp only; split
  · next r hr =>
    rw [h r hr, if_neg (by decide)]
    rfl
  · rfl

section
variable {r : Run} (hr : look s.seq.faults l = some r) (ho : r.origin = .operator)
include hr ho

theorem clearLineFault_full (num : Byte) (hq : 16 ≤ s.seq.queue.length) :
    clearLineFault num l s = respond 12 num .refusedState [] false s := by
  simp only [clearLineFault, hr, ho, if_true]
  exact if_pos hq

theorem clearLineFault_requeues (num : Byte) (hq : s.seq.queue.length < 16) (ha : s.seq.active ≠ none) :
    clearLineFault num l s = respond 12 num .done [] false (enterTail (requeued r) (faultCleared l s)) := by
  have hactive : (enterTail (requeued r) (faultCleared l s)).seq.active ≠ none := ha
  rw [← activate_active hactive]
  simp only [clearLineFault, hr, ho, if_true]
  exact if_neg (Nat.not_le.mpr hq)

end

theorem enterTail_hazard (r : Run) : (lineOf (enterTail r (faultCleared l s)) l).hazard = false := by
  rw [enterTail, refreshTests_hazard]
  have hset : lineOf (setSeq (fun q => { q with queue := q.queue ++ [r] }) (faultCleared l s)) l =
      lineOf (setLine l (fun r => { r with hazard := false }) s) l := rfl
  rw [hset, lineOf_setLine, if_pos rfl]

/-! ### REALIGN -/

theorem realignLine_suspended (num : Byte) (h : (supOf s l).suspended = true) :
    realignLine num l s = respond 13 num .refusedState [] false s := if_pos h

theorem realignLine_searching (num : Byte) (hs : (supOf s l).suspended = false) (ha : (supOf s l).aligned = false) :
    realignLine num l s = respond 13 num .done [0] false (setSup l restartSearch s) := by
  have hbyte : alignerByte (supOf (setSup l restartSearch s) l) = 0 := by
    rw [supOf_setSup_same]; simp [alignerByte, restartSearch, ha]
  simp only [realignLine, hs, ha, Bool.false_eq_true, if_false, hbyte]
  rfl

theorem alignerLoss_cut : setSup l cutPosition (alignerLoss l s) = setSup l (cutPosition ∘ fun x =>
      enterSearch (emptyRuns { x with second := none, window := ⟨0, 0⟩ }))
    (setLine l (fun r => { r with es := tally r.es, ses := tally r.ses }) s) := setSup_setSup _ _

theorem realignLine_aligned (num : Byte) (hs : (supOf s l).suspended = false) (ha : (supOf s l).aligned = true) :
    realignLine num l s = respond 13 num .done [0] false (setSup l cutPosition (alignerLoss l s)) := by
  have hbyte : alignerByte (supOf (setSup l cutPosition (alignerLoss l s)) l) = 0 := by
    rw [alignerLoss_cut, supOf_setSup_same]; rfl
  simp only [realignLine, hs, ha, Bool.false_eq_true, if_false, if_true, hbyte]
  rfl

/-! ### The end of a position in SEARCH -/

theorem takeReport_dropped (word : BitVec 48)
    (h : (supOf s l).suspended = true ∨ ((supOf s l).aligned = false ∧ (supOf s l).cutEnd = none)) :
    takeReport l word s = s := by
  rcases h with hs | ⟨ha, hcut⟩
  · simp [takeReport, alignedNow, searching, hs]
  · have hstays : setSup l (searchCut word) s = s := setSup_same (by simp only [searchCut, hcut])
    simp [takeReport, alignedNow, ha, hstays]

theorem takeReport_searches (word : BitVec 48) (hs : (supOf s l).suspended = false)
    (ha : (supOf s l).aligned = false) : takeReport l word s = setSup l (searchCut word) s := by
  simp [takeReport, alignedNow, searching, hs, ha]

theorem markersIn_zero (word : BitVec 48) (e : Nat) : markersIn 0 word e =
    ((List.range 41).filter fun o => decide (word.extractLsb' (40 - o) 8 = 0xB2#8)).map fun o => e - 48 + o := by
  unfold markersIn
  congr 1

theorem searchCut_some {x : Supervision} {e : Nat} (word : BitVec 48) (h : x.cutEnd = some e) : searchCut word x =
    { x with
      bitIndex := max x.bitIndex e, searchTime := min 20 ((max x.bitIndex e - x.searchFrom) / 48), cutEnd := none
      candidates := x.candidates ++ (markersIn 0 word e).filter fun b => decide (b ∉ x.candidates) } := by
  simp only [searchCut, h]
  rfl

end

/-- A request that a running part takes: its effect, then the searches. -/
theorem exec_request {c : Instr} {s t : State} (h : TakesRequests s) (ht : requestEffect c s = t) :
    (Host.Outcome.next (live (takeRequest c) s) : Host.Outcome State Fault Refusal) = .next (settle t) := by
  rw [live_takeRequest h, ht]

/-- Settles O59: each clause is the request's equation for its case, and the end of a position that of `takeReport`. -/
theorem faultsAreClearedAndLinesRealigned : Obligations.FaultsAreClearedAndLinesRealigned := by
  refine ⟨fun num s h => ⟨fun hl => ?_, fun hl => ?_⟩, fun num line s h hline => ⟨?_, ?_⟩,
    fun num line l s h hline => ⟨fun hz => ?_, fun hz => ⟨fun hf => ?_, fun r hr ho => ⟨fun hq => ?_, fun hq ha => ?_⟩⟩⟩,
    fun num line l s h hline => ⟨fun hs => ?_, fun hs ha => ?_, fun hs ha => ?_⟩,
    fun l word s hrun => ⟨fun hd => ?_, fun e hs ha he => ?_⟩⟩
  · exact exec_request h (by simp only [requestEffect, clearLatch, hl]; rfl)
  · exact exec_request h (by simp only [requestEffect, clearLatch, hl, if_true]; rfl)
  · exact exec_request h (onLine_outOfRange hline _ _ _)
  · exact exec_request h (onLine_outOfRange hline _ _ _)
  · exact exec_request h ((onLine_inRange hline _ _ _).trans (clearFaultLine_unset num hz))
  · exact exec_request h ((onLine_inRange hline _ _ _).trans ((clearFaultLine_set num hz).trans (clearLineFault_discards num hf)))
  · exact exec_request h ((onLine_inRange hline _ _ _).trans ((clearFaultLine_set num hz).trans
      (clearLineFault_full hr ho num hq)))
  · exact ⟨enterTail (requeued r) (faultCleared l s), exec_request h ((onLine_inRange hline _ _ _).trans
      ((clearFaultLine_set num hz).trans (clearLineFault_requeues hr ho num hq ha))), rfl, enterTail_hazard _⟩
  · exact exec_request h ((onLine_inRange hline _ _ _).trans (realignLine_suspended num hs))
  · exact exec_request h ((onLine_inRange hline _ _ _).trans (realignLine_searching num hs ha))
  · refine exec_request h ((onLine_inRange hline _ _ _).trans ((realignLine_aligned num hs ha).trans ?_))
    rw [alignerLoss_cut]
    rfl
  · exact exec_live hrun (takeReport_dropped word hd)
  · refine exec_live hrun ((takeReport_searches word hs ha).trans ?_)
    have hcut := searchCut_some word he
    rw [markersIn_zero] at hcut
    have hsup : setSup l (searchCut word) s = { s with sup := put s.sup l (searchCut word (supOf s l)) } := rfl
    rw [hsup, hcut]

end Sys2Proof.Machine

/-! The data of the READ responses (R165, R175). -/

namespace Sys2Proof.Machine

/-! ### Items -/

theorem byteOf_div (n k : Nat) (hk : 8 * k + 8 ≤ 32) :
    byteOf (n / 2 ^ (8 * k)) = (BitVec.ofNat 32 n).extractLsb' (8 * k) 8 := by
  refine BitVec.eq_of_getLsbD_eq fun i hi => ?_
  simp only [byteOf, BitVec.getLsbD_extractLsb', BitVec.getLsbD_ofNat, hi, decide_true, Bool.true_and,
    Nat.testBit_div_two_pow]
  have hin : i + 8 * k < 32 := by omega
  simp only [Nat.add_comm (8 * k) i, hin, decide_true, Bool.true_and]

/-- A four-byte item is sent modulo 2^32. -/
theorem four_eq (n : Nat) : four n = bytes32 (BitVec.ofNat 32 n) := by
  simp only [four, bytes32, ← byteOf_div n 3 (by decide), ← byteOf_div n 2 (by decide), ← byteOf_div n 1 (by decide),
    ← byteOf_div n 0 (by decide)]
  simp

theorem two_eq (n : Nat) : two n = bytes16 (BitVec.ofNat 16 n) := by
  have hhigh : byteOf (n / 256) = (BitVec.ofNat 16 n).extractLsb' 8 8 := by
    apply BitVec.eq_of_toNat_eq
    simp [byteOf, Nat.shiftRight_eq_div_pow]; omega
  have hlow : byteOf n = (BitVec.ofNat 16 n).extractLsb' 0 8 := by
    apply BitVec.eq_of_toNat_eq
    simp [byteOf]
  rw [two, bytes16, hhigh, hlow]

theorem fourSigned_eq (i : Int) : fourSigned i = bytes32 (BitVec.ofInt 32 i) := by
  rw [fourSigned, four_eq, BitVec.ofNat_toNat, BitVec.setWidth_eq]

theorem oneOr_eq (x : Option Nat) : oneOr x = match x with
    | some n => [BitVec.ofNat 8 n]
    | none => List.replicate 1 255 := by cases x <;> rfl

theorem twoOr_eq (x : Option Nat) : twoOr x = match x with
    | some n => bytes16 (BitVec.ofNat 16 n)
    | none => List.replicate 2 255 := by
  cases x with
  | some n => exact two_eq n
  | none => rfl

theorem fourOr_eq (x : Option Nat) : fourOr x = match x with
    | some n => bytes32 (BitVec.ofNat 32 n)
    | none => List.replicate 4 255 := by
  cases x with
  | some n => exact four_eq n
  | none => rfl

theorem timerBytes_eq (x : Option Nat) : timerBytes x = (if x = none then [1] else [0]) ++ fourOr x := by
  cases x <;> rfl

theorem listed_eq {α : Type} (f : α → List Byte) (xs : List α) :
    listed f xs = [BitVec.ofNat 8 xs.length] ++ xs.flatMap f := rfl

theorem listed_map {α : Type} (f : α → List Byte) (xs : List α) :
    listed f xs = [BitVec.ofNat 8 (xs.map f).length] ++ (xs.map f).flatten := by
  rw [List.length_map, ← List.flatMap_def]; rfl

theorem claimBytes_eq (x : Option ClaimTerms) : claimBytes x = match x with
    | some c => [priorityCode c.priority] ++ bytes32 (BitVec.ofNat 32 c.hold)
    | none => List.replicate 5 255 := by
  cases x with
  | some c => rw [claimBytes, four_eq]; rfl
  | none => rfl

theorem resultBytes_eq (r : Result) : resultBytes r = bytes32 (BitVec.ofInt 32 r.value) ++
    [flagByte r.flags.open_, flagByte r.flags.noStep, flagByte r.flags.overRange, flagByte r.flags.unstable,
      flagByte r.flags.hazard, verdictCode r.verdict, wiresCode r.wires, BitVec.ofNat 8 r.slot.val] ++
    bytes32 (BitVec.ofNat 32 r.count) ++ bytes32 (BitVec.ofNat 32 r.time) ++ [BitVec.ofNat 8 r.runId] := by
  simp only [resultBytes, fourSigned_eq, four_eq, resultFlagBytes, List.append_assoc, List.cons_append, List.nil_append]
  rfl

theorem entryBytes_eq (x : Option Result) : entryBytes x = match x with
    | some r => bytes32 (BitVec.ofInt 32 r.value) ++
      [flagByte r.flags.open_, flagByte r.flags.noStep, flagByte r.flags.overRange, flagByte r.flags.unstable,
        flagByte r.flags.hazard, verdictCode r.verdict, wiresCode r.wires, BitVec.ofNat 8 r.slot.val] ++
      bytes32 (BitVec.ofNat 32 r.count) ++ bytes32 (BitVec.ofNat 32 r.time) ++ [BitVec.ofNat 8 r.runId]
    | none => List.replicate 21 255 := by
  cases x with
  | some r => exact resultBytes_eq r
  | none => rfl

theorem lastRunBytes_eq (x : Option LastRun) : lastRunBytes x = match x with
    | some r => [BitVec.ofNat 8 r.runId, originCode r.origin, outcomeCode r.outcome] ++ bytes32 (BitVec.ofNat 32 r.time)
    | none => List.replicate 7 255 := by
  cases x with
  | some r => rw [lastRunBytes, four_eq]; rfl
  | none => rfl

/-- The entries of a line in the map, each sent as bytes (R94). -/
theorem map_entriesOf (f : MapIndex × MapEntry → List Byte) (map : Table (Option MapEntry) 32) (l : Line) :
    (entriesOf map l).map f = (indices 32).filterMap fun i => match look map i with
      | some e => if e.line = l then some (f (i, e)) else none
      | none => none := by
  rw [entriesOf, List.map_filterMap]
  refine List.filterMap_congr fun i _ => ?_
  cases look map i with
  | some e => dsimp only; split <;> rfl
  | none => rfl

theorem measuring_iff (s : State) : measuring s = true ↔ ∃ a, s.seq.active = some a ∧ a.phase = .sampling := by
  unfold measuring
  cases s.seq.active <;> simp

/-- The measurement in progress, in SAMPLING alone (R155). -/
theorem measurementBytes_eq (s : State) [Decidable (∃ a, s.seq.active = some a ∧ a.phase = .sampling)] :
    measurementBytes s = if ∃ a, s.seq.active = some a ∧ a.phase = .sampling then
        bytes32 (BitVec.ofNat 32 s.meas.acc.n) ++ oneOr (s.meas.quantity.map fun q => (quantityCode q).toNat) ++
          oneOr (s.meas.wires.map fun w => (wiresCode w).toNat)
      else List.replicate 6 255 := by
  unfold measurementBytes
  by_cases h : ∃ a, s.seq.active = some a ∧ a.phase = .sampling
  · rw [if_pos (measuring_iff s |>.mpr h), if_pos h, four_eq]
  · rw [if_neg (mt (measuring_iff s).mp h), if_neg h]; rfl

/-! ### Lengths -/

@[simp] theorem fourOr_length (x : Option Nat) : (fourOr x).length = 4 := by cases x <;> rfl
@[simp] theorem entryBytes_length (x : Option Result) : (entryBytes x).length = 21 := by cases x <;> rfl
@[simp] theorem lastRunBytes_length (x : Option LastRun) : (lastRunBytes x).length = 7 := by cases x <;> rfl
@[simp] theorem capacityBytes_length (c : CapacityView) : (capacityBytes c).length = 9 := by simp [capacityBytes]
@[simp] theorem peerBytes_length (p : Peer) : (peerBytes p).length = 30 := by simp [peerBytes, four]

theorem length_flatMap_const {α β : Type} {f : α → List β} {n : Nat} (h : ∀ x, (f x).length = n) (xs : List α) :
    (xs.flatMap f).length = xs.length * n := by
  simp [List.length_flatMap, h]

theorem peersData_length (s : State) : (peersData s).length = 249 := by
  rw [peersData, List.length_append, length_flatMap_const (fun k => peerBytes_length _), capacityBytes_length]
  rfl

theorem resultsData_length (s : State) (l : Line) : (resultsData s l).length = 112 := by
  rw [resultsData, List.length_append, length_flatMap_const (fun q => entryBytes_length _), lastRunBytes_length]
  rfl

/-! ### The data of each response -/

theorem requestEffect_readLine (num line : Byte) (s : State) : requestEffect (.readLine num line) s =
    onLine 1 num line (fun l s => done 1 num (lineData s l) s) s := rfl

theorem requestEffect_readResults (num line : Byte) (s : State) : requestEffect (.readResults num line) s =
    onLine 4 num line (fun l s => done 4 num (resultsData s l) s) s := rfl

/-- Settles O56: each response's data taken apart item by item, and each item brought to its bytes. -/
theorem readRequestsAnswerWithTheirData : Obligations.ReadRequestsAnswerWithTheirData := by
  refine ⟨fun num s h => ⟨?_, ?_, fun line hline => ⟨?_, ?_⟩, fun line l hline => ⟨?_, ?_⟩⟩,
    fun s => ⟨fun l => ?_, ?_, ?_, fun l => ?_, peersData_length s, resultsData_length s⟩, rfl, rfl, rfl, rfl, rfl, rfl⟩
  · exact exec_request h (c := .readStation num) rfl
  · exact exec_request h (c := .readPeers num) rfl
  · exact exec_request h ((requestEffect_readLine num line s).trans (onLine_outOfRange hline _ _ _))
  · exact exec_request h ((requestEffect_readResults num line s).trans (onLine_outOfRange hline _ _ _))
  · exact exec_request h ((requestEffect_readLine num line s).trans (onLine_inRange hline _ _ _))
  · exact exec_request h ((requestEffect_readResults num line s).trans (onLine_inRange hline _ _ _))
  · simp only [lineData, recordBytes, schedulerBytes, lineMapBytes, portBytes, supervisionBytes, holdoffBytes, queueBytes,
      levelBytes, counterBytes, listed_map, map_entriesOf, timerBytes_eq, fourSigned_eq, four_eq,
      fourOr_eq, oneOr_eq, twoOr_eq, two_eq, flagByte, bitByte, busyByte, alignerByte, sinceTime, leftUntil, byteOf,
      List.append_assoc, List.cons_append, List.nil_append] <;> rfl
  · simp only [stationData, stationSchedulerBytes, viewBytes, ownBytes, headBytes, sequencerBytes,
      measurementBytes_eq, furtherBytes,
      startBytes, capacityBytes, usedSlots, levelBytes, counterBytes, listed_eq, claimBytes_eq, fourSigned_eq, four_eq,
      fourOr_eq, oneOr_eq, flagByte, busyByte, leftUntil, Option.map_map, byteOf, ← List.map_eq_flatMap,
      List.append_assoc, List.cons_append, List.nil_append] <;> rfl
  · simp only [peersData, capacityBytes, peerBytes, four_eq, fourOr_eq, flagByte, List.append_assoc, List.cons_append,
      List.nil_append] <;> rfl
  · simp only [resultsData, entryBytes_eq, lastRunBytes_eq, flagByte, List.append_assoc, List.cons_append,
      List.nil_append] <;> rfl

end Sys2Proof.Machine

/-! What is taken from the configuration memory (R169, R170, R177). -/

namespace Sys2Proof.Machine

/-! ### Clamping -/

theorem clamp_ge {low high : Nat} (h : low ≤ high) (n : Nat) : low ≤ clamp low high n := by
  unfold clamp; omega

theorem clamp_le (low high n : Nat) : clamp low high n ≤ high := Nat.min_le_left _ _

theorem clamp_bounds {low high : Nat} (h : low ≤ high) (n : Nat) : low ≤ clamp low high n ∧ clamp low high n ≤ high :=
  ⟨clamp_ge h n, clamp_le low high n⟩

/-- A byte lies within the range of a byte. -/
theorem clamp_byte (b : List Byte) (i : Nat) : clamp 0 255 (fieldAt b i 1) = fieldAt b i 1 := by
  have hone : fieldAt b i 1 = (byteAt b i).toNat := by simp [fieldAt, numberOf]
  have := (byteAt b i).isLt
  rw [hone]; unfold clamp; omega

theorem clampCeiling_bounds (floor ceiling : Nat) (h : floor ≤ 4000000) :
    floor ≤ clampCeiling floor ceiling ∧ clampCeiling floor ceiling ≤ 4000000 :=
  ⟨Nat.le_max_left _ _, Nat.max_le.mpr ⟨h, clamp_le _ _ _⟩⟩

theorem clampDebounce_two_or_four (n : Nat) : clampDebounce n = 2 ∨ clampDebounce n = 4 := by
  unfold clampDebounce; split <;> simp

/-! ### The image -/

section
variable {b : List Byte}

theorem takeImage_valid (h : imageFault b = none) : takeImage b = readImage b := by
  unfold takeImage; rw [h]

theorem takeImage_invalid (h : imageFault b ≠ none) : takeImage b = builtInImage := by
  obtain ⟨c, hc⟩ := Option.ne_none_iff_exists'.mp h
  unfold takeImage; rw [hc]

theorem readImage_profile (l : Line) :
    look (readImage b).profiles l = clampProfile (rawProfile b l.val) := look_tabulate ..

theorem readImage_equipped (l : Line) : look (readImage b).equipped l = (fieldAt b 33 2).testBit l.val := by
  have hl : l.val < 16 := by omega
  rw [readImage, look_tabulate, BitVec.getLsbD_ofNat, decide_eq_true hl, Bool.true_and]

theorem settingsOf_triggerSlot : (settingsOf b).triggerSlot.val = clamp 0 127 (fieldAt b 22 1) :=
  Nat.mod_eq_of_lt (Nat.lt_succ_of_le (clamp_le 0 127 _))

theorem settingsOf_triggerDelay : (settingsOf b).triggerDelay = fieldAt b 21 1 := clamp_byte b 21

theorem readImage_map_length : (readImage b).map.length = clamp 0 32 (fieldAt b 35 1) := by
  rw [readImage, rawMap, List.length_map, List.length_range]

theorem readImage_map_get {k : Nat} (h : k < clamp 0 32 (fieldAt b 35 1)) :
    (readImage b).map[k]? = some (fieldAt b (156 + 3 * k) 2, (byteAt b (158 + 3 * k)).toNat % 16,
      if (byteAt b (158 + 3 * k)).getLsbD 7 then .high else .normal) := by
  simp [readImage, rawMap, List.getElem?_range h]

/-! ### The count of the values changed (R170) -/

theorem changes_append (xs ys : List (Nat × Nat)) : changes (xs ++ ys) = changes xs + changes ys := List.countP_append

theorem changes_perm {xs ys : List (Nat × Nat)} (h : xs.Perm ys) : changes xs = changes ys := h.countP_eq _

/-- A pair of two equal values counts nothing. -/
theorem changes_drop_same (xs : List (Nat × Nat)) (n : Nat) (ys : List (Nat × Nat)) :
    changes (xs ++ (n, n) :: ys) = changes (xs ++ ys) := by
  simp [changes]

/-- The station-wide pairs that can count: every one but the trigger delay, whose range is that of its byte. -/
def countedPairs (b : List Byte) : List (Nat × Nat) :=
  let s := settingsOf b
  [(fieldAt b 2 2, s.mgmtTag), (fieldAt b 4 1, s.periodUnits), (fieldAt b 5 1, s.weight), (fieldAt b 6 1, s.cabinet),
    (fieldAt b 7 1, s.headroom), (fieldAt b 8 4, s.floor), (fieldAt b 12 4, s.ceiling), (fieldAt b 16 2, s.sojourn),
    (fieldAt b 18 1, s.debounce), (fieldAt b 19 1, s.sesThreshold), (fieldAt b 20 1, s.windowThreshold),
    (fieldAt b 22 1, s.triggerSlot.val), (fieldAt b 23 1, s.holdoff), (fieldAt b 24 4, s.dcHazard),
    (fieldAt b 28 4, s.acHazard), (fieldAt b 32 1, s.capPerMetre), (fieldAt b 35 1, clamp 0 32 (fieldAt b 35 1))]

theorem changes_settingPairs : changes (settingPairs b) = changes (countedPairs b) := by
  have hsplit : settingPairs b = (countedPairs b).take 11 ++
      (fieldAt b 21 1, (settingsOf b).triggerDelay) :: (countedPairs b).drop 11 := rfl
  rw [hsplit, settingsOf_triggerDelay, changes_drop_same, List.take_append_drop]

/-- The pairs of a profile in the order of its bytes (R177). -/
def orderedPairs (raw : Profile) : List (Nat × Nat) :=
  let c := clampProfile raw
  [(raw.peak, c.peak), (raw.burst, c.burst), (raw.weight, c.weight), (raw.degraded, c.degraded),
    (raw.upLimit, c.upLimit), (raw.downLimit, c.downLimit)]

theorem profilePairs_perm (raw : Profile) : (profilePairs raw).Perm (orderedPairs raw) := by
  unfold profilePairs orderedPairs
  exact (List.Perm.swap _ _ _).trans ((List.Perm.swap _ _ _).cons _)

theorem indices_flatMap {α : Type} (n : Nat) (f : Nat → List α) :
    (List.range n).flatMap f = (indices n).flatMap fun i => f i.val := by
  have hrange : (indices n).map (·.val) = List.range n := List.map_coe_finRange_eq_range
  rw [← hrange, List.flatMap_map]

theorem readImage_clamped : (readImage b).clamped = min 255 (changes (countedPairs b ++
    (indices 12).flatMap fun l => orderedPairs (rawProfile b l.val))) := by
  have hprofiles : ((List.range 12).flatMap fun n => profilePairs (rawProfile b n)).Perm
      ((indices 12).flatMap fun l => orderedPairs (rawProfile b l.val)) := by
    rw [indices_flatMap]
    exact List.Perm.flatMap_left _ fun l _ => profilePairs_perm _
  rw [readImage, changes_append, changes_append, changes_settingPairs, changes_perm hprofiles]

end

/-- Settles O9: an image is the built-in one or `readImage`, whose values are clamped one by one. -/
theorem imageTakenLiesInItsRanges : Obligations.ImageTakenLiesInItsRanges := by
  intro b
  dsimp only
  refine ⟨fun h => ?_, fun h hsum => ?_, fun h hsum => ?_, fun hfault => ?_, fun hvalid => ?_, ?_⟩
  · exact if_pos h
  · unfold imageFault; rw [if_neg (not_not.mpr h), if_pos hsum]
  · unfold imageFault; rw [if_neg (not_not.mpr h), if_neg (not_not.mpr hsum)]
  · rw [takeImage_invalid hfault]
    exact ⟨rfl, fun l => ⟨look_filled .., look_filled ..⟩, rfl, rfl⟩
  · have hcount : clamp 0 32 (fieldAt b 35 1) = min 32 (fieldAt b 35 1) := by unfold clamp; rw [Nat.zero_max]
    simp only [takeImage_valid hvalid, readImage_profile, ← hcount]
    refine ⟨rfl, rfl, rfl, rfl, rfl, rfl, rfl, rfl, rfl, rfl, rfl, rfl, rfl, rfl, settingsOf_triggerDelay,
      settingsOf_triggerSlot, rfl, rfl, rfl, rfl, fun l => ⟨readImage_equipped l, rfl, rfl, rfl, rfl, rfl, rfl⟩,
      readImage_map_length,
      fun k hk => readImage_map_get hk, readImage_clamped⟩
  · cases hfault : imageFault b with
    | none =>
      have hfloor := clamp_bounds (show 1024 ≤ 4000000 by decide) (fieldAt b 8 4)
      have hceiling := clampCeiling_bounds _ (fieldAt b 12 4) hfloor.2
      simp only [takeImage_valid hfault, readImage_profile, readImage_map_length]
      exact ⟨clamp_bounds (by decide) _, clamp_bounds (by decide) _, clamp_bounds (by decide) _,
        clamp_bounds (by decide) _, clamp_le _ _ _, ⟨hfloor.1, hceiling.1, hceiling.2⟩, clamp_bounds (by decide) _,
        clampDebounce_two_or_four _, clamp_bounds (by decide) _, clamp_bounds (by decide) _, clamp_le _ _ _,
        clamp_bounds (by decide) _, clamp_bounds (by decide) _, clamp_bounds (by decide) _, clamp_bounds (by decide) _,
        clamp_le _ _ _, Nat.min_le_left _ _, fun l => ⟨clamp_bounds (by decide) _, clamp_bounds (by decide) _,
          clamp_bounds (by decide) _, clamp_bounds (by decide) _, clamp_bounds (by decide) _,
          clamp_bounds (by decide) _⟩⟩
    | some c =>
      have hprofile (l : Line) : look builtInImage.profiles l = builtInProfile := look_filled ..
      simp only [takeImage_invalid (b := b) (by rw [hfault]; simp), hprofile]
      decide

end Sys2Proof.Machine

/-! Starts (R17, R166, R171). -/

namespace Sys2Proof.Machine

/-! ### The end of the configuration read -/

section
variable (straps : BitVec 3) (b : List Byte) (s : State)

/-- The part as the end of the configuration read leaves it. -/
def opened : State := settle (startReports (deliver straps b s))

theorem exec_configurationReadEnd_reading (image : Vector Byte 256) (h : s.power = .reading) :
    exec (.configurationReadEnd straps image) s = .next (opened straps image.toList s) := by
  have hread : endRead straps image.toList s = opened straps image.toList s := if_pos h
  rw [← hread]; rfl

theorem undisturbed_opened : Undisturbed (deliver straps b s) (opened straps b s) := opened_undisturbed straps b s

theorem opened_loader : (opened straps b s).loader = loaded straps b := (opened_undisturbed straps b s).loader

theorem opened_line (l : Line) : InputsStand (startLine (look (takeImage b).equipped l) (look (takeImage b).profiles l)
    (lineOf s l).barred (lineOf s l).hazard) (lineOf (opened straps b s) l) := by
  rw [← deliver_line straps b s l]
  exact (opened_undisturbed straps b s).inputsStand l

theorem opened_counters : (opened straps b s).sched.counters = alter (filled 13 stoppedCounter) 12
    (giveRate Config.managementRate) := (opened_undisturbed straps b s).counters

end

/-- The service state that a start derives: no test is on and the sync condition is OUT (R7, R17). -/
theorem startLine_service (e : Bool) (p : Profile) (b z : Bool) : (startLine e p b z).service =
    if e = false then .vacant else if b = true then .barred else .down := by
  cases e <;> cases b <;> rfl

/-- Settles O7: the reports of the start and the first search leave what is delivered as it is. -/
theorem configurationReadEndOpensThePart : Obligations.ConfigurationReadEndOpensThePart := by
  intro straps image s hreading
  have hund := undisturbed_opened straps image.toList s
  have hcounter : look (opened straps image.toList s).sched.counters 12 = giveRate Config.managementRate stoppedCounter := by
    rw [opened_counters, look_alter_same, look_filled]
  refine ⟨opened straps image.toList s, exec_configurationReadEnd_reading straps s image hreading, hund.power, ?_, ?_, ?_,
    ?_, fun l => ?_, ?_, ?_, ?_, ?_, ?_, ?_, ?_, ?_⟩
  · rw [State.station, opened_loader]; rfl
  · rw [State.settings, opened_loader]; rfl
  · rw [opened_loader]; rfl
  · rw [opened_loader]; rfl
  · have hline := opened_line straps image.toList s l
    exact ⟨hline.equipped, hline.profile, hline.barred, hline.hazard, hline.sync, hline.test,
      hline.service.trans (startLine_service _ _ _ _)⟩
  · rw [hund.notices]; rfl
  · rw [hund.notices]; rfl
  · rw [hund.notices]; rfl
  · rw [hund.share]; rfl
  · rw [hcounter]; rfl
  · rw [hcounter]; rfl
  · rw [hund.dist]; rfl
  · rw [hund.claims]; rfl

/-! ### RESTART_START -/

/-- Settles O6: RESTART_START is `restartNow` in a restart wait of a running part, and nothing otherwise. -/
theorem restartStartKeepsWhatItMust : Obligations.RestartStartKeepsWhatItMust := by
  intro s
  refine ⟨fun hrun hwait => ?_, fun h => ?_⟩
  · have hexec : exec .restartStart s = .next (restartNow s) := by
      have hbegin : beginRestart s = restartNow s := by
        unfold beginRestart; split
        · next hnone => exact absurd hnone hwait
        · exact if_pos hrun
      rw [← hbegin]; rfl
    refine ⟨restartNow s, hexec, rfl, rfl, rfl, rfl, rfl, rfl, rfl, rfl, rfl, fun l => ?_, rfl, rfl, rfl, rfl, rfl,
      fun l => ⟨look_filled .., look_filled ..⟩, rfl, rfl, rfl, rfl, rfl, rfl, rfl, fun l => look_filled .., rfl, rfl,
      rfl, rfl⟩
    rw [restartNow_line]
    exact ⟨rfl, rfl, rfl, rfl, rfl, startLine_service _ _ _ _⟩
  · have hbegin : beginRestart s = s := by
      unfold beginRestart; split
      · rfl
      · next hwait => exact if_neg (h.resolve_right hwait)
    have hexec : exec .restartStart s = .next (beginRestart s) := rfl
    rw [hexec, hbegin]

/-! ### The laws at reset -/

theorem soundView_start (own : StationNo) : SoundView own (startClaims own) where
  once := List.nodup_nil
  notHolder _ hc := by cases hc
  present _ hc := by cases hc
  holderPresent _ hk := by cases hk
  ownPresent := look_put_same ..
  ordered := List.Pairwise.nil
  expiry := rfl
  turn := rfl

theorem idsInUse_start (steps : Table (Option Step) 128) : idsInUse (startSequencer steps) = [] := by
  simp [idsInUse, startSequencer]

/-- Settles O14: at reset every queue and table is empty, and every bucket full. -/
theorem lawsHoldAtReset : Obligations.LawsHoldAtReset := by
  have hids : idsInUse State.reset.seq = [] := idsInUse_start _
  have hresult (l : Line) (q : Quantity) : look (look State.reset.meas.results l) (quantityIndex q) = none := by
    have hrow : look State.reset.meas.results l = filled 5 none := look_filled ..
    rw [hrow]; exact look_filled ..
  have hmap (i : MapIndex) : look State.reset.dist.map i = none := look_filled ..
  refine ⟨rfl, ⟨Nat.zero_le _, Nat.zero_le _⟩, ?_, ⟨Nat.le_refl _, fun r hr => by cases hr⟩,
    serviceDerived_powerUp State.reset, ?_, fun l q r hr => ?_, fun i e he => ?_, soundView_start 0, ?_,
    relaySound_powerUp State.reset, alignersSound_start rfl, ?_, fun _ => ?_⟩
  · unfold BucketsBounded; decide
  · exact ⟨Nat.zero_le _, List.Pairwise.nil⟩
  · rw [hresult] at hr; cases hr
  · rw [hmap] at he; cases he
  · exact startStore_accounted _ rfl rfl fun _ => look_filled ..
  · rw [IdsSound, hids]; simp
  · exact List.Pairwise.nil

end Sys2Proof.Machine

/-! POWER-ON (R17, R40, R61, R76, R93, R105, R122, R136, R153, R162, R171). -/

namespace Sys2Proof.Machine

/-! ### Searches while no line has a frame: only M can be served (R84 to R89) -/

/-- The lines' queues, bucket levels and deficits stand. -/
structure LinesStand (s t : State) : Prop where
  up : t.store.up = s.store.up
  level : ∀ l, look t.sched.levels (entryOf l) = look s.sched.levels (entryOf l)
  deficit : ∀ l, look t.sched.deficits (entryOf l) = look s.sched.deficits (entryOf l)

theorem LinesStand.refl (s : State) : LinesStand s s := ⟨rfl, fun _ => rfl, fun _ => rfl⟩

theorem LinesStand.trans {s t u : State} (h : LinesStand s t) (k : LinesStand t u) : LinesStand s u :=
  ⟨k.up.trans h.up, fun l => (k.level l).trans (h.level l), fun l => (k.deficit l).trans (h.deficit l)⟩

theorem linesStand_of_sched {s t : State} (hup : t.store.up = s.store.up) (hs : t.sched = s.sched) : LinesStand s t :=
  ⟨hup, fun _ => by rw [hs], fun _ => by rw [hs]⟩

theorem entryOf_ne_management (l : Line) : (12 : RoundEntry) ≠ entryOf l := by
  intro h
  have hval : 12 = l.val := congrArg Fin.val h
  omega

theorem lineOfEntry_none {e : RoundEntry} (h : lineOfEntry e = none) : e = 12 := by
  unfold lineOfEntry at h
  split at h
  · cases h
  · next hlt => exact Fin.ext (by change e.val = 12; omega)

section
variable {s : State}

theorem lookQueue_management (s : State) : LinesStand s (lookQueue 12 s) ∧ (lookQueue 12 s).sched = s.sched := by
  obtain ⟨-, -, hsched, hup⟩ := releaseEntries_frame (lookedAt s 12).gone
    (countLook 12 (lookedAt s 12) (setStore (putQueue 12 (lookedAt s 12).kept) s))
  have hcount : (countLook 12 (lookedAt s 12) (setStore (putQueue 12 (lookedAt s 12).kept) s)).sched = s.sched ∧
      (countLook 12 (lookedAt s 12) (setStore (putQueue 12 (lookedAt s 12).kept) s)).store.up = s.store.up := by
    have hentry : lineOfEntry 12 = none := rfl
    unfold countLook; rw [hentry]; dsimp only
    split <;> exact ⟨rfl, rfl⟩
  exact ⟨linesStand_of_sched (hup.trans hcount.2) (hsched.trans hcount.1), hsched.trans hcount.1⟩

theorem linesStand_offer (s : State) : LinesStand s (offer s) := by
  obtain ⟨-, -, hsched, hup⟩ := offer_frame s
  exact linesStand_of_sched hup hsched

theorem linesStand_holdTurn (x : Turn) (s : State) : LinesStand s (holdTurn x s) := ⟨rfl, fun _ => rfl, fun _ => rfl⟩

theorem linesStand_endTurn (clear : Bool) (hp : s.sched.pointer = 12) : LinesStand s (endTurn clear s) := by
  refine ⟨rfl, fun _ => rfl, fun l => ?_⟩
  cases clear with
  | false => rfl
  | true =>
    change look (put s.sched.deficits s.sched.pointer 0) (entryOf l) = _
    rw [hp, look_put_ne _ _ _ _ (entryOf_ne_management l)]

theorem linesStand_startFrame (x : Entry) (rest : List Entry) (s : State) : LinesStand s (startFrame 12 x rest s) :=
  ⟨rfl, fun l => look_alter_ne _ _ _ _ (entryOf_ne_management l), fun l => look_alter_ne _ _ _ _ (entryOf_ne_management l)⟩

theorem linesStand_startOpportunity (hp : s.sched.pointer = 12) : LinesStand s (startOpportunity s) := by
  obtain ⟨hlook, hsched⟩ := lookQueue_management s
  have hpointer : (lookQueue 12 s).sched.pointer = 12 := by rw [hsched, hp]
  unfold startOpportunity; rw [hp]; dsimp only
  split
  · exact hlook.trans (linesStand_endTurn _ hpointer)
  · split
    · exact hlook.trans (linesStand_endTurn _ hpointer)
    · next x rest _ =>
      split
      · exact hlook.trans (linesStand_endTurn _ hpointer)
      · split
        · exact hlook.trans (linesStand_holdTurn _ _)
        · split
          · exact hlook.trans (linesStand_holdTurn _ _)
          · refine hlook.trans ((linesStand_startFrame x rest _).trans (.trans ?_ (linesStand_offer _)))
            split
            · exact linesStand_endTurn _ hpointer
            · exact linesStand_holdTurn _ _

theorem linesStand_takeTurn (s : State) : LinesStand s (takeTurn 12 s) := by
  refine ⟨rfl, fun _ => rfl, fun l => ?_⟩
  simp only [takeTurn, setSched_sched]
  rw [look_alter_ne _ _ _ _ (entryOf_ne_management l)]

/-- Where no line has a frame, only M is ready (R84). -/
theorem ready_management {e : RoundEntry} (hempty : ∀ l, look s.store.up l = []) (h : ready s e = true) : e = 12 := by
  refine lineOfEntry_none ?_
  cases hline : lineOfEntry e with
  | none => rfl
  | some l => simp [ready, queueOf, hline, hempty l] at h

theorem linesStand_searchUpTo (n : Nat) (hempty : ∀ l, look s.store.up l = []) : LinesStand s (searchUpTo n s) := by
  induction n generalizing s with
  | zero => exact .refl s
  | succ n ih =>
    unfold searchUpTo; split
    · split
      · exact .refl s
      · next e he =>
        have hm : e = 12 := ready_management hempty (List.find?_some he)
        subst hm
        have hturn : LinesStand s (startOpportunity (takeTurn 12 s)) :=
          (linesStand_takeTurn s).trans (linesStand_startOpportunity rfl)
        exact hturn.trans (ih fun l => by rw [hturn.up]; exact hempty l)
    · exact .refl s

theorem linesStand_settle (hempty : ∀ l, look s.store.up l = []) : LinesStand s (settle s) := by
  unfold settle; split
  · exact linesStand_searchUpTo _ hempty
  · exact .refl s

end

/-- What the end of the configuration read leaves of the lines' queues, levels and deficits, where the start has left no
frame. -/
theorem opened_linesStand (straps : BitVec 3) (b : List Byte) {s : State} (hempty : ∀ l, look s.store.up l = []) :
    LinesStand (deliver straps b s) (opened straps b s) := by
  obtain ⟨-, -, hsched, hup⟩ := startReports_undisturbed (deliver straps b s)
  refine (linesStand_of_sched hup hsched).trans (linesStand_settle fun l => ?_)
  rw [hup]; exact hempty l

/-! ### The starting values -/

theorem allCells_val : allCells.map (·.val) = List.range 2048 := by
  rw [allCells, List.map_map]
  exact (List.map_congr_left fun k hk => Nat.mod_eq_of_lt (List.mem_range.mp hk)).trans (List.map_id _)

theorem startShare_peer (own : StationNo) (weight : Nat) (k : StationNo) : look (startShare own weight).peers k =
    if k = own then ⟨.present, none, 0, 0, weight, false, 0, none, none⟩
    else ⟨.absent, none, 0, 0, 1, false, 0, none, none⟩ := by
  rw [startShare, look_put, look_filled]
  simp only [eq_comm (a := own)]
  rfl

theorem startClaims_present (own k : StationNo) : look (startClaims own).present k = decide (k = own) := by
  rw [startClaims, look_put, look_filled]
  by_cases h : own = k <;> simp [h, eq_comm]

theorem startLevels_line (burst : Line → Nat) (l : Line) : look (startLevels burst) (entryOf l) = burst l := by
  rw [startLevels, look_tabulate, dif_pos (show (entryOf l).val < 12 from l.isLt)]
  rfl

theorem rawCapacity_none {s : State} (h : s.share.capacity.state = .none) : rawCapacity s = s.settings.floor := by
  unfold rawCapacity; rw [h]

/-- The part as POWER-ON and the end of its configuration read leave it. -/
def poweredUp (straps : BitVec 3) (b : List Byte) (s : State) : State := opened straps b (powerUp s)

section
variable (straps : BitVec 3) (b : List Byte) (s : State)

theorem poweredUp_linesStand : LinesStand (deliver straps b (powerUp s)) (poweredUp straps b s) :=
  opened_linesStand straps b fun _ => look_filled ..

theorem poweredUp_level (l : Line) :
    look (poweredUp straps b s).sched.levels (entryOf l) = (look (takeImage b).profiles l).burst := by
  have hlevels : (deliver straps b (powerUp s)).sched.levels =
      startLevels fun l => (look (takeImage b).profiles l).burst := rfl
  rw [(poweredUp_linesStand straps b s).level l, hlevels, startLevels_line]

theorem poweredUp_deficit (l : Line) : look (poweredUp straps b s).sched.deficits (entryOf l) = 0 := by
  rw [(poweredUp_linesStand straps b s).deficit l]
  exact look_filled ..

theorem poweredUp_counter (l : Line) : (look (poweredUp straps b s).sched.counters (entryOf l)).running = false := by
  rw [poweredUp, opened_counters, look_alter_ne _ _ _ _ (entryOf_ne_management l), look_filled]
  rfl

theorem poweredUp_service (l : Line) : (lineOf (poweredUp straps b s) l).service =
    if look (takeImage b).equipped l = true then .down else .vacant := by
  have hflags : (lineOf (powerUp s) l).barred = false := by rw [powerUp_line]; rfl
  have hservice := (opened_line straps b (powerUp s) l).service.trans (startLine_service _ _ _ _)
  rw [hflags] at hservice
  refine hservice.trans ?_
  generalize look (takeImage b).equipped l = equipped
  cases equipped <;> rfl

theorem poweredUp_share : (poweredUp straps b s).share =
    openShare 0 ⟨straps.toNat, straps.isLt⟩ (takeImage b).settings := (undisturbed_opened straps b (powerUp s)).share

theorem poweredUp_notices : (poweredUp straps b s).notices = openNotices 0 (takeImage b).settings :=
  (undisturbed_opened straps b (powerUp s)).notices

theorem poweredUp_claims : (poweredUp straps b s).claims = startClaims ⟨straps.toNat, straps.isLt⟩ :=
  (undisturbed_opened straps b (powerUp s)).claims

theorem poweredUp_station : (poweredUp straps b s).station = ⟨straps.toNat, straps.isLt⟩ := by
  rw [State.station, poweredUp, opened_loader]; rfl

theorem poweredUp_settings : (poweredUp straps b s).settings = (takeImage b).settings := by
  rw [State.settings, poweredUp, opened_loader]; rfl

end

/-- Settles O5: the values of `powerUp`, then those of `poweredUp`, where the first searches have found no line with a
frame. -/
theorem powerOnGivesStartingValues : Obligations.PowerOnGivesStartingValues := by
  intro s
  refine ⟨powerUp s, rfl, rfl, rfl, rfl, rfl, rfl, fun l => ?_, rfl, rfl, fun k => startShare_peer 0 1 k, rfl, rfl, rfl,
    rfl, rfl, ?_, fun c => startStore_refs c, rfl, fun l => ⟨look_filled .., look_filled .., look_filled ..⟩, rfl, rfl,
    rfl, fun e => ?_, rfl, rfl, fun l => ?_, rfl, rfl, rfl, rfl, rfl, rfl, fun i => look_filled ..,
    fun l => look_filled .., rfl, rfl, fun l => ?_, rfl, rfl, rfl, rfl, fun k => startClaims_present 0 k, rfl, rfl, rfl,
    rfl, rfl, rfl, rfl, fun k => look_filled .., rfl, rfl, fun l => look_filled .., rfl, rfl, fun l => look_filled ..,
    fun l q => ?_, fun l => look_filled .., rfl, rfl, rfl, rfl, fun straps image => ?_⟩
  · rw [powerUp_line]
    exact ⟨rfl, rfl, rfl, rfl, rfl, rfl, rfl, rfl, rfl, rfl, rfl, rfl, rfl, rfl, rfl⟩
  · have hfree : (powerUp s).store.free = allCells := startStore_free
    rw [hfree, allCells_val]
  · have hcounter : look (powerUp s).sched.counters e = stoppedCounter := look_filled ..
    rw [hcounter]
    exact ⟨rfl, rfl, look_filled ..⟩
  · have hlevels : (powerUp s).sched.levels = startLevels fun _ => builtInProfile.burst := rfl
    rw [hlevels, startLevels_line, powerUp_line]
    rfl
  · have hsup : supOf (powerUp s) l = startSupervision := look_filled ..
    rw [hsup]
    exact ⟨rfl, rfl, rfl, rfl, rfl, rfl, rfl, rfl, rfl, rfl, rfl, rfl, rfl, rfl, rfl, rfl, rfl, rfl, rfl⟩
  · have hrow : look (powerUp s).meas.results l = filled 5 none := look_filled ..
    rw [hrow]
    exact look_filled ..
  · refine ⟨poweredUp straps image.toList s, exec_configurationReadEnd_reading straps (powerUp s) image rfl,
      (undisturbed_opened straps image.toList (powerUp s)).power, ?_, ?_, ?_, ?_, ?_, fun k => ?_, ?_, ?_, ?_,
      fun k => ?_, fun l => ⟨poweredUp_service straps _ s l, poweredUp_level straps _ s l,
        poweredUp_deficit straps _ s l, poweredUp_counter straps _ s l⟩⟩
    · rw [poweredUp_station]
    · rw [poweredUp_notices]; rfl
    · rw [poweredUp_notices]; rfl
    · rw [poweredUp_notices]; rfl
    · rw [poweredUp_notices, openNotices, Nat.zero_add]; rfl
    · rw [poweredUp_share, poweredUp_station]
      exact startShare_peer _ _ k
    · rw [poweredUp_share]; rfl
    · rw [rawCapacity_none (by rw [poweredUp_share]; rfl), poweredUp_settings]
    · rw [poweredUp_share]; rfl
    · rw [poweredUp_claims, poweredUp_station]
      exact startClaims_present _ k

end Sys2Proof.Machine

/-! Reading of the bus, its timers, and the start of the head notice (R20 to R25, R35, R37, R38, R56). -/

namespace Sys2Proof.Machine

/-! ### What a command of a running part does to the notice interface -/

@[simp] theorem settle_notices (s : State) : (settle s).notices = s.notices := (undisturbed_settle s).notices
theorem settle_share (s : State) : (settle s).share = s.share := (undisturbed_settle s).share
@[simp] theorem queueReport_notices (body : ReportBody) (s : State) : (queueReport body s).notices = s.notices :=
  (queueReport_frame body s).1.notices
@[simp] theorem recompute_notices (s : State) : (recompute s).notices = s.notices := (recompute_frame s).2.2.2.2.2.1

/-- A timed command whose timer is due has its effect, and then the scheduler searches. -/
theorem live_whenDue {due : State → Bool} {s : State} (hrun : s.power = .running) (h : due s = true)
    (f : State → State) : live (whenDue due f) s = settle (f s) := by
  rw [live_running hrun, whenDue_due h]

/-! ### The bus condition (R38, R56) -/

theorem setCondition_same {c : BusCondition} {s : State} (h : s.notices.condition = c) : setCondition c s = s :=
  if_pos h.symm

theorem setCondition_changed {c : BusCondition} {s : State} (h : s.notices.condition ≠ c) :
    setCondition c s = recompute (queueReport (.busCondition s.notices.condition c)
      (setNotices (fun n => { n with condition := c }) s)) := if_neg (Ne.symm h)

theorem setCondition_notices (c : BusCondition) (s : State) :
    (setCondition c s).notices = { s.notices with condition := c } := by
  by_cases h : s.notices.condition = c
  · rw [setCondition_same h, ← h]
  · rw [setCondition_changed h, recompute_notices, queueReport_notices, setNotices_notices]

/-- The share of an isolated station (R56). -/
theorem shareOf_isolated {s : State} (h : s.notices.condition = .isolated) :
    shareOf s = min (look s.share.peers s.station).demand
      (s.settings.floor * (100 - s.settings.headroom) / 100 / s.settings.cabinet) := by
  unfold shareOf; rw [h]; rfl

theorem setCondition_isolated_share {s : State} (h : s.notices.condition ≠ .isolated) :
    (setCondition .isolated s).share.share = min 1000000 (min (look s.share.peers s.station).demand
      (s.settings.floor * (100 - s.settings.headroom) / 100 / s.settings.cabinet)) := by
  obtain ⟨u, hu⟩ := queueReport_eq (.busCondition s.notices.condition .isolated)
    (setNotices (fun n => { n with condition := .isolated }) s)
  rw [setCondition_changed h, hu, recompute_share, shareOf_isolated rfl]
  rfl

/-! ### Reading of the bus and its timers -/

/-- Settles O22: each command is its effect and the searches; the isolation timer's share is read behind the recomputation
that the change of the bus condition makes. -/
theorem busReadingAndItsTimers : Obligations.BusReadingAndItsTimers := by
  refine ⟨fun s hrun => ⟨congrArg _ (live_running hrun), ?_, fun hdue =>
    congrArg _ (live_whenDue hrun ((duplicateDue_iff s).mpr hdue) _)⟩, fun s hrun hdue => ?_⟩
  · have htaken : takeStartBit s = if s.notices.framing = true ∧ s.notices.attempt = none then
        { s with notices := { s.notices with receiving := true, gapPassed := false, quiet := 0 } } else s := by
      simp only [takeStartBit, Bool.and_eq_true, Bool.not_eq_true', Option.isSome_eq_false_iff, Option.isNone_iff_eq_none]
      rfl
    rw [← htaken]
    exact congrArg _ (live_running hrun)
  · intro s1
    have hexec : exec .isolationTimerExpiry s = .next (settle (setCondition .isolated s1)) :=
      congrArg _ (live_whenDue hrun ((isolationDue_iff s).mpr hdue) _)
    refine ⟨fun h => ?_, fun h => ⟨_, hexec, ?_, ?_, ?_⟩⟩
    · rw [hexec, setCondition_same (s := s1) h]
    · rw [setCondition_changed (s := s1) h]; rfl
    · rw [settle_notices, setCondition_notices]
    · rw [settle_share]; exact setCondition_isolated_share (s := s1) h

/-! ### Starting the head notice (R20 to R23, R25, R37) -/

theorem startHead_still {s : State} (h : s.notices.permitted = false ∨ s.notices.queue = []) : startHead s = s := by
  unfold startHead; dsimp only; split
  · next hfree =>
    have hpermitted : s.notices.permitted = true := by
      simp only [Bool.and_eq_true] at hfree; exact hfree.1.2
    rcases h with h | h
    · rw [h] at hpermitted; cases hpermitted
    · rw [h]
  · rfl

/-- Permission, a gap that has passed on a free bus, and a notice that waits: it starts (R23, R25). -/
theorem startHead_starts {s : State} {e : OutNotice} {rest : List OutNotice} (hfree : busFree s.notices = true)
    (hpermitted : s.notices.permitted = true) (hgap : s.notices.gapPassed = true) (hqueue : s.notices.queue = e :: rest) :
    startHead s = beginAttempt e.ask s := by
  simp [startHead, hfree, hpermitted, hgap, hqueue]

theorem takeGap_still {s : State} (h : s.notices.permitted = false ∨ s.notices.queue = []) :
    takeGap s = setNotices (fun n => { n with gapPassed := true }) s :=
  startHead_still (s := setNotices (fun n => { n with gapPassed := true }) s) h

theorem takeGap_starts {s : State} {e : OutNotice} {rest : List OutNotice} (hfree : busFree s.notices = true)
    (hpermitted : s.notices.permitted = true) (hqueue : s.notices.queue = e :: rest) :
    takeGap s = beginAttempt e.ask (setNotices (fun n => { n with gapPassed := true }) s) :=
  startHead_starts (s := setNotices (fun n => { n with gapPassed := true }) s) hfree hpermitted rfl hqueue

/-- What the quiet of 2,000 bit times sets (R22, R25). -/
def quietNotices (n : Notices) : Notices :=
  { n with lastSender := 8, permitted := true, gapPassed := true, quietTaken := true }

theorem takeQuiet_still {s : State} (h : s.notices.queue = []) : takeQuiet s = setNotices quietNotices s :=
  startHead_still (s := setNotices quietNotices s) (.inr h)

theorem takeQuiet_starts {s : State} {e : OutNotice} {rest : List OutNotice} (hfree : busFree s.notices = true)
    (hqueue : s.notices.queue = e :: rest) : takeQuiet s = beginAttempt e.ask (setNotices quietNotices s) :=
  startHead_starts (s := setNotices quietNotices s) hfree rfl rfl hqueue

/-- Settles O23: both commands mark the passed gap and start the head, where there is permission and a head. -/
theorem gapAndQuietTimeoutStartTheHeadNotice : Obligations.GapAndQuietTimeoutStartTheHeadNotice := by
  intro s hrun sequence restart holding remaining started quiet
  refine ⟨fun hdue => ?_, fun hdue => ?_⟩
  · have hexec : exec .accessGapExpiry s = .next (settle (takeGap s)) :=
      congrArg _ (live_whenDue hrun ((gapDue_iff s).mpr hdue) _)
    refine ⟨fun h => ?_, fun e rest hpermitted hqueue => ?_⟩
    · rw [hexec, takeGap_still h]; rfl
    · rw [hexec, takeGap_starts ((busFree_iff _).mpr hdue.1) hpermitted hqueue]; rfl
  · have hexec : exec .busQuietTimeout s = .next (settle (takeQuiet s)) :=
      congrArg _ (live_whenDue hrun ((quietDue_iff s).mpr hdue) _)
    refine ⟨fun hqueue => ?_, fun e rest hqueue => ?_⟩
    · rw [hexec, takeQuiet_still hqueue]; rfl
    · rw [hexec, takeQuiet_starts ((busFree_iff _).mpr hdue.1) hqueue]; rfl

end Sys2Proof.Machine

/-! The checks of a notice, its bytes and its levels (R18 to R21, R32, R172, R173). -/

namespace Sys2Proof.Machine

/-! ### The checks at the end of a notice (R32) -/

/-- The codes of the kinds (R172). -/
theorem kindOfCode_eq_some_iff (code : Byte) (kind : NoticeKind) :
    kindOfCode code = some kind ↔ code = noticeCode kind := by
  constructor
  · intro h
    unfold kindOfCode at h
    split_ifs at h with h1 h2 h3 h4 h5 h6
    · cases h; exact h1
    · cases h; exact h2
    · cases h; exact h3
    · cases h; exact h4
    · cases h; exact h5
    · cases h; exact h6
  · rintro rfl
    cases kind <;> rfl

/-- The bytes of a notice pass every check as a notice of a kind (R32). -/
structure PassesChecks (kind : NoticeKind) (b : List Byte) (framingError : Bool) : Prop where
  code : kindOfCode (byteAt b 0) = some kind
  framed : framingError = false
  length : b.length = noticeLength kind
  lengthField : (byteAt b 2).toNat = noticeLength kind
  check : crc16 (b.take (b.length - 2)) = BitVec.ofNat 16 (fieldAt b (b.length - 2) 2)
  sender : if kind = .capacity then (byteAt b 1).toNat = 8 else (byteAt b 1).toNat < 8

theorem fieldAt_one (b : List Byte) (i : Nat) : fieldAt b i 1 = (byteAt b i).toNat := by
  simp [fieldAt, numberOf]

theorem fieldAt_two (b : List Byte) (i : Nat) :
    fieldAt b i 2 = 256 * (byteAt b i).toNat + (byteAt b (i + 1)).toNat := by
  simp [fieldAt, numberOf, List.range_succ, Nat.mul_comm]

theorem noticeLength_bounds (kind : NoticeKind) : 4 ≤ noticeLength kind ∧ noticeLength kind ≤ 16 := by
  cases kind <;> decide

theorem kindFits_iff (kind : NoticeKind) (sender : Nat) :
    kindFits kind sender = true ↔ if kind = .capacity then sender = 8 else sender < 8 := by
  cases kind <;> simp [kindFits]

theorem PassesChecks.sender_lt {kind : NoticeKind} {b : List Byte} {x : Bool} (h : PassesChecks kind b x) :
    (byteAt b 1).toNat < 9 := by
  have hs := h.sender
  split at hs <;> omega

/-- A notice that passes every check is good, with the fields that its bytes give. -/
theorem checkNotice_of_passes {kind : NoticeKind} {b : List Byte} {x : Bool} (h : PassesChecks kind b x) :
    checkNotice b x = some ⟨⟨(byteAt b 1).toNat, h.sender_lt⟩, (byteAt b 3).toNat, unpack kind b⟩ := by
  obtain ⟨hlow, hhigh⟩ := noticeLength_bounds kind
  have hfits := (kindFits_iff kind _).mpr h.sender
  have hcheck := h.check
  rw [h.length] at hcheck
  unfold checkNotice
  rw [h.code]
  simp [h.sender_lt, h.framed, fieldAt_one, h.lengthField, h.length, hcheck, hfits, Nat.not_lt.mpr hlow,
    Nat.not_lt.mpr hhigh]

/-- A good notice has passed every check. -/
theorem passes_of_checkNotice {b : List Byte} {x : Bool} {g : GoodNotice} (h : checkNotice b x = some g) :
    ∃ kind, PassesChecks kind b x := by
  unfold checkNotice at h
  split at h
  · cases h
  · next kind hcode =>
    dsimp only at h
    split at h
    · split at h
      · cases h
      · next hchecks =>
        simp only [fieldAt_one, Bool.or_eq_true, decide_eq_true_eq, Bool.not_eq_true', not_or, not_not,
          Bool.not_eq_false, Bool.not_eq_true] at hchecks
        obtain ⟨⟨⟨⟨⟨⟨hframed, -⟩, -⟩, hfield⟩, hlength⟩, hcheck⟩, hfits⟩ := hchecks
        exact ⟨kind, hcode, hframed, hlength, hfield, hcheck, (kindFits_iff kind _).mp hfits⟩
    · cases h

/-- Settles O25: the codes by cases over the kinds, and a notice is good exactly when it passes the checks. -/
theorem aNoticeIsGoodWhenEveryCheckPasses : Obligations.ANoticeIsGoodWhenEveryCheckPasses := by
  refine ⟨kindOfCode_eq_some_iff, rfl, fun b x => ⟨fun ⟨g, hg⟩ => ?_, fun ⟨kind, h⟩ => ?_⟩⟩
  · obtain ⟨kind, h⟩ := passes_of_checkNotice hg
    exact ⟨kind, h.code, h.framed, h.length, h.lengthField, h.check, h.sender⟩
  · obtain ⟨hcode, hframed, hlength, hfield, hcheck, hsender⟩ := h
    exact ⟨_, checkNotice_of_passes ⟨hcode, hframed, hlength, hfield, hcheck, hsender⟩⟩

/-! ### The bytes that a station sends (R20, R21, R172) -/

theorem byteOf_toNat (n : Nat) : (byteOf n).toNat = n % 256 := BitVec.toNat_ofNat n 8

/-- Two bytes of a record that hold a number below 2^16. -/
theorem fieldAt_of_two {b : List Byte} {i n : Nat} (hn : n < 65536) (h0 : byteAt b i = byteOf (n / 256))
    (h1 : byteAt b (i + 1) = byteOf n) : fieldAt b i 2 = n := by
  rw [fieldAt_two, h0, h1, byteOf_toNat, byteOf_toNat]
  omega

/-- The bytes of a notice before its check. -/
def noticeBody (sender : StationNo) (sequence : Nat) (restart holding : Bool) (remaining : Nat) (a : Ask) : List Byte :=
  [noticeCode (askKind a), byteOf sender.val, byteOf (noticeLength (askKind a)), byteOf sequence] ++
    payload restart holding remaining a

section
variable (k : StationNo) (sequence : Nat) (restart holding : Bool) (remaining : Nat) (a : Ask)

theorem noticeBytes_eq : noticeBytes k sequence restart holding remaining a =
    noticeBody k sequence restart holding remaining a ++
      two (crc16 (noticeBody k sequence restart holding remaining a)).toNat := rfl

theorem noticeBody_length : (noticeBody k sequence restart holding remaining a).length + 2 =
    noticeLength (askKind a) := by
  cases a <;> rfl

theorem noticeBytes_length : (noticeBytes k sequence restart holding remaining a).length = noticeLength (askKind a) := by
  rw [noticeBytes_eq, List.length_append, ← noticeBody_length k sequence restart holding remaining a]
  rfl

/-- A byte behind the body is a byte of the check. -/
theorem byteAt_append_right (b c : List Byte) (i : Nat) : byteAt (b ++ c) (b.length + i) = byteAt c i := by
  rw [byteAt, byteAt, List.getD_eq_getElem?_getD, List.getD_eq_getElem?_getD,
    List.getElem?_append_right (Nat.le_add_right _ _), Nat.add_sub_cancel_left]

theorem askKind_ne_capacity : askKind a ≠ .capacity := by
  cases a <;> simp [askKind]

/-- What a station sends passes every check. -/
theorem noticeBytes_passes :
    PassesChecks (askKind a) (noticeBytes k sequence restart holding remaining a) false where
  code := (kindOfCode_eq_some_iff _ _).mpr rfl
  framed := rfl
  length := noticeBytes_length k sequence restart holding remaining a
  lengthField := by
    change (byteOf (noticeLength (askKind a))).toNat = _
    have hbounds := noticeLength_bounds (askKind a)
    rw [byteOf_toNat]
    omega
  check := by
    have hlength : (noticeBytes k sequence restart holding remaining a).length - 2 =
        (noticeBody k sequence restart holding remaining a).length := by
      rw [noticeBytes_eq, List.length_append]; rfl
    rw [hlength, noticeBytes_eq, List.take_left, fieldAt_of_two (BitVec.isLt _) (byteAt_append_right _ _ 0)
      (byteAt_append_right _ _ 1), BitVec.ofNat_toNat, BitVec.setWidth_eq]
  sender := by
    rw [if_neg (askKind_ne_capacity a)]
    change (byteOf k.val).toNat < 8
    rw [byteOf_toNat]
    omega

end

/-- The first payload byte of a STATUS holds its two flags and its weight (R172). -/
theorem statusByte_fields : ∀ (restart holding : Bool) (weight : Fin 16),
    let b := byteOf ((if restart then 128 else 0) + (if holding then 64 else 0) + weight.val % 16)
    b.getLsbD 7 = restart ∧ b.getLsbD 6 = holding ∧ (b.extractLsb' 0 4).toNat = weight.val := by
  decide

/-- The fields of a notice read back as they were asked for (R172, R173). -/
theorem unpack_noticeBytes (k : StationNo) (sequence : Nat) (restart holding : Bool) (remaining : Nat) (a : Ask)
    (ha : askInRange a) (hr : remaining ≤ 600) :
    unpack (askKind a) (noticeBytes k sequence restart holding remaining a) = heardOf restart holding remaining a := by
  have hclamp {n : Nat} (h1 : 1 ≤ n) (h2 : n ≤ 600) : clamp 1 600 n = n := by unfold clamp; omega
  cases a with
  | status weight demand allowance =>
    obtain ⟨hlow, hhigh, hdemand, hallowance⟩ := ha
    obtain ⟨hrestart, hholding, hweight⟩ := statusByte_fields restart holding ⟨weight, by omega⟩
    exact (Heard.status.injEq ..).mpr ⟨hrestart, hholding, (congrArg (max 1) hweight).trans (Nat.max_eq_right hlow),
      fieldAt_of_two hdemand rfl rfl, fieldAt_of_two hallowance rfl rfl⟩
  | claim p hold =>
    obtain ⟨hlow, hhigh⟩ := ha
    have hpriority : (if priorityCode p = 1 then Priority.triggered else .scheduled) = p := by cases p <;> rfl
    exact (Heard.claim.injEq ..).mpr ⟨hpriority, (congrArg (clamp 1 600) (fieldAt_of_two (by omega) rfl rfl)).trans
      (hclamp hlow hhigh)⟩
  | take hold =>
    obtain ⟨hlow, hhigh⟩ := ha
    exact congrArg Heard.take ((congrArg (clamp 1 600) (fieldAt_of_two (by omega) rfl rfl)).trans (hclamp hlow hhigh))
  | held => exact congrArg Heard.held ((congrArg (min 600) (fieldAt_of_two (by omega) rfl rfl)).trans
      (Nat.min_eq_right hr))
  | release => rfl

/-- What is sent is taken as a good notice with the fields asked for. -/
theorem checkNotice_noticeBytes (k : StationNo) {sequence remaining : Nat} (restart holding : Bool) {a : Ask}
    (ha : askInRange a) (hs : sequence < 256) (hr : remaining ≤ 600) :
    checkNotice (noticeBytes k sequence restart holding remaining a) false =
      some ⟨⟨k.val, by omega⟩, sequence, heardOf restart holding remaining a⟩ := by
  have hsender : (byteAt (noticeBytes k sequence restart holding remaining a) 1).toNat = k.val := by
    change (byteOf k.val).toNat = _
    rw [byteOf_toNat]; omega
  have hsequence : (byteAt (noticeBytes k sequence restart holding remaining a) 3).toNat = sequence := by
    change (byteOf sequence).toNat = _
    rw [byteOf_toNat]; omega
  rw [checkNotice_of_passes (noticeBytes_passes k sequence restart holding remaining a)]
  simp only [hsender, hsequence, unpack_noticeBytes k sequence restart holding remaining a ha hr]

/-! ### The levels that a station gives (R18) -/

theorem byteBits_length (b : Byte) : (byteBits b).length = 8 := by simp [byteBits]

theorem noticeLevels_append (bs cs : List Byte) : noticeLevels (bs ++ cs) = noticeLevels bs ++ noticeLevels cs :=
  List.flatMap_append

theorem byteLevels_length (b : Byte) : (byteLevels b).length = 10 := by simp [byteLevels, byteBits_length]

theorem noticeLevels_length (bytes : List Byte) : (noticeLevels bytes).length = 10 * bytes.length := by
  induction bytes with
  | nil => rfl
  | cons b bs ih =>
    have hcons : noticeLevels (b :: bs) = byteLevels b ++ noticeLevels bs := rfl
    rw [hcons, List.length_append, byteLevels_length, ih, List.length_cons]
    omega

/-- Bit `j` of byte `i` is level `10 i + j` of the notice. -/
theorem noticeLevels_getElem? {bytes : List Byte} {i j : Nat} {b : Byte} (hb : bytes[i]? = some b) (hj : j < 10) :
    (noticeLevels bytes)[10 * i + j]? = (byteLevels b)[j]? := by
  induction bytes generalizing i with
  | nil => cases hb
  | cons c cs ih =>
    have hcons : noticeLevels (c :: cs) = byteLevels c ++ noticeLevels cs := rfl
    have hlength := byteLevels_length c
    rw [hcons]
    cases i with
    | zero =>
      rw [List.getElem?_cons_zero, Option.some.injEq] at hb
      rw [List.getElem?_append_left (by omega), hb, Nat.mul_zero, Nat.zero_add]
    | succ i =>
      rw [List.getElem?_append_right (by omega), hlength, ← ih hb]
      congr 1; omega

theorem cbTx_idle {s : State} (h : s.notices.attempt = none) : cbTx s = true := by
  rw [cbTx, h]

section
variable {s : State} {t : Attempt} (h : s.notices.attempt = some t)
include h

theorem cbTx_attempt : cbTx s = (noticeLevels t.bytes).getD (t.elapsed / 2) true := by
  rw [cbTx, h]

theorem cbTx_bit {i j : Nat} {b : Byte} (hb : t.bytes[i]? = some b) (hj : j < 10) (he : t.elapsed / 2 = 10 * i + j) :
    cbTx s = ((byteLevels b)[j]?).getD true := by
  rw [cbTx_attempt h, he, List.getD_eq_getElem?_getD, noticeLevels_getElem? hb hj]

theorem cbTx_sent (he : 10 * t.bytes.length ≤ t.elapsed / 2) : cbTx s = true := by
  rw [cbTx_attempt h, List.getD_eq_getElem?_getD,
    List.getElem?_eq_none (by rw [noticeLevels_length]; exact he), Option.getD_none]

end

theorem byteLevels_data (b : Byte) {j : Nat} (hj : j < 8) : (byteLevels b)[1 + j]? = some (b.getLsbD (7 - j)) := by
  have hcons : byteLevels b = false :: (byteBits b ++ [true]) := rfl
  rw [hcons, Nat.add_comm, List.getElem?_cons_succ, List.getElem?_append_left (by rw [byteBits_length]; exact hj)]
  simp [byteBits, hj]

theorem byteLevels_stop (b : Byte) : (byteLevels b)[9]? = some true := rfl

/-! ### Framing (R19) -/

/-- Shifting one bit less takes the next bit in. -/
theorem shiftRight_step (n m : Nat) : 2 * (n >>> (m + 1)) + (n.testBit m).toNat = n >>> m := by
  rw [Nat.shiftRight_succ, Nat.toNat_testBit, ← Nat.shiftRight_eq_div_pow]
  omega

/-- The first bits of a byte spell its upper part. -/
theorem foldl_byteBits (b : Byte) {n : Nat} (hn : n ≤ 8) :
    ((List.range n).map fun i => b.getLsbD (7 - i)).foldl (fun n b => 2 * n + b.toNat) 0 = b.toNat >>> (8 - n) := by
  induction n with
  | zero => simp [Nat.shiftRight_eq_div_pow, Nat.div_eq_of_lt b.isLt]
  | succ n ih =>
    have hshift : 8 - n = (7 - n) + 1 := by omega
    rw [List.range_succ, List.map_append, List.foldl_append, ih (by omega), hshift]
    exact (shiftRight_step b.toNat (7 - n)).trans (by congr 1; omega)

theorem bitsByte_byteBits (b : Byte) : bitsByte (byteBits b) = b := by
  rw [bitsByte, byteBits, foldl_byteBits b (Nat.le_refl 8)]
  simp [byteOf]

theorem ended_of_idle {f : Framer} (h : f.idle < 10) : f.ended = false := by
  simp [Framer.ended, Nat.not_le.mpr h]

/-- Inside a byte, levels are its data bits up to the eighth. -/
theorem foldl_readLevel_inside (bits : List Bool) (f : Framer) (pre : List Bool) (hi : f.inside = some pre)
    (hidle : f.idle = 0) (hlength : pre.length + bits.length ≤ 8) :
    ∃ last, bits.foldl readLevel f = { f with inside := some (pre ++ bits), last := last } := by
  induction bits generalizing f pre with
  | nil => exact ⟨f.last, by rw [List.append_nil, ← hi]; rfl⟩
  | cons x xs ih =>
    rw [List.length_cons] at hlength
    have hread : readLevel f x = { f with inside := some (pre ++ [x]), last := x } := by
      have hlt : pre.length < 8 := by omega
      simp [readLevel, ended_of_idle (show f.idle < 10 by omega), hi, hlt]
    obtain ⟨last, hlast⟩ := ih { f with inside := some (pre ++ [x]), last := x } (pre ++ [x]) rfl hidle
      (by rw [List.length_append, List.length_singleton]; omega)
    exact ⟨last, by rw [List.foldl_cons, hread, hlast, List.append_assoc]; rfl⟩

/-- Between bytes, a byte's ten levels give its stop bit's reading. -/
theorem foldl_readLevel_byte (f : Framer) (b : Byte) (stop : Bool) (hi : f.inside = none) (hl : f.last = true)
    (hidle : f.idle = 0) :
    (false :: byteBits b ++ [stop]).foldl readLevel f =
      if f.bytes.length < 16 then ⟨f.bytes ++ [b], f.bad || !stop, none, stop, 0⟩ else ⟨f.bytes, true, none, stop, 0⟩ := by
  have hstart : readLevel f false = { f with inside := some [], last := false, idle := 0 } := by
    simp [readLevel, ended_of_idle (show f.idle < 10 by omega), hi, hl]
  obtain ⟨last, hbits⟩ := foldl_readLevel_inside (byteBits b) { f with inside := some [], last := false, idle := 0 } [] rfl
    rfl (by rw [byteBits_length]; decide)
  have hended : ({ f with inside := some (byteBits b), last := last, idle := 0 } : Framer).ended = false :=
    ended_of_idle (Nat.zero_lt_succ 9)
  rw [List.cons_append, List.foldl_cons, hstart, List.foldl_append, hbits, List.nil_append, List.foldl_cons,
    List.foldl_nil, readLevel, hended]
  simp [byteBits_length, stopBit, bitsByte_byteBits]

/-- The levels of a notice frame into its first 16 bytes, and a 17th marks it bad (R19). -/
theorem frameLevels_noticeLevels (bytes : List Byte) :
    frameLevels (noticeLevels bytes) = ⟨bytes.take 16, decide (16 < bytes.length), none, true, 0⟩ := by
  induction bytes using List.reverseRecOn with
  | nil => rfl
  | append_singleton bs b ih =>
    have hlevels : noticeLevels (bs ++ [b]) = noticeLevels bs ++ (false :: byteBits b ++ [true]) := by
      rw [noticeLevels_append]; simp [noticeLevels, byteLevels]
    unfold frameLevels at ih ⊢
    rw [hlevels, List.foldl_append, ih, foldl_readLevel_byte _ b true rfl rfl rfl]
    by_cases h : bs.length < 16
    · have htake : bs.take 16 = bs := List.take_of_length_le (by omega)
      have htake' : (bs ++ [b]).take 16 = bs ++ [b] := List.take_of_length_le (by rw [List.length_append]; exact h)
      simp [htake, htake', h, Nat.not_lt.mpr h.le]
    · have hle : 16 ≤ bs.length := Nat.not_lt.mp h
      simp [hle, show 16 < bs.length + 1 by omega]

/-- Recessive bit times behind a stop bit are counted to the tenth, which ends the notice (R19). -/
theorem foldl_readLevel_recessive {f : Framer} (hi : f.inside = none) (hidle : f.idle = 0) (hb : f.bytes ≠ []) (n : Nat) :
    ∃ last, (List.replicate n true).foldl readLevel f = { f with last := last, idle := min n 10 } := by
  induction n with
  | zero =>
    have hf : f = { f with idle := 0 } := by rw [← hidle]
    exact ⟨f.last, by rw [Nat.zero_min]; exact hf⟩
  | succ n ih =>
    obtain ⟨last, hlast⟩ := ih
    rw [List.replicate_succ', List.foldl_append, hlast, List.foldl_cons, List.foldl_nil]
    by_cases h : n < 10
    · refine ⟨true, ?_⟩
      rw [readLevel, ended_of_idle (by dsimp only; omega)]
      simp [hi, Nat.min_eq_left h.le, Nat.min_eq_left (show n + 1 ≤ 10 from h)]
    · have hended : ({ f with last := last, idle := min n 10 } : Framer).ended = true := by
        simp [Framer.ended, hb, Nat.not_lt.mp h]
      refine ⟨last, ?_⟩
      rw [readLevel, hended, if_pos rfl, Nat.min_eq_right (Nat.not_lt.mp h), Nat.min_eq_right (by omega)]

/-- What a receiver holds once some recessive bit times have passed behind the levels of a notice. -/
theorem frameLevels_busLevels {levels : List Bool} {f : Framer} (hf : frameLevels levels = f) (hi : f.inside = none)
    (hidle : f.idle = 0) (hb : f.bytes ≠ []) (recessive : Nat) :
    (frameLevels (busLevels levels recessive)).bytes = f.bytes ∧
    (frameLevels (busLevels levels recessive)).bad = f.bad ∧
    (frameLevels (busLevels levels recessive)).ended = decide (10 ≤ recessive) := by
  obtain ⟨last, hlast⟩ := foldl_readLevel_recessive hi hidle hb recessive
  have hframe : frameLevels (busLevels levels recessive) = { f with last := last, idle := min recessive 10 } := by
    rw [frameLevels, busLevels, List.foldl_append, ← hlast, ← hf]; rfl
  rw [hframe]
  exact ⟨rfl, rfl, by simp [Framer.ended, hb]⟩

theorem frameLevels_sent {bytes : List Byte} (hb : bytes ≠ []) (recessive : Nat) :
    (frameLevels (busLevels (noticeLevels bytes) recessive)).bytes = bytes.take 16 ∧
    (frameLevels (busLevels (noticeLevels bytes) recessive)).bad = decide (16 < bytes.length) ∧
    (frameLevels (busLevels (noticeLevels bytes) recessive)).ended = decide (10 ≤ recessive) :=
  frameLevels_busLevels (frameLevels_noticeLevels bytes) rfl rfl (by simp [hb]) recessive

/-- A stop bit read dominant marks the notice bad (R19). -/
theorem frameLevels_dominantStop {before : List Byte} (x : Byte) (recessive : Nat) (h : before.length < 16) :
    let f := frameLevels (busLevels (noticeLevels before ++ false :: byteBits x ++ [false]) recessive)
    f.bytes = before ++ [x] ∧ f.bad = true ∧ f.ended = decide (10 ≤ recessive) := by
  have hframe : frameLevels (noticeLevels before ++ false :: byteBits x ++ [false]) =
      ⟨before ++ [x], true, none, false, 0⟩ := by
    have hbefore := frameLevels_noticeLevels before
    unfold frameLevels at hbefore ⊢
    rw [List.append_assoc, List.foldl_append, hbefore, foldl_readLevel_byte _ x false rfl rfl rfl]
    have htake : before.take 16 = before := List.take_of_length_le h.le
    simp [htake, h]
  exact frameLevels_busLevels hframe rfl rfl (by simp) recessive

/-- A notice of at most 16 bytes is heard as its bytes are checked. -/
theorem heardNotice_sent {bytes : List Byte} (hb : bytes ≠ []) (hlength : bytes.length ≤ 16) (recessive : Nat) :
    heardNotice (busLevels (noticeLevels bytes) recessive) = checkNotice bytes false := by
  obtain ⟨hbytes, hbad, -⟩ := frameLevels_sent hb recessive
  rw [heardNotice, hbytes, hbad, List.take_of_length_le hlength, decide_eq_false (Nat.not_lt.mpr hlength)]

/-- Settles O24: the bytes pass the checks and read back field by field; the levels frame into the bytes byte by byte. -/
theorem everySentNoticeReadsBackAsItWasAskedFor : Obligations.EverySentNoticeReadsBackAsItWasAskedFor := by
  refine ⟨fun k sequence restart holding remaining a ha hs hr => ?_, fun s => ⟨cbTx_idle, fun t i b ht hb => ?_,
    fun t ht he => cbTx_sent ht he⟩, fun bytes recessive hb => frameLevels_sent hb recessive,
    fun before x recessive h => frameLevels_dominantStop x recessive h⟩
  · intro b good
    have hlength : b.length = noticeLength (askKind a) := noticeBytes_length k sequence restart holding remaining a
    have hgood : checkNotice b false = some good := checkNotice_noticeBytes k restart holding ha hs hr
    obtain ⟨hlow, hhigh⟩ := noticeLength_bounds (askKind a)
    have hne : b ≠ [] := List.ne_nil_of_length_pos (by omega)
    exact ⟨hlength, hgood, fun recessive _ => (heardNotice_sent hne (by omega) recessive).trans hgood⟩
  · refine ⟨fun he => ?_, fun j hj he => ?_, fun he => ?_⟩
    · rw [cbTx_bit ht hb (j := 0) (by decide) he]; rfl
    · rw [cbTx_bit ht hb (j := 1 + j) (by omega) (by omega), byteLevels_data b hj, Option.getD_some]
    · rw [cbTx_bit ht hb (j := 9) (by decide) he, byteLevels_stop, Option.getD_some]

end Sys2Proof.Machine

/-! The outgoing queue (R28 to R31). -/

namespace Sys2Proof.Machine

/-! ### Notices that wait, and the one in flight -/

theorem isKind_iff (k : NoticeKind) (e : OutNotice) : isKind k e = true ↔ askKind e.ask = k := beq_iff_eq

theorem isKind_false_iff (k : NoticeKind) (e : OutNotice) : isKind k e = false ↔ askKind e.ask ≠ k := beq_eq_false_iff_ne

theorem isKind_eq (k : NoticeKind) : isKind k = fun x => decide (askKind x.ask = k) :=
  funext fun x => Bool.eq_iff_iff.mpr (by rw [isKind_iff, decide_eq_true_iff])

theorem waitingNotices_idle {n : Notices} (h : n.attempt = none) : waitingNotices n = n.queue := by
  simp [waitingNotices, h]

theorem flyingNotices_idle {n : Notices} (h : n.attempt = none) : flyingNotices n = [] := by
  simp [flyingNotices, h]

theorem waitingNotices_eq (n : Notices) : waitingNotices n = if n.attempt = none then n.queue else n.queue.drop 1 := by
  cases h : n.attempt <;> simp [waitingNotices, h]

theorem flyingNotices_eq (n : Notices) : flyingNotices n = if n.attempt = none then [] else n.queue.take 1 := by
  cases h : n.attempt <;> simp [flyingNotices, h]

/-! ### A notice placed (R28, R29) -/

section
variable {a : Ask} {waiting : List OutNotice}

/-- Where none of its kind waits, a HELD goes first and any other kind last. -/
theorem placeNotice_new (h : ∀ x ∈ waiting, askKind x.ask ≠ askKind a) : placeNotice a waiting =
    if askKind a = .held then ⟨a, 0⟩ :: waiting else waiting ++ [⟨a, 0⟩] := by
  have hnone : waiting.any (isKind (askKind a)) = false :=
    List.any_eq_false.mpr fun x hx => by rw [isKind_iff]; exact h x hx
  rw [placeNotice, hnone]; rfl

/-- Where one of its kind waits, a notice takes its place and its loss count. -/
theorem placeNotice_replaces (h : ∃ x ∈ waiting, askKind x.ask = askKind a) : placeNotice a waiting =
    waiting.map fun x => if askKind x.ask = askKind a then { x with ask := a } else x := by
  obtain ⟨x, hx, hk⟩ := h
  have hany : waiting.any (isKind (askKind a)) = true := List.any_eq_true.mpr ⟨x, hx, (isKind_iff _ _).mpr hk⟩
  rw [placeNotice, if_pos hany]
  simp only [isKind_iff]

/-- Entries of other kinds stand through a replacement. -/
theorem replaced_others {q : List OutNotice} (h : ∀ x ∈ q, askKind x.ask ≠ askKind a) :
    (q.map fun x => if askKind x.ask = askKind a then { x with ask := a } else x) = q :=
  (List.map_congr_left fun x hx => if_neg (h x hx)).trans (List.map_id _)

/-- A replacement leaves the kinds that wait as they are. -/
theorem replaced_kinds (a : Ask) (q : List OutNotice) :
    ((q.map fun x => if askKind x.ask = askKind a then { x with ask := a } else x).map fun x => askKind x.ask) =
      q.map fun x => askKind x.ask := by
  rw [List.map_map]
  refine List.map_congr_left fun x _ => ?_
  simp only [Function.comp_apply]
  split
  · next hk => exact hk.symm
  · rfl

/-- A notice asked for is found among those that wait. -/
theorem mem_placeNotice (a : Ask) (waiting : List OutNotice) : ∃ x ∈ placeNotice a waiting, x.ask = a := by
  by_cases h : ∃ x ∈ waiting, askKind x.ask = askKind a
  · obtain ⟨x, hx, hk⟩ := h
    rw [placeNotice_replaces ⟨x, hx, hk⟩]
    exact ⟨_, List.mem_map_of_mem hx, by rw [if_pos hk]⟩
  · rw [placeNotice_new fun x hx hk => h ⟨x, hx, hk⟩]
    split
    · exact ⟨_, List.mem_cons_self, rfl⟩
    · exact ⟨⟨a, 0⟩, by simp, rfl⟩

/-- An entry of another kind is still there. -/
theorem mem_placeNotice_of_mem {x : OutNotice} (hx : x ∈ waiting) (hk : askKind x.ask ≠ askKind a) :
    x ∈ placeNotice a waiting := by
  by_cases h : ∃ x ∈ waiting, askKind x.ask = askKind a
  · rw [placeNotice_replaces h]
    exact List.mem_map.mpr ⟨x, hx, if_neg hk⟩
  · rw [placeNotice_new fun x hx hk => h ⟨x, hx, hk⟩]
    split
    · exact List.mem_cons_of_mem _ hx
    · exact List.mem_append_left _ hx

/-- A notice of a kind that a filter drops does not show behind the filter. -/
theorem filter_placeNotice {p : NoticeKind → Bool} (hp : p (askKind a) = false) (waiting : List OutNotice) :
    ((placeNotice a waiting).filter fun x => p (askKind x.ask)) = waiting.filter fun x => p (askKind x.ask) := by
  by_cases h : ∃ x ∈ waiting, askKind x.ask = askKind a
  · have hkinds (x : OutNotice) : askKind (if askKind x.ask = askKind a then { x with ask := a } else x).ask =
        askKind x.ask := by
      split
      · next hk => exact hk.symm
      · rfl
    rw [placeNotice_replaces h, List.filter_map]
    simp only [Function.comp_def, hkinds]
    refine replaced_others fun x hx hk => ?_
    have hpx := (List.mem_filter.mp hx).2
    rw [hk, hp] at hpx
    cases hpx
  · rw [placeNotice_new fun x hx hk => h ⟨x, hx, hk⟩]
    split <;> simp [hp]

end

/-- No kind stands twice in a list of notices (R28). -/
def KindsOnce (q : List OutNotice) : Prop := (q.map fun x => askKind x.ask).Nodup

theorem KindsOnce.sublist {q r : List OutNotice} (h : KindsOnce q) (hr : r.Sublist q) : KindsOnce r :=
  List.Nodup.sublist (hr.map _) h

theorem KindsOnce.perm {q r : List OutNotice} (h : KindsOnce q) (hr : r.Perm q) : KindsOnce r :=
  (hr.map _).nodup_iff.mpr h

theorem kindsOnce_cons {x : OutNotice} {q : List OutNotice} (hx : ∀ y ∈ q, askKind y.ask ≠ askKind x.ask)
    (h : KindsOnce q) : KindsOnce (x :: q) := by
  refine List.nodup_cons.mpr ⟨fun hmem => ?_, h⟩
  obtain ⟨y, hy, hk⟩ := List.mem_map.mp hmem
  exact hx y hy hk

theorem kindsOnce_placeNotice (a : Ask) {waiting : List OutNotice} (h : KindsOnce waiting) :
    KindsOnce (placeNotice a waiting) := by
  by_cases hk : ∃ x ∈ waiting, askKind x.ask = askKind a
  · rw [placeNotice_replaces hk, KindsOnce, replaced_kinds]
    exact h
  · have hnew : KindsOnce (⟨a, 0⟩ :: waiting) := kindsOnce_cons (fun y hy hya => hk ⟨y, hy, hya⟩) h
    rw [placeNotice_new fun x hx hxa => hk ⟨x, hx, hxa⟩]
    split
    · exact hnew
    · exact hnew.perm (List.perm_append_singleton _ _)

/-! ### A notice asked for (R28 to R30) -/

section
variable {a : Ask} {n : Notices}

theorem absorbsRelease_iff (n : Notices) : absorbsRelease n = true ↔
    ∃ x ∈ waitingNotices n, askKind x.ask = .claim ∨ askKind x.ask = .take := by
  simp only [absorbsRelease, List.any_eq_true, Bool.or_eq_true, isKind_iff]

/-- A RELEASE asked for while a CLAIM or TAKE waits (R30). -/
def Absorbed (a : Ask) (n : Notices) : Prop :=
  askKind a = .release ∧ ∃ x ∈ waitingNotices n, askKind x.ask = .claim ∨ askKind x.ask = .take

theorem queueNotice_absorbed (h : Absorbed a n) : (queueNotice a n).queue = flyingNotices n ++
    (waitingNotices n).filter fun x => askKind x.ask ≠ .claim ∧ askKind x.ask ≠ .take := by
  rw [queueNotice, if_pos ⟨h.1, (absorbsRelease_iff n).mpr h.2⟩]
  refine congrArg (flyingNotices n ++ ·) (List.filter_congr fun x _ => ?_)
  rw [Bool.eq_iff_iff]
  simp [isKind_false_iff]

theorem queueNotice_placed (h : ¬ Absorbed a n) :
    (queueNotice a n).queue = flyingNotices n ++ placeNotice a (waitingNotices n) := by
  rw [queueNotice, if_neg fun hc => h ⟨hc.1, (absorbsRelease_iff n).mp hc.2⟩]

theorem not_absorbed (h : askKind a ≠ .release) : ¬ Absorbed a n := fun ha => h ha.1

/-- Only the queue changes. -/
theorem queueNotice_eq (a : Ask) (n : Notices) : queueNotice a n = { n with queue := (queueNotice a n).queue } := by
  unfold queueNotice; split <;> rfl

/-- What waits behind the notice in flight: a part of what waits and is placed anew. -/
theorem waitingNotices_behind (n : Notices) (q : List OutNotice) :
    (waitingNotices { n with queue := flyingNotices n ++ q }).Sublist q := by
  rw [waitingNotices_eq, flyingNotices_eq]
  dsimp only
  split
  · exact List.Sublist.refl _
  · cases n.queue with
    | nil => exact List.drop_sublist 1 q
    | cons e rest => exact List.Sublist.refl _

/-- The asking of a notice makes no kind wait twice. -/
theorem kindsOnce_queueNotice (a : Ask) (h : KindsOnce (waitingNotices n)) :
    KindsOnce (waitingNotices (queueNotice a n)) := by
  rw [queueNotice_eq]
  by_cases ha : Absorbed a n
  · rw [queueNotice_absorbed ha]
    exact (h.sublist List.filter_sublist).sublist (waitingNotices_behind n _)
  · rw [queueNotice_placed ha]
    exact (kindsOnce_placeNotice a h).sublist (waitingNotices_behind n _)

end

/-! ### The head settled after a loss (R27, R31) -/

theorem heldFirst_perm (q : List OutNotice) : (heldFirst q).Perm q := List.filter_append_perm _ q

theorem heldFirst_eq (q : List OutNotice) : heldFirst q =
    q.filter (fun x => askKind x.ask = .held) ++ q.filter (fun x => askKind x.ask ≠ .held) := by
  simp only [heldFirst, isKind_eq, decide_not]

/-- A CLAIM or a TAKE that meets a waiting RELEASE (R31). -/
def MeetsRelease (k : NoticeKind) (waiting : List OutNotice) : Prop :=
  (k = .claim ∨ k = .take) ∧ ∃ x ∈ waiting, askKind x.ask = .release

/-- What waits behind a lost notice of a kind, a RELEASE that it meets removed (R31). -/
def restBehind (k : NoticeKind) (waiting : List OutNotice) : List OutNotice :=
  if (k == .claim || k == .take) && waiting.any (isKind .release) then waiting.filter fun x => !isKind .release x
  else waiting

section
variable {lost : OutNotice} {k : NoticeKind} {waiting : List OutNotice}

theorem meetsRelease_iff (k : NoticeKind) (waiting : List OutNotice) :
    ((k == .claim || k == .take) && waiting.any (isKind .release)) = true ↔ MeetsRelease k waiting := by
  simp only [MeetsRelease, Bool.and_eq_true, Bool.or_eq_true, beq_iff_eq, List.any_eq_true, isKind_iff]

theorem restBehind_meets (h : MeetsRelease k waiting) :
    restBehind k waiting = waiting.filter fun x => askKind x.ask ≠ .release := by
  rw [restBehind, if_pos ((meetsRelease_iff k waiting).mpr h)]
  simp only [isKind_eq, decide_not]

theorem restBehind_alone (h : ¬ MeetsRelease k waiting) : restBehind k waiting = waiting :=
  if_neg fun hc => h ((meetsRelease_iff k waiting).mp hc)

theorem settleLoss_absorbed (lost : OutNotice) (waiting : List OutNotice) :
    (settleLoss lost waiting).absorbed = true ↔ MeetsRelease (askKind lost.ask) waiting :=
  meetsRelease_iff _ _

theorem settleLoss_dropped (lost : OutNotice) (waiting : List OutNotice) :
    (settleLoss lost waiting).dropped = if 16 ≤ lost.losses then some lost else none := by
  simp only [settleLoss, decide_eq_true_eq]; rfl

/-- At 16 losses what waits stands. -/
theorem settleLoss_spent (h : 16 ≤ lost.losses) :
    (settleLoss lost waiting).queue = heldFirst (restBehind (askKind lost.ask) waiting) := by
  have hspent : decide (Config.lossLimit ≤ lost.losses) = true := decide_eq_true h
  simp only [settleLoss, hspent, if_true, List.nil_append]; rfl

/-- Below them, what a loss leaves depends on a newer one of the lost notice's kind among those that wait. -/
theorem settleLoss_kept (h : lost.losses < 16) {head : List OutNotice} {newer : Option OutNotice}
    (hfind : (restBehind (askKind lost.ask) waiting).find? (isKind (askKind lost.ask)) = newer)
    (hhead : head = newer.elim (if (settleLoss lost waiting).absorbed then [] else [lost])
      fun x => [{ x with losses := lost.losses }]) :
    (settleLoss lost waiting).queue = heldFirst (head ++
      (restBehind (askKind lost.ask) waiting).filter fun x => !isKind (askKind lost.ask) x) := by
  have hspent : decide (Config.lossLimit ≤ lost.losses) = false := decide_eq_false (by simp [Config.lossLimit]; omega)
  have hrest : (if (askKind lost.ask == .claim || askKind lost.ask == .take) && waiting.any (isKind .release) then
      waiting.filter fun e => !isKind .release e else waiting) = restBehind (askKind lost.ask) waiting := rfl
  rw [hhead]
  unfold settleLoss
  dsimp only
  rw [hspent, hrest, hfind]
  cases newer <;> rfl

/-- With none of its kind waiting the notice returns to the head, unless it leaves with a RELEASE. -/
theorem settleLoss_newest (h : lost.losses < 16) (hnew : ∀ x ∈ waiting, askKind x.ask ≠ askKind lost.ask) :
    (settleLoss lost waiting).queue = heldFirst ((if (settleLoss lost waiting).absorbed then [] else [lost]) ++
      restBehind (askKind lost.ask) waiting) := by
  have hrest : ∀ x ∈ restBehind (askKind lost.ask) waiting, askKind x.ask ≠ askKind lost.ask := by
    unfold restBehind; split
    · exact fun x hx => hnew x (List.mem_of_mem_filter hx)
    · exact hnew
  have hothers : (restBehind (askKind lost.ask) waiting).filter (fun x => !isKind (askKind lost.ask) x) =
      restBehind (askKind lost.ask) waiting := List.filter_eq_self.mpr fun x hx => by
    rw [(isKind_false_iff _ _).mpr (hrest x hx)]; rfl
  rw [settleLoss_kept h (List.find?_eq_none.mpr fun x hx => by rw [isKind_iff]; exact hrest x hx) rfl, hothers]
  rfl

/-- A newer one of its kind takes the head and the count. -/
theorem settleLoss_newer (h : lost.losses < 16) {before behind : List OutNotice} {x : OutNotice}
    (hrest : restBehind (askKind lost.ask) waiting = before ++ x :: behind) (hx : askKind x.ask = askKind lost.ask)
    (hothers : ∀ y ∈ before ++ behind, askKind y.ask ≠ askKind lost.ask) : (settleLoss lost waiting).queue =
      heldFirst ({ x with losses := lost.losses } :: before ++ behind) := by
  have hkind : isKind (askKind lost.ask) x = true := (isKind_iff _ _).mpr hx
  have hother {y : OutNotice} (hy : y ∈ before ++ behind) : isKind (askKind lost.ask) y = false :=
    (isKind_false_iff _ _).mpr (hothers y hy)
  have hfind : (restBehind (askKind lost.ask) waiting).find? (isKind (askKind lost.ask)) = some x := by
    rw [hrest, List.find?_append, List.find?_eq_none.mpr fun y hy => by rw [hother (List.mem_append_left _ hy)]; decide,
      List.find?_cons_of_pos hkind]
    rfl
  have hleft : (before ++ x :: behind).filter (fun y => !isKind (askKind lost.ask) y) = before ++ behind := by
    rw [List.filter_append, List.filter_cons_of_neg (by rw [hkind]; decide), ← List.filter_append]
    exact List.filter_eq_self.mpr fun y hy => by rw [hother hy]; rfl
  rw [settleLoss_kept h hfind rfl, hrest, hleft]
  rfl

end

/-- The queue that a loss leaves holds no kind twice, where none waited twice behind the lost notice. -/
theorem kindsOnce_settleLoss (lost : OutNotice) {waiting : List OutNotice} (h : KindsOnce waiting) :
    KindsOnce (settleLoss lost waiting).queue := by
  have hrest : KindsOnce (restBehind (askKind lost.ask) waiting) := by
    unfold restBehind; split
    · exact h.sublist List.filter_sublist
    · exact h
  by_cases hspent : 16 ≤ lost.losses
  · rw [settleLoss_spent hspent]
    exact hrest.perm (heldFirst_perm _)
  · have hothers : KindsOnce ((restBehind (askKind lost.ask) waiting).filter fun x => !isKind (askKind lost.ask) x) :=
      hrest.sublist List.filter_sublist
    have hhead {x : OutNotice} (hx : askKind x.ask = askKind lost.ask) :
        KindsOnce (x :: (restBehind (askKind lost.ask) waiting).filter fun x => !isKind (askKind lost.ask) x) := by
      refine kindsOnce_cons (fun y hy hk => ?_) hothers
      have hne := (List.mem_filter.mp hy).2
      rw [Bool.not_eq_true', isKind_false_iff] at hne
      exact hne (hk.trans hx)
    rw [settleLoss_kept (by omega) rfl rfl]
    refine KindsOnce.perm ?_ (heldFirst_perm _)
    cases hnewer : (restBehind (askKind lost.ask) waiting).find? (isKind (askKind lost.ask)) with
    | some x =>
      have hkind : askKind x.ask = askKind lost.ask := (isKind_iff _ _).mp (List.find?_some hnewer)
      exact hhead (x := { x with losses := lost.losses }) hkind
    | none =>
      dsimp only [Option.elim]
      split
      · exact hothers
      · exact hhead rfl

end Sys2Proof.Machine

/-! What the blocks that hear of a notice leave alone of the notice interface, and the end of a notice (R19, R22, R32, R33,
R35, R38). -/

namespace Sys2Proof.Machine

/-! ### Chains outside the bus and outside the share -/

theorem takeRiseCheck_notices (s : State) : (takeRiseCheck s).notices = s.notices := by
  unfold takeRiseCheck changeAllowance; split
  · rfl
  · split <;> rfl

/-- An elementary change with the bus out of its scope does to the notice interface only what the asking of a notice
does, whatever it does to the share. -/
theorem Change.keeps_bus {sc : Scope} (hb : sc.bus = false) {s t : State} (h : Change sc s t) :
    BusKept s.notices t.notices := by
  cases h with
  | notices f s h => exact h.resolve_left (by simp [hb])
  | recompute => rw [recompute_notices]; exact ⟨rfl, fun _ => rfl, id⟩
  | riseCheck => rw [takeRiseCheck_notices]; exact ⟨rfl, fun _ => rfl, id⟩
  | _ => exact ⟨rfl, fun _ => rfl, id⟩

theorem Leads.keeps_bus {sc : Scope} (hb : sc.bus = false) {s t : State} (h : Leads sc s t) :
    BusKept s.notices t.notices :=
  h.keeps (P := fun u => BusKept s.notices u.notices) (fun _ _ c ih => ih.trans (c.keeps_bus hb))
    ⟨rfl, fun _ => rfl, id⟩

/-- An elementary change with the share out of its scope leaves the peer table alone. -/
theorem Change.keeps_share {sc : Scope} (hs : sc.share = false) {s t : State} (h : Change sc s t) :
    t.share = s.share := by
  cases h with
  | share _ hc => rw [hs] at hc; cases hc
  | recompute hc => rw [hs] at hc; cases hc
  | riseCheck hc => rw [hs] at hc; cases hc
  | _ => rfl

theorem Leads.keeps_share {sc : Scope} (hs : sc.share = false) {s t : State} (h : Leads sc s t) : t.share = s.share :=
  h.same State.share fun _ _ c => c.keeps_share hs

/-! ### The end of a notice of another party -/

section
variable {levels : List Bool} {s : State}

/-- A notice ends that the station takes: framing has begun, no attempt of its own stands, and the levels hold an end. -/
def NoticeEnds (levels : List Bool) (s : State) : Prop :=
  s.notices.framing = true ∧ s.notices.attempt = none ∧ (frameLevels levels).ended = true

theorem takeNotice_none (h : ¬ NoticeEnds levels s) : takeNotice levels s = s := by
  refine if_neg fun hc => h ?_
  simp only [Bool.and_eq_true, Bool.not_eq_true', Option.isSome_eq_false_iff, Option.isNone_iff_eq_none] at hc
  exact ⟨hc.1.1, hc.1.2, hc.2⟩

theorem takeNotice_bad (h : NoticeEnds levels s) (hn : heardNotice levels = none) :
    takeNotice levels s = takeBad (setNotices noticeEnded s) := by
  obtain ⟨hframing, hattempt, hended⟩ := h
  rw [takeNotice, hframing, hattempt, hended, hn]; rfl

theorem takeNotice_good {g : GoodNotice} (h : NoticeEnds levels s) (hg : heardNotice levels = some g) :
    takeNotice levels s = takeGood g (setNotices noticeEnded s) := by
  obtain ⟨hframing, hattempt, hended⟩ := h
  rw [takeNotice, hframing, hattempt, hended, hg]; rfl

end

/-- A DUPLICATE NUMBER report starts the holdoff, where none runs (R35). -/
theorem reportDuplicate_notices (g : GoodNotice) (s : State) : (reportDuplicate g s).notices =
    { s.notices with duplicateUntil := some (s.notices.duplicateUntil.getD (s.time + period s.settings)) } := by
  unfold reportDuplicate
  cases h : s.notices.duplicateUntil with
  | none =>
    rw [if_neg (by simp), setNotices_notices, queueReport_notices]
    rfl
  | some t => rw [if_pos (by rfl), Option.getD_some, ← h]

/-- The test for the own number, with its report (R33, R35). -/
def duplicateChecked (g : GoodNotice) (s : State) : State :=
  if g.sender.val = s.station.val then reportDuplicate g s else s

theorem duplicateChecked_clocks (g : GoodNotice) (s : State) :
    (duplicateChecked g s).time = s.time ∧ (duplicateChecked g s).settings = s.settings := by
  unfold duplicateChecked reportDuplicate; split
  · split
    · exact ⟨rfl, rfl⟩
    · obtain ⟨u, hu⟩ := queueReport_eq (.duplicateNumber (heardKind g.heard) g.sequence) s
      rw [hu]; exact ⟨rfl, rfl⟩
  · exact ⟨rfl, rfl⟩

theorem duplicateChecked_notices (g : GoodNotice) (s : State) : (duplicateChecked g s).notices =
    { s.notices with
      duplicateUntil :=
        if g.sender.val = s.station.val then some (s.notices.duplicateUntil.getD (s.time + period s.settings))
        else s.notices.duplicateUntil } := by
  unfold duplicateChecked; split
  · exact reportDuplicate_notices g s
  · rfl

/-- A good notice joins the bus and starts the isolation timer afresh, in a cabinet of several stations (R38, R39). -/
theorem countNotice_notices (s : State) : (countNotice s).notices = if s.settings.cabinet ≤ 1 then s.notices else
    { s.notices with condition := .joined, isolationAt := some (s.time + 4 * period s.settings) } := by
  unfold countNotice; split
  · rfl
  · rw [setCondition_notices]; rfl

/-- The notice interface as a good notice leaves it, before the blocks that act on the notice hear of it. -/
def noticesAfterGood (g : GoodNotice) (s : State) : Notices :=
  { noticeEnded s.notices with
    lastSender := g.sender
    condition := if s.settings.cabinet ≤ 1 then s.notices.condition else .joined
    isolationAt := if s.settings.cabinet ≤ 1 then s.notices.isolationAt else some (s.time + 4 * period s.settings)
    duplicateUntil := if g.sender.val = s.station.val then
      some (s.notices.duplicateUntil.getD (s.time + period s.settings)) else s.notices.duplicateUntil }

theorem takeGood_notices (g : GoodNotice) (s : State) : ∃ u, takeGood g (setNotices noticeEnded s) = handOn g u ∧
    u.notices = noticesAfterGood g s := by
  have htaken : takeGood g (setNotices noticeEnded s) =
      handOn g (countNotice (duplicateChecked g (setNotices (heardFrom g.sender) (setNotices noticeEnded s)))) := rfl
  obtain ⟨htime, hsettings⟩ := duplicateChecked_clocks g (setNotices (heardFrom g.sender) (setNotices noticeEnded s))
  refine ⟨_, htaken, ?_⟩
  rw [countNotice_notices, htime, hsettings, duplicateChecked_notices, setNotices_settings, setNotices_settings]
  split
  · next hc => simp only [noticesAfterGood, if_pos hc]; rfl
  · next hc => simp only [noticesAfterGood, if_neg hc]; rfl

/-- Settles O26: a bad notice is counted; behind a good one the blocks that hear of it leave the interface as the notice
has left it, but for the notices that they ask for. -/
theorem noticeEndCountsABadNoticeAndFollowsAGoodOne : Obligations.NoticeEndCountsABadNoticeAndFollowsAGoodOne := by
  intro levels recessive s hrun all ends
  have hexec : exec (.noticeEnd levels recessive) s = .next (settle (takeNotice all s)) :=
    congrArg _ (live_running hrun)
  refine ⟨fun h => ?_, fun h hbad => ?_, fun g h hgood => ?_⟩
  · rw [hexec, takeNotice_none h]
  · rw [hexec, takeNotice_bad h hbad]; rfl
  · obtain ⟨u, hu, hnotices⟩ := takeGood_notices g s
    have hleads : Leads { Scope.none with share := true, view := true } u (handOn g u) := leads_handOn rfl rfl g .refl
    have hkept := hleads.keeps_bus rfl
    rw [hnotices] at hkept
    have hattempt : (handOn g u).notices.attempt = none := (hkept.attempt rfl).trans h.2.1
    refine ⟨_, hexec, ?_⟩
    rw [settle_notices, takeNotice_good h hgood, hu]
    refine ⟨congrArg Notices.lastSender hkept.other, (congrArg Notices.badNotices hkept.other).trans rfl,
      congrArg Notices.receiving hkept.other, hattempt, congrArg Notices.permitted hkept.other,
      congrArg Notices.quiet hkept.other, fun hc => ⟨?_, ?_⟩, fun hc => ⟨?_, ?_⟩, ?_⟩
    · exact (congrArg Notices.condition hkept.other).trans (if_neg (by omega))
    · exact (congrArg Notices.isolationAt hkept.other).trans (if_neg (by omega))
    · exact (congrArg Notices.condition hkept.other).trans (if_pos hc)
    · exact (congrArg Notices.isolationAt hkept.other).trans (if_pos hc)
    · refine (congrArg Notices.duplicateUntil hkept.other).trans ?_
      cases hd : s.notices.duplicateUntil <;> simp [noticesAfterGood, noticeEnded, hd, period]

/-! ### The notice period (R36, R45, R49 to R51) -/

/-- The start of the head leaves the queue alone. -/
theorem askNotice_queue (a : Ask) (s : State) : (askNotice a s).notices.queue = (queueNotice a s.notices).queue := by
  unfold askNotice startHead; dsimp only
  split
  · split <;> rfl
  · rfl

/-- A notice that is not a RELEASE is found in the queue once it is asked for. -/
theorem mem_askNotice {a : Ask} (ha : askKind a ≠ .release) (s : State) : ∃ x ∈ (askNotice a s).notices.queue, x.ask = a := by
  obtain ⟨x, hx, hxa⟩ := mem_placeNotice a (waitingNotices s.notices)
  rw [askNotice_queue, queueNotice_placed (not_absorbed ha)]
  exact ⟨x, List.mem_append_right _ hx, hxa⟩

/-- The sample of a line and the rate that caps it (R49). -/
theorem demandSample_eq (period : Nat) (r : LineRec) : demandSample period r =
    min (match r.attainable with | some a => min (lineRate r.profile r.service) a | none => lineRate r.profile r.service)
      (r.offered * 8 / period) := by
  unfold demandSample lineCap
  cases r.attainable <;> rfl

/-- The step toward the sample, a quarter of the way and rounded up (R50). -/
theorem smooth_eq (d sample : Nat) :
    smooth d sample = if d ≤ sample then d + (sample - d + 3) / 4 else d - (d - sample + 3) / 4 := rfl

theorem advertised_eq (s : State) : advertised s = (min 524280 (((indices 12).map fun l => (lineOf s l).demand).sum +
    (if s.store.um = [] ∧ s.mgmt.reports = [] then 0 else 256)) + 7) / 8 * 8 := by
  simp only [advertised, Bool.and_eq_true, List.isEmpty_iff]
  rfl

/-- The state behind the demand updates of an expiry, whose timer runs on (R36, R49, R50). -/
def demandsUpdated (s : State) : State :=
  updateDemands (setShare (fun sh => { sh with periodAt := sh.periodAt.map (· + period s.settings) }) s)

/-- The state in which the STATUS of an expiry is asked for (R45, R51). -/
def demandsAdvertised (s : State) : State := recompute (advertise (advertised (demandsUpdated s)) (demandsUpdated s))

section
variable (s : State)

theorem demandsAdvertised_loader : (demandsAdvertised s).loader = s.loader := (recompute_frame _).2.2.2.1

theorem demandsAdvertised_line (l : Line) :
    lineOf (demandsAdvertised s) l = updateDemand (period s.settings) (lineOf s l) := by
  rw [demandsAdvertised, lineOf_recompute]
  exact look_tabulate ..

theorem demandsAdvertised_periodAt :
    (demandsAdvertised s).share.periodAt = s.share.periodAt.map (· + period s.settings) := by
  obtain ⟨-, -, -, -, -, -, -, -, -, -, -, -, -, -, -, hperiod⟩ :=
    recompute_frame (advertise (advertised (demandsUpdated s)) (demandsUpdated s))
  exact hperiod

theorem demandsAdvertised_peers : (demandsAdvertised s).share.peers = alter s.share.peers s.station fun p =>
    { p with demand := advertised (demandsUpdated s), weight := s.settings.weight } := by
  obtain ⟨-, -, -, -, -, -, -, -, -, -, -, -, -, hpeers, -⟩ :=
    recompute_frame (advertise (advertised (demandsUpdated s)) (demandsUpdated s))
  exact hpeers

/-- The demand that the own entry advertises is the sum of those that the expiry leaves, and M's (R51). -/
theorem advertised_demandsUpdated : advertised (demandsUpdated s) =
    (min 524280 (((indices 12).map fun l => (updateDemand (period s.settings) (lineOf s l)).demand).sum +
      (if s.store.um = [] ∧ s.mgmt.reports = [] then 0 else 256)) + 7) / 8 * 8 := by
  have hline (l : Line) : lineOf (demandsUpdated s) l = updateDemand (period s.settings) (lineOf s l) := look_tabulate ..
  rw [advertised_eq]
  simp only [hline]
  rfl

/-- The asking of the STATUS writes its allowance into the own entry, and leaves the rest of the share unit and the lines
alone (R45). -/
theorem askStatus_eq : ∃ n, askStatus s =
    { setPeer s.station (fun p => { p with allowance := roundUp8 s.share.allowance }) s with notices := n } :=
  askNotice_frame ..

theorem askStatus_share : (askStatus s).share = { s.share with
    peers := alter s.share.peers s.station fun p => { p with allowance := roundUp8 s.share.allowance } } := by
  obtain ⟨n, hn⟩ := askStatus_eq s
  rw [hn]; rfl

theorem askStatus_lines : (askStatus s).lines = s.lines := by
  obtain ⟨n, hn⟩ := askStatus_eq s
  rw [hn]; rfl

theorem mem_askStatus : ∃ x ∈ (askStatus s).notices.queue, x.ask =
    .status s.settings.weight ((peerOf s s.station).demand / 8) ((s.share.allowance + 7) / 8) := by
  have hunits : roundUp8 s.share.allowance / 8 = (s.share.allowance + 7) / 8 := Nat.mul_div_cancel _ (by decide)
  rw [← hunits]
  exact mem_askNotice (by simp [askKind]) _

end

/-- A line's demand and its offered bytes stand through the searches. -/
theorem settle_demand (s : State) (l : Line) :
    (lineOf (settle s) l).demand = (lineOf s l).demand ∧ (lineOf (settle s) l).offered = (lineOf s l).offered := by
  have hline := (undisturbed_settle s).lines l
  simp only [LineRec.mk.injEq] at hline
  obtain ⟨-, -, -, -, -, -, -, hdemand, hoffered, -⟩ := hline
  exact ⟨hdemand, hoffered⟩

/-- A demand estimate as an expiry leaves it (R49, R50). -/
theorem updateDemand_demand (period : Nat) (r : LineRec) : (updateDemand period r).demand =
    if r.service = .up ∨ r.service = .degraded then
      (if r.demand ≤ demandSample period r then r.demand + (demandSample period r - r.demand + 3) / 4
        else r.demand - (r.demand - demandSample period r + 3) / 4)
    else 0 := by
  simp only [updateDemand, inService_iff, smooth_eq]

/-- Settles O33: the expiry updates the demands, advertises them and asks for the STATUS; the searches leave all that
alone. -/
theorem noticePeriodExpiryUpdatesDemandsAndAsksForStatus :
    Obligations.NoticePeriodExpiryUpdatesDemandsAndAsksForStatus := by
  intro s hrun hdue
  have hexec : exec .noticePeriodExpiry s = .next (settle (askStatus (demandsAdvertised s))) :=
    congrArg _ (live_whenDue hrun ((periodDue_iff s).mpr hdue) _)
  have hstation : (demandsAdvertised s).station = s.station := by rw [State.station, demandsAdvertised_loader]; rfl
  have hweight : (demandsAdvertised s).settings = s.settings := by rw [State.settings, demandsAdvertised_loader]; rfl
  have hshare := askStatus_share (demandsAdvertised s)
  have hline (l : Line) : lineOf (askStatus (demandsAdvertised s)) l = updateDemand (period s.settings) (lineOf s l) := by
    rw [← demandsAdvertised_line]
    exact congrArg (look · l) (askStatus_lines _)
  have hown : look (askStatus (demandsAdvertised s)).share.peers s.station = { look s.share.peers s.station with
      demand := advertised (demandsUpdated s), weight := s.settings.weight
      allowance := roundUp8 (demandsAdvertised s).share.allowance } := by
    rw [hshare, hstation, look_alter_same, demandsAdvertised_peers, look_alter_same]
  refine ⟨_, hexec, ?_, fun l => ?_, ?_, ?_, ?_, fun j hj => ?_, ?_⟩
  · rw [settle_share, hshare]; exact demandsAdvertised_periodAt s
  · intro r rate sample
    obtain ⟨hdemand, hoffered⟩ := settle_demand (askStatus (demandsAdvertised s)) l
    have hsample : demandSample (period s.settings) r = sample := by
      have hrate : lineRate r.profile r.service = rate := by
        simp only [rate]
        cases r.service <;> rfl
      rw [demandSample_eq, hrate]
      rfl
    rw [hdemand, hoffered, hline, updateDemand_demand, ← hsample]
    exact ⟨rfl, rfl⟩
  · rw [settle_share, hown]
    simp only [(settle_demand _ _).1, hline]
    exact advertised_demandsUpdated s
  · rw [settle_share, hown]
  · rw [settle_share, hown, hshare]; rfl
  · rw [settle_share, hshare, hstation, look_alter_ne _ _ _ _ hj.symm, demandsAdvertised_peers,
      look_alter_ne _ _ _ _ hj.symm]
  · obtain ⟨x, hx, hxa⟩ := mem_askStatus (demandsAdvertised s)
    have hdemand : (peerOf (demandsAdvertised s) (demandsAdvertised s).station).demand = advertised (demandsUpdated s) := by
      rw [hstation, peerOf, demandsAdvertised_peers, look_alter_same]
    rw [settle_share, settle_notices, hown]
    refine ⟨x, hx, ?_⟩
    rw [hxa, hweight, hdemand, hshare]

end Sys2Proof.Machine

/-! What leaves the notice interface alone: the frame store, the scheduler, the distributor, the line table, supervision,
and those parts of the claim unit and of the test sequencer that ask for no notice. -/

namespace Sys2Proof.Machine

section
variable (s : State)

/-! ### Reports, cells and start opportunities -/

@[simp] theorem releaseEntries_notices (es : List Entry) : (releaseEntries es s).notices = s.notices :=
  (releaseEntries_frame es s).1.notices
@[simp] theorem releaseChain_notices (cells : List CellNo) : (releaseChain cells s).notices = s.notices :=
  (releaseChain_frame cells s).1.notices
@[simp] theorem respond_notices (code num : Byte) (a : Answer) (data : List Byte) (w : Bool) :
    (respond code num a data w s).notices = s.notices := (respond_frame code num a data w s).1.notices
@[simp] theorem startOpportunity_notices : (startOpportunity s).notices = s.notices :=
  (undisturbed_startOpportunity s).notices

/-! ### Reception of frames -/

@[simp] theorem countDrop_notices (l : Line) : (countDrop l s).notices = s.notices := rfl
@[simp] theorem countFlood_notices : (countFlood s).notices = s.notices := rfl
@[simp] theorem setLineRx_notices (l : Line) (r : LineRx) : (setLineRx l r s).notices = s.notices := rfl
@[simp] theorem setUplinkRx_notices (r : UplinkRx) : (setUplinkRx r s).notices = s.notices := rfl
@[simp] theorem countMalformed_notices : (countMalformed s).notices = s.notices := rfl

@[simp] theorem dropLineRx_notices (l : Line) : (dropLineRx l s).notices = s.notices := by
  unfold dropLineRx; split <;> simp

theorem classify_notices (tag : Nat) (kind : Byte) (n : Nat) : (classify tag kind n s).notices = s.notices := by
  unfold classify; split_ifs
  · rfl
  · rfl
  · rfl
  · rfl
  · split <;> rfl
  · rfl

theorem takeHeader_notices (header : List Byte) : (takeHeader header s).notices = s.notices := by
  unfold takeHeader; split
  · exact classify_notices s _ _ _
  · exact classify_notices s _ _ _
  · rfl

theorem admitFirst_notices (p : Port) (b : Byte) : (admitFirst p b s).notices = s.notices := by
  cases p with
  | line l =>
    simp only [admitFirst, admitLine]; split
    · rfl
    · split
      · split <;> rfl
      · rfl
  | uplink =>
    simp only [admitFirst, admitUplink]; split
    · split <;> rfl
    · rfl
    · split <;> rfl
    · rfl
    · rfl
    · rfl

@[simp] theorem dropDownstream_notices (r x : UplinkRx) : (dropDownstream r x s).notices = s.notices := by
  unfold dropDownstream; split <;> simp

theorem growFrame_notices (p : Port) (bytes : List Byte) : (growFrame p bytes s).notices = s.notices := by
  cases p with
  | line l =>
    simp only [growFrame, growLine]; split
    · split
      · split <;> simp
      · simp
    · rfl
  | uplink =>
    simp only [growFrame, growUplink]; split
    · split <;> simp
    · split <;> simp
    · simp
    · simp
    · rfl
    · rfl

@[simp] theorem checkPort_notices (l : Line) : (checkPort l s).notices = s.notices := by
  have hread : (readReady l s).notices = s.notices := by unfold readReady; split <;> rfl
  have htake (t : State) : (takeDown l t).notices = t.notices := by unfold takeDown; split <;> rfl
  unfold checkPort takeIfReady; split
  · rw [htake, lookDown, releaseEntries_notices]
    exact hread
  · exact hread

theorem checkPorts_notices (ls : List Line) : (ls.foldl (fun s l => checkPort l s) s).notices = s.notices := by
  induction ls generalizing s with
  | nil => rfl
  | cons l ls ih => exact (ih (checkPort l s)).trans (checkPort_notices s l)

theorem endFrame_notices (p : Port) (rest : List Byte) : (endFrame p rest s).notices = s.notices := by
  cases p with
  | line l =>
    simp only [endFrame, endLine]; split
    · rfl
    · rfl
    · split <;> simp
  | uplink =>
    simp only [endFrame, endUplink]; split
    · rfl
    · rfl
    · rfl
    · rfl
    · rfl
    · split <;> simp
    · split
      · exact checkPorts_notices _ _
      · simp

theorem abortFrame_notices (p : Port) : (abortFrame p s).notices = s.notices := by
  cases p with
  | line l => simp only [abortFrame, abortLine]; split <;> simp
  | uplink => simp only [abortFrame, abortUplink]; split <;> simp

theorem completeDown_notices (l : Line) : (completeDown l s).notices = s.notices := by
  unfold completeDown; split <;> simp

theorem takeUnderflow_notices (p : Pacer) : (takeUnderflow p s).notices = s.notices := by
  unfold takeUnderflow; split
  · split <;> rfl
  · split
    · unfold underflowStation; dsimp only; split <;> simp
    · rfl

theorem completeUp_notices : (completeUp s).notices = s.notices := by
  have hwait (f : UplinkFrame) (t : State) : (endWaitFor f t).notices = t.notices := by
    unfold endWaitFor; split <;> rfl
  unfold completeUp; split
  · rfl
  · dsimp only; split <;> simp [hwait]

/-! ### The line table and supervision -/

@[simp] theorem leaveService_notices (l : Line) : (leaveService l s).notices = s.notices := by
  have huplink (t : State) : (dropUplinkRx l t).notices = t.notices := by
    unfold dropUplinkRx; split
    · split <;> simp
    · split
      · dsimp only; split <;> simp
      · rfl
    · rfl
  have habandon (t : State) : (abandonFrame l t).notices = t.notices := by unfold abandonFrame; split <;> simp
  have hstop (t : State) : (stopLine l t).notices = t.notices := by
    obtain ⟨sc, hsc, -⟩ := stopLine_eq l t
    rw [hsc]
  unfold leaveService
  rw [setLine_notices, hstop, habandon, huplink, dropLineRx_notices, flushLine, releaseEntries_notices]
  rfl

@[simp] theorem serviceEffects_notices (l : Line) (old new : Service) :
    (serviceEffects l old new s).notices = s.notices := by
  by_cases h : inService old = true ∧ inService new = false
  · rw [serviceEffects_leaving l s h.1 h.2]; split <;> simp
  · rw [serviceEffects_staying l s h]; split
    · rfl
    · split <;> rfl

@[simp] theorem rederive_notices (l : Line) : (rederive l s).notices = s.notices := by
  by_cases h : (lineOf s l).service = deriveService (lineOf s l)
  · rw [rederive_same h]
  · rw [rederive_changed h, lineStateReport, queueReport_notices, rederived, serviceEffects_notices]
    rfl

@[simp] theorem followTimer_notices (l : Line) : (followTimer l s).notices = s.notices := rfl

@[simp] theorem setBarred_notices (l : Line) (b : Bool) : (setBarred l b s).notices = s.notices :=
  rederive_notices (setLine l (fun x => { x with barred := b }) s) l

@[simp] theorem setSync_notices (l : Line) (x : Sync) : (setSync l x s).notices = s.notices := by
  unfold setSync; dsimp only; split
  · rfl
  · rw [followTimer_notices, rederive_notices]; split <;> rfl

@[simp] theorem setTest_notices (l : Line) (x : TestCond) : (setTest l x s).notices = s.notices := by
  by_cases h : x = (lineOf s l).test
  · rw [setTest_same h]
  · rw [setTest_changed h, followTimer_notices, rederive_notices, setLine_notices]; split <;> rfl

theorem usePosition_notices (l : Line) (word : BitVec 48) : (usePosition l word s).notices = s.notices := by
  have halarm (a : Alarm) (old new : Bool) (t : State) : (alarmIfChanged l a old new t).notices = t.notices := by
    unfold alarmIfChanged; split <;> simp
  have hflags (t : State) : (debounceFlags l word t).notices = t.notices := by simp [debounceFlags, halarm]
  have hdecide (t : State) : (decideSync l t).notices = t.notices := by
    unfold decideSync; dsimp only; split
    · simp
    · split <;> simp
  unfold usePosition useReport; split
  · rfl
  · split
    · rfl
    · rw [hdecide, hflags]; rfl

theorem takePosition_notices (l : Line) (word : BitVec 48) : (takePosition l word s).1.notices = s.notices := by
  have hend (d : Second) (t : State) : (endSecond l d t).1.notices = t.notices := by
    unfold endSecond; dsimp only; split
    · exact setSync_notices _ _ _
    · rfl
  have hclose (t : State) : (closePosition l t).1.notices = t.notices := by
    unfold closePosition; dsimp only; split
    · rfl
    · exact hend _ _
  unfold takePosition; dsimp only; split
  · rfl
  · rw [hclose, usePosition_notices]; rfl

theorem takeMarker_notices (l : Line) (n : Nat) : (takeMarker l n s).notices = s.notices := by
  have hconfirm (b : Bool) : (confirm l b n s).notices = s.notices := by
    unfold confirm; dsimp only; split
    · rfl
    · split
      · rfl
      · exact queueReport_notices _ _
  unfold takeMarker; split
  · split
    · rfl
    · rfl
    · exact hconfirm _
  · rfl

/-! ### The relay and the run records -/

@[simp] theorem disconnect_notices : (disconnect s).notices = s.notices := by
  unfold disconnect; split
  · rfl
  · simp

@[simp] theorem leaveHolding_notices : (leaveHolding s).notices = s.notices := by simp [leaveHolding]

@[simp] theorem drive_notices (x : Stimulus) : (drive x s).notices = s.notices := rfl

@[simp] theorem connect_notices (l : Line) : (connect l s).notices = s.notices := by
  unfold connect; split
  · rfl
  · split
    · rfl
    · split
      · simp [closeRelay, startOperate]
      · split
        · rfl
        · simp

@[simp] theorem refreshTests_notices : (refreshTests s).notices = s.notices := rfl
@[simp] theorem clearActive_notices : (clearActive s).notices = s.notices := rfl
@[simp] theorem setActive_notices (f : Active → Active) : (setActive f s).notices = s.notices := rfl
@[simp] theorem setHazard_notices (l : Line) (b : Bool) : (setHazard l b s).notices = s.notices := rfl

@[simp] theorem endRecord_notices (r : Run) (o : RunOutcome) (k : Slot) : (endRecord r o k s).notices = s.notices := by
  unfold endRecord; dsimp only; split <;> simp

@[simp] theorem enterFront_notices (r : Run) : (enterFront r s).notices = s.notices := by
  unfold enterFront; dsimp only; rw [refreshTests_notices]; split <;> simp

@[simp] theorem enterTail_notices (r : Run) : (enterTail r s).notices = s.notices := rfl

@[simp] theorem suspendRun_notices (a : Active) (k : Slot) : (suspendRun a k s).notices = s.notices := by
  simp [suspendRun]

@[simp] theorem displaceWaiting_notices : (displaceWaiting s).notices = s.notices := by
  unfold displaceWaiting; split
  · split <;> simp
  · rfl

@[simp] theorem startSampling_notices : (startSampling s).notices = s.notices := rfl
@[simp] theorem startDischarging_notices : (startDischarging s).notices = s.notices := rfl

@[simp] theorem startSettling_notices (b : Bool) (a : Active) : (startSettling b a s).notices = s.notices := by
  unfold startSettling; split
  · rfl
  · dsimp only; split <;> simp

@[simp] theorem storeResult_notices (r : Run) (p : Step) (q : Quantity) (x : Result) :
    (storeResult r p q x s).notices = s.notices := by
  unfold storeResult; dsimp only; split
  · exact queueReport_notices _ _
  · rfl

/-! ### Requests that ask for no notice -/

@[simp] theorem done_notices (c n : Byte) (d : List Byte) : (done c n d s).notices = s.notices := respond_notices s _ _ _ _ _
@[simp] theorem refuse_notices (c n : Byte) (d : List Byte) : (refuse c n d s).notices = s.notices :=
  respond_notices s _ _ _ _ _
@[simp] theorem answer_notices (c n : Byte) (a : Answer) : (answer c n a s).notices = s.notices :=
  respond_notices s _ _ _ _ _

theorem setTagRequest_notices (num index : Byte) (tag : BitVec 16) (line cls : Byte) :
    (setTagRequest num index tag line cls s).notices = s.notices := by
  have hput (x : MapIndex) (e : Option MapEntry) : (putMap x e s).notices = s.notices := rfl
  have hplace (x : MapIndex) (l : Line) (c : FrameClass) : (placeTag num x tag.toNat l c s).notices = s.notices := by
    unfold placeTag; split
    · simp
    · split
      · split <;> simp [hput]
      · simp [hput]
  unfold setTagRequest; split
  · simp
  · split
    · split
      · simp
      · exact hplace _ _ _
    · simp

theorem clearTagRequest_notices (num index : Byte) : (clearTagRequest num index s).notices = s.notices := by
  unfold clearTagRequest putMap; split <;> simp

theorem writeStep_notices (num : Byte) (k : Slot) (p : Option Step) : (writeStep num k p s).notices = s.notices := by
  unfold writeStep; split <;> simp

theorem loadStepRequest_notices (num slot : Byte) (rec : RawStep) :
    (loadStepRequest num slot rec s).notices = s.notices := by
  unfold loadStepRequest; split
  · simp
  · split
    · exact writeStep_notices s _ _ _
    · simp

theorem emptyStepRequest_notices (num slot : Byte) : (emptyStepRequest num slot s).notices = s.notices := by
  unfold emptyStepRequest; split
  · simp
  · exact writeStep_notices s _ _ _

theorem restartRequest_notices (num : Byte) : (restartRequest num s).notices = s.notices := by simp [restartRequest]

theorem unknownRequest_notices (contents : List Byte) : (unknownRequest contents s).notices = s.notices := by
  unfold unknownRequest; split <;> simp

theorem realignLine_notices (n : Byte) (l : Line) : (realignLine n l s).notices = s.notices := by
  unfold realignLine; split
  · simp
  · dsimp only; rw [done_notices]; split <;> rfl

theorem clearLatch_notices (n : Byte) : (clearLatch n s).notices = s.notices := by
  unfold clearLatch; split <;> simp

end

end Sys2Proof.Machine

/-! The notices that a command asks for: what it does to the notice interface is a chain of askings. As for elementary
changes, the lemmas are stated for the end of a chain. -/

namespace Sys2Proof.Machine

/-- One link of a chain of askings: the notice interface stands, or a notice of a kind in `K` is asked for. -/
inductive Asking (K : NoticeKind → Prop) : State → State → Prop where
  | aside {s t : State} (h : t.notices = s.notices) : Asking K s t
  | asked (a : Ask) (s : State) (h : K (askKind a)) : Asking K s (askNotice a s)

/-- A chain of askings. -/
abbrev Asks (K : NoticeKind → Prop) : State → State → Prop := Relation.ReflTransGen (Asking K)

/-- What the asking of every notice of the kinds in `K` keeps of the notice interface stands through a chain of such
askings. -/
theorem Asks.keeps {K : NoticeKind → Prop} {P : Notices → Prop} {s t : State} (h : Asks K s t)
    (hP : ∀ a u, K (askKind a) → P u.notices → P (askNotice a u).notices) (hs : P s.notices) : P t.notices := by
  induction h with
  | refl => exact hs
  | tail _ c ih =>
    cases c with
    | aside hsame => rw [hsame]; exact ih
    | asked a _ hk => exact hP a _ hk ih

section
variable {K : NoticeKind → Prop} {s t : State}

theorem asks_aside {u : State} (hu : u.notices = t.notices) (h : Asks K s t) : Asks K s u := h.tail (.aside hu)

theorem asks_claims (f : Claims → Claims) (h : Asks K s t) : Asks K s (setClaims f t) := asks_aside (setClaims_notices f t) h
theorem asks_seq (f : Sequencer → Sequencer) (h : Asks K s t) : Asks K s (setSeq f t) := asks_aside (setSeq_notices f t) h
theorem asks_meas (f : Measurement → Measurement) (h : Asks K s t) : Asks K s (setMeas f t) :=
  asks_aside (setMeas_notices f t) h

theorem asks_askNotice (a : Ask) (hk : K (askKind a)) (h : Asks K s t) : Asks K s (askNotice a t) :=
  h.tail (.asked a t hk)

/-! ### A lost hold asks for nothing

The claim unit has left HOLDING when the sequencer hears of it: giving up again then takes back a recorded claim, and a
claim of a run made active is recorded. -/

/-- In RELEASING, with a notice interface. -/
def ReleasingWith (n : Notices) (s : State) : Prop := s.claims.own = .releasing ∧ s.notices = n

section
variable {n : Notices} {u : State}

theorem releasingWith_aside (hc : u.claims = t.claims) (hn : u.notices = t.notices) (h : ReleasingWith n t) :
    ReleasingWith n u := ⟨by rw [hc]; exact h.1, hn.trans h.2⟩

theorem endRecord_claims (r : Run) (o : RunOutcome) (k : Slot) (u : State) : (endRecord r o k u).claims = u.claims := by
  unfold endRecord; dsimp only; split
  · exact queueReport_claims _ _
  · exact queueReport_claims _ _

theorem releasingWith_endRecord (r : Run) (o : RunOutcome) (k : Slot) (h : ReleasingWith n t) :
    ReleasingWith n (endRecord r o k t) := releasingWith_aside (endRecord_claims r o k t) (endRecord_notices t r o k) h

theorem releasingWith_refreshTests (h : ReleasingWith n t) : ReleasingWith n (refreshTests t) :=
  releasingWith_aside rfl rfl h

theorem releasingWith_seq (f : Sequencer → Sequencer) (h : ReleasingWith n t) : ReleasingWith n (setSeq f t) :=
  releasingWith_aside rfl rfl h

theorem releasingWith_disconnect (h : ReleasingWith n t) : ReleasingWith n (disconnect t) :=
  ⟨(disconnect_claims t).2.1.trans h.1, (disconnect_notices t).trans h.2⟩

theorem releasingWith_decideHold (o : RunOutcome) (h : ReleasingWith n t) : ReleasingWith n (decideHold o t) := by
  unfold decideHold
  rw [if_pos (.inl (by rw [h.1]; decide))]
  exact h

theorem claimHead_releasing (x : ClaimTerms) (h : t.claims.own = .releasing) :
    claimHead x t = setClaims (fun cl => { cl with recorded := some x }) t := by simp only [claimHead, h]

theorem releasingWith_becomeActive (r : Run) (h : ReleasingWith n t) : ReleasingWith n (becomeActive r t) := by
  unfold becomeActive
  rw [if_neg (by rw [h.1]; decide), claimHead_releasing _ (releasingWith_refreshTests (releasingWith_seq _ h)).1]
  exact ⟨h.1, h.2⟩

theorem releasingWith_activate (h : ReleasingWith n t) : ReleasingWith n (activate t) := by
  have hupTo (m : Nat) {t : State} (h : ReleasingWith n t) : ReleasingWith n (activateUpTo m t) := by
    induction m generalizing t with
    | zero => exact h
    | succ m ih =>
      unfold activateUpTo; split
      · exact h
      · split
        · exact h
        · next r rest _ =>
          have hrest := releasingWith_seq (fun q => { q with queue := rest }) h
          dsimp only; split
          · exact ih (releasingWith_refreshTests (releasingWith_endRecord _ _ _ (releasingWith_decideHold _ hrest)))
          · exact releasingWith_becomeActive _ hrest
  exact hupTo _ h

theorem releasingWith_suspendRun (a : Active) (k : Slot) (h : ReleasingWith n t) :
    ReleasingWith n (suspendRun a k t) := by
  unfold suspendRun enterFront
  refine releasingWith_refreshTests ?_
  split
  · exact releasingWith_endRecord _ _ _ (releasingWith_seq _ (releasingWith_seq _ h))
  · exact releasingWith_seq _ (releasingWith_seq _ h)

theorem releasingWith_holdLost (h : ReleasingWith n t) : ReleasingWith n (holdLost t) := by
  unfold holdLost; split
  · exact releasingWith_activate (releasingWith_seq _ h)
  · split
    · exact h
    · split
      · exact h
      · split
        · exact releasingWith_activate (releasingWith_refreshTests (releasingWith_endRecord _ _ _
            (releasingWith_seq _ (releasingWith_decideHold _ (releasingWith_disconnect h)))))
        · split
          · exact releasingWith_activate (releasingWith_suspendRun _ _ h)
          · exact releasingWith_activate (releasingWith_refreshTests (releasingWith_endRecord _ _ _
              (releasingWith_seq _ (releasingWith_seq _ h))))

/-- A station that loses its hold is in RELEASING, and has asked for no notice yet (R135). -/
theorem loseHold_releasingWith (s : State) : ReleasingWith s.notices (loseHold s) :=
  releasingWith_holdLost ⟨rfl, leaveHolding_notices s⟩

end

/-- A completed STATUS of the station counted (R34). -/
def statusCounted (a : Ask) (n : Notices) : Notices :=
  { n with statusDone := if askKind a = .status then satAdd 2 n.statusDone 1 else n.statusDone }

/-! ### Claims (R129 to R135) -/

section
variable (hc : K .claim) (ht : K .take)
include hc

theorem asks_claimAsk (cl : Claims) (h : Asks K s t) : Asks K s (askNotice (claimAsk cl) t) := by
  refine asks_askNotice _ ?_ h
  unfold claimAsk; split <;> exact hc

omit hc in
include ht in
theorem asks_takeAsk (cl : Claims) (h : Asks K s t) : Asks K s (askNotice (takeAsk cl) t) := by
  refine asks_askNotice _ ?_ h
  unfold takeAsk; split <;> exact ht

omit hc in
include ht in
theorem asks_followTurn (h : Asks K s t) : Asks K s (followTurn t) := by
  unfold followTurn; split
  · exact asks_takeAsk ht _ (asks_claims _ h)
  · exact h

include ht

theorem asks_enterQueued (h : Asks K s t) : Asks K s (enterQueued t) :=
  asks_followTurn ht (asks_claimAsk hc _ (asks_claims _ h))

theorem asks_claimFromNone (x : ClaimTerms) (h : Asks K s t) : Asks K s (claimFromNone x t) := by
  unfold claimFromNone; dsimp only; split
  · exact asks_claims _ (asks_claims _ h)
  · exact asks_enterQueued hc ht (asks_claims _ h)

theorem asks_backToQueued (h : Asks K s t) : Asks K s (backToQueued t) := by
  unfold backToQueued; split
  · exact asks_followTurn ht (asks_claims _ h)
  · exact asks_enterQueued hc ht h

theorem asks_followOwn (h : Asks K s t) : Asks K s (followOwn t) := by
  unfold followOwn; split
  · exact asks_followTurn ht h
  · split
    · exact h
    · exact asks_enterQueued hc ht h
  · split
    · exact h
    · exact asks_aside (loseHold_releasingWith t).2 h
  · exact h

theorem asks_changeView (f : Claims → Claims) (h : Asks K s t) : Asks K s (changeView f t) :=
  asks_followOwn hc ht (asks_claims _ h)

theorem asks_ownTakeEnd (hold : Nat) (h : Asks K s t) : Asks K s (ownTakeEnd hold t) := by
  unfold ownTakeEnd; dsimp only; split
  · split
    · exact asks_claims _ (asks_claims _ h)
    · exact asks_backToQueued hc ht (asks_claims _ h)
  · exact asks_followOwn hc ht (asks_claims _ h)

theorem asks_endReleasing (h : Asks K s t) : Asks K s (endReleasing t) := by
  unfold endReleasing; dsimp only; split
  · exact asks_claimFromNone hc ht _ (asks_claims _ h)
  · exact asks_claims _ h

theorem asks_ownHoldOver (f : Claims → Claims) (h : Asks K s t) : Asks K s (ownHoldOver f t) := by
  unfold ownHoldOver; split
  · exact asks_endReleasing hc ht (asks_claims _ h)
  · exact asks_changeView hc ht f h

theorem asks_ownStatusEnd (b : Bool) (h : Asks K s t) : Asks K s (ownStatusEnd b t) := by
  have hwaiting : Asks K s (releaseWaitingClaim (changeView (viewStatus t.station b) t)) := by
    unfold releaseWaitingClaim; split
    · exact asks_enterQueued hc ht (asks_changeView hc ht _ h)
    · exact asks_changeView hc ht _ h
  unfold ownStatusEnd reclaimAfterStatus; split
  · dsimp only; split
    · exact asks_enterQueued hc ht (asks_claims _ hwaiting)
    · exact asks_claims _ hwaiting
  · exact hwaiting

/-- What the station's own notice does behind its completion (R34): a CLAIM or a TAKE may be asked for. -/
theorem asks_handOwn (a : Ask) (x : Attempt) : Asks K (setNotices (statusCounted a) t) (handOwn a x t) := by
  cases a with
  | status w d al =>
    exact asks_ownStatusEnd hc ht _ (asks_aside (by rw [ownStatusEntry, recompute_notices]; rfl) .refl)
  | claim p hold => exact asks_changeView hc ht _ (asks_aside rfl .refl)
  | take hold => exact asks_ownTakeEnd hc ht hold (asks_aside rfl .refl)
  | held => exact asks_changeView hc ht _ (asks_aside rfl .refl)
  | release => exact asks_ownHoldOver hc ht _ (asks_aside rfl .refl)

end

end

end Sys2Proof.Machine

/-! Every command of a running part as a chain of askings, behind what the notice interface does itself; so no step makes two
notices of one kind wait (R28 to R31). -/

namespace Sys2Proof.Machine

/-- A chain of askings of any kind. -/
abbrev AsksAny : State → State → Prop := Asks fun _ => True

section
variable {s t : State}

theorem asks_any (a : Ask) (h : AsksAny s t) : AsksAny s (askNotice a t) := asks_askNotice a trivial h

/-! ### The claim unit's requests, and the sequencer (R129, R142 to R151) -/

theorem asks_giveUp (h : AsksAny s t) : AsksAny s (giveUp t) := by
  unfold giveUp; split
  · exact asks_claims _ h
  · exact asks_any _ (asks_claims _ h)
  · exact asks_any _ (asks_claims _ h)
  · exact asks_any _ (asks_claims _ h)
  · exact asks_aside (leaveHolding_notices t) h
  · exact asks_claims _ h

theorem asks_claimHead (x : ClaimTerms) (h : AsksAny s t) : AsksAny s (claimHead x t) := by
  unfold claimHead; split
  · exact asks_claimFromNone trivial trivial x h
  · exact asks_enterQueued trivial trivial (asks_claims _ h)
  · exact asks_claims _ h
  · exact asks_claims _ h
  · exact h
  · exact asks_claims _ h

theorem asks_endRecord (r : Run) (o : RunOutcome) (k : Slot) (h : AsksAny s t) : AsksAny s (endRecord r o k t) :=
  asks_aside (endRecord_notices t r o k) h

theorem asks_refreshTests (h : AsksAny s t) : AsksAny s (refreshTests t) := asks_aside (refreshTests_notices t) h

theorem asks_disconnect (h : AsksAny s t) : AsksAny s (disconnect t) := asks_aside (disconnect_notices t) h

theorem asks_connect (l : Line) (h : AsksAny s t) : AsksAny s (connect l t) := asks_aside (connect_notices t l) h

theorem asks_drive (x : Stimulus) (h : AsksAny s t) : AsksAny s (drive x t) := asks_claims _ h

theorem asks_decideHold (o : RunOutcome) (h : AsksAny s t) : AsksAny s (decideHold o t) := by
  unfold decideHold; split
  · exact h
  · exact asks_giveUp h

theorem asks_becomeActive (r : Run) (h : AsksAny s t) : AsksAny s (becomeActive r t) := by
  unfold becomeActive; split
  · exact asks_connect _ (asks_refreshTests (asks_seq _ h))
  · exact asks_claimHead _ (asks_refreshTests (asks_seq _ h))

theorem asks_activate (h : AsksAny s t) : AsksAny s (activate t) := by
  have hupTo (n : Nat) {t : State} (h : AsksAny s t) : AsksAny s (activateUpTo n t) := by
    induction n generalizing t with
    | zero => exact h
    | succ n ih =>
      unfold activateUpTo; split
      · exact h
      · split
        · exact h
        · dsimp only; split
          · exact ih (asks_refreshTests (asks_endRecord _ _ _ (asks_decideHold _ (asks_seq _ h))))
          · exact asks_becomeActive _ (asks_seq _ h)
  exact hupTo _ h

theorem asks_finishEnding (a : Active) (h : AsksAny s t) : AsksAny s (finishEnding a t) :=
  asks_activate (asks_refreshTests (asks_endRecord _ _ _ (asks_seq _ (asks_decideHold _ (asks_disconnect h)))))

theorem asks_beginEnding (o : RunOutcome) (a : Active) (h : AsksAny s t) : AsksAny s (beginEnding o a t) := by
  unfold beginEnding; dsimp only; split
  · exact asks_drive _ (asks_seq _ h)
  · exact asks_finishEnding _ (asks_seq _ h)

theorem asks_startSampling (h : AsksAny s t) : AsksAny s (startSampling t) := asks_aside (startSampling_notices t) h

theorem asks_startSettling (b : Bool) (a : Active) (h : AsksAny s t) : AsksAny s (startSettling b a t) :=
  asks_aside (startSettling_notices t b a) h

theorem asks_startDischarging (h : AsksAny s t) : AsksAny s (startDischarging t) :=
  asks_aside (startDischarging_notices t) h

theorem asks_suspendRun (a : Active) (k : Slot) (h : AsksAny s t) : AsksAny s (suspendRun a k t) :=
  asks_aside (suspendRun_notices t a k) h

theorem asks_nextPhase (a : Active) (h : AsksAny s t) : AsksAny s (nextPhase a t) := by
  unfold nextPhase; split
  · exact h
  · dsimp only; split
    · exact asks_beginEnding _ _ (asks_seq _ h)
    · split
      · exact asks_beginEnding _ _ (asks_seq _ h)
      · split
        · exact asks_beginEnding _ _ (asks_aside (setLine_notices _ _ _) (asks_seq _ h))
        · split
          · exact asks_seq _ h
          · split
            · exact asks_activate (asks_suspendRun _ _ (asks_seq _ h))
            · exact asks_startSettling _ _ (asks_seq _ (asks_seq _ h))

theorem asks_headHeld (h : AsksAny s t) : AsksAny s (headHeld t) := by
  unfold headHeld; split
  · split
    · unfold startConnecting; dsimp only; split
      · exact asks_beginEnding _ _ (asks_seq _ h)
      · exact asks_connect _ (asks_seq _ h)
    · exact asks_giveUp h
  · exact asks_giveUp h

theorem asks_limitTaken (h : AsksAny s t) : AsksAny s (limitTaken t) := by
  unfold limitTaken; split
  · exact h
  · split
    · exact h
    · split
      · exact asks_beginEnding _ _ h
      · dsimp only; split
        · exact asks_drive _ (asks_seq _ (asks_suspendRun _ _ h))
        · exact asks_activate (asks_giveUp (asks_disconnect (asks_suspendRun _ _ h)))

theorem asks_setHazard (l : Line) (b : Bool) (h : AsksAny s t) : AsksAny s (setHazard l b t) :=
  asks_aside (setHazard_notices t l b) h

theorem asks_faultRun (r : Run) (k : Slot) (h : AsksAny s t) : AsksAny s (faultRun r k t) :=
  asks_endRecord _ _ _ (asks_decideHold _ (asks_seq _ h))

theorem asks_protectiveStop (h : AsksAny s t) : AsksAny s (protectiveStop t) := by
  unfold protectiveStop; split
  · next c _ =>
    have hopen := asks_setHazard c.line true (asks_disconnect (asks_seq (fun q => { q with closing := none }) h))
    dsimp only; split
    · exact asks_activate (asks_refreshTests (asks_faultRun _ _ (asks_seq _ hopen)))
    · exact asks_activate (asks_decideHold _ hopen)
  · exact asks_activate (asks_refreshTests (asks_faultRun _ _ (asks_seq _
      (asks_setHazard _ _ (asks_disconnect (asks_seq _ h))))))
  · exact asks_disconnect h

theorem asks_raiseTrigger (l : Line) (c : Cause) (h : AsksAny s t) : AsksAny s (raiseTrigger l c t) := by
  unfold raiseTrigger triggeredRequest; dsimp only; split
  · exact h
  · split
    · exact h
    · split
      · exact asks_endRecord _ _ _ (asks_seq _ h)
      · exact asks_activate (asks_aside (displaceWaiting_notices _) (asks_aside (enterFront_notices _ _) (asks_seq _ h)))

/-! ### Measurement (R155 to R162) -/

theorem asks_storeResult (run : Run) (p : Step) (q : Quantity) (r : Result) (h : AsksAny s t) :
    AsksAny s (storeResult run p q r t) := asks_aside (storeResult_notices t run p q r) h

theorem asks_afterFinal (a : Active) (p : Step) (h : AsksAny s t) : AsksAny s (afterFinal a p t) := by
  unfold afterFinal; split
  · split
    · exact asks_beginEnding _ _ h
    · exact asks_startDischarging h
  · exact asks_nextPhase _ h

theorem asks_endMeasurement (a : Active) (p : Step) (q : Quantity) (x : Wires) (h : AsksAny s t) :
    AsksAny s (endMeasurement a p q x t) := by
  unfold endMeasurement; dsimp only; split
  · exact asks_protectiveStop (asks_storeResult _ _ _ _ h)
  · split
    · unfold afterAnother; split
      · exact asks_startDischarging (asks_meas _ h)
      · exact asks_startSampling (asks_meas _ h)
    · exact asks_afterFinal _ _ (asks_storeResult _ _ _ _ (asks_meas _ h))

theorem asks_samplePair (v i : Int) (h : AsksAny s t) : AsksAny s (samplePair v i t) := by
  unfold samplePair takePair; split
  · exact asks_protectiveStop h
  · split
    · split
      · dsimp only; split
        · exact asks_meas _ h
        · split
          · exact asks_endMeasurement _ _ _ _ (asks_meas _ h)
          · exact asks_meas _ h
      · exact h
    · exact h

/-! ### What notices and timers do to claims (R124 to R135) -/

theorem asks_anyView (f : Claims → Claims) (h : AsksAny s t) : AsksAny s (changeView f t) :=
  asks_changeView trivial trivial f h

theorem asks_heardTake (k : StationNo) (n : Nat) (h : AsksAny s t) : AsksAny s (heardTake k n t) := by
  unfold heardTake; dsimp only; split
  · exact asks_any _ (asks_anyView _ h)
  · exact asks_anyView _ h

theorem asks_noticeDiscarded (k : NoticeKind) (h : AsksAny s t) : AsksAny s (noticeDiscarded k t) := by
  unfold noticeDiscarded; split
  · exact asks_enterQueued trivial trivial h
  · split
    · exact asks_any _ h
    · exact asks_backToQueued trivial trivial h
  · exact asks_ownHoldOver trivial trivial _ h
  · split
    · exact asks_anyView _ (asks_claims _ h)
    · exact h
  · split
    · exact asks_anyView _ h
    · exact h
  · split
    · exact asks_anyView _ h
    · exact h
  · exact h

theorem asks_releaseAbsorbed (h : AsksAny s t) : AsksAny s (releaseAbsorbed t) := by
  unfold releaseAbsorbed; split
  · split
    · exact h
    · exact asks_ownHoldOver trivial trivial _ h
  · exact h

theorem asks_queueReport (b : ReportBody) (h : AsksAny s t) : AsksAny s (queueReport b t) :=
  asks_aside (queueReport_notices b t) h

theorem asks_takeConfirm (b : Bool) (h : AsksAny s t) : AsksAny s (takeConfirm b t) := by
  unfold takeConfirm; dsimp only; split
  · exact asks_enterQueued trivial trivial (asks_any _ (asks_queueReport _ (asks_claims _ h)))
  · exact asks_headHeld (asks_claims _ (asks_claims _ h))

theorem asks_takeReleaseEnd (h : AsksAny s t) : AsksAny s (takeReleaseEnd t) := by
  unfold takeReleaseEnd; dsimp only; split
  · unfold releaseOccupancy; dsimp only; split
    · exact asks_releaseAbsorbed (asks_any _ (asks_claims _ (asks_claims _ h)))
    · exact asks_any _ (asks_claims _ (asks_claims _ h))
  · split
    · exact asks_connect _ (asks_claims _ h)
    · exact asks_claims _ h

theorem asks_takeOccupancyLoss (h : AsksAny s t) : AsksAny s (takeOccupancyLoss t) := by
  unfold takeOccupancyLoss; split
  · exact asks_aside (loseHold_releasingWith _).2 (asks_queueReport _ (asks_claims _ h))
  · exact h

/-! ### The timed events of the sequencer and of supervision -/

theorem asks_takeOperateEnd (h : AsksAny s t) : AsksAny s (takeOperateEnd t) := by
  unfold takeOperateEnd; split
  · split
    · exact asks_beginEnding _ _ h
    · exact asks_startSettling _ _ h
  · exact h

theorem asks_takeSettleEnd (h : AsksAny s t) : AsksAny s (takeSettleEnd t) := by
  unfold takeSettleEnd; split
  · split
    · exact asks_beginEnding _ _ h
    · exact asks_startSampling h
  · exact h

theorem asks_takeDischargeEnd (h : AsksAny s t) : AsksAny s (takeDischargeEnd t) := by
  unfold takeDischargeEnd; split
  · split
    · exact asks_beginEnding _ _ h
    · split
      · exact asks_nextPhase _ h
      · exact asks_startSettling _ _ h
  · exact h

theorem asks_takeEndingEnd (h : AsksAny s t) : AsksAny s (takeEndingEnd t) := by
  unfold takeEndingEnd; split
  · exact asks_activate (asks_giveUp (asks_disconnect (asks_seq _ h)))
  · exact asks_finishEnding _ h
  · exact h

theorem asks_takeReport (l : Line) (word : BitVec 48) (h : AsksAny s t) : AsksAny s (takeReport l word t) := by
  have hposition : AsksAny s (takePosition l word t).1 := asks_aside (takePosition_notices t l word) h
  unfold takeReport; split
  · dsimp only; split
    · exact asks_raiseTrigger _ _ hposition
    · exact hposition
  · split
    · exact asks_aside (setSup_notices _ _ _) h
    · exact h

/-! ### Peers, and what is heard of them -/

theorem asks_setPresence (k : StationNo) (x : Presence) (h : AsksAny s t) : AsksAny s (setPresence k x t) := by
  have htold (old new : Presence) {u : State} (h : AsksAny s u) : AsksAny s (tellPresence k old new u) := by
    unfold tellPresence; split
    · exact asks_anyView _ (asks_claims _ h)
    · split
      · exact asks_claims _ h
      · exact h
  unfold setPresence; dsimp only; split
  · exact h
  · exact htold _ _ (asks_aside (recompute_notices _) (asks_queueReport _ (asks_aside (setShare_notices _ _) h)))

theorem asks_peerStatus (k : StationNo) (n : Nat) (r b : Bool) (wt d a : Nat) (h : AsksAny s t) :
    AsksAny s (peerStatus k n r b wt d a t) := by
  have hpresence (f : Peer → Peer) (x : Presence) : AsksAny s (setPresence k x (setPeer k f t)) :=
    asks_setPresence k x (asks_aside (setShare_notices _ _) h)
  unfold peerStatus; dsimp only
  refine asks_aside (recompute_notices _) ?_
  split
  · exact asks_anyView _ (hpresence _ _)
  · exact hpresence _ _

theorem asks_handOn (g : GoodNotice) (h : AsksAny s t) : AsksAny s (handOn g t) := by
  have hpeers (k : StationNo) (n : Nat) (x : Heard) : AsksAny s (handToPeers k n x t) := by
    unfold handToPeers; split
    · exact asks_peerStatus _ _ _ _ _ _ _ h
    · exact asks_aside (setShare_notices _ _) h
  have hclaims (k : StationNo) (x : Heard) {u : State} (h : AsksAny s u) : AsksAny s (handToClaims k x u) := by
    unfold handToClaims; split
    · exact asks_anyView _ h
    · exact h
    · exact asks_anyView _ h
    · exact asks_heardTake _ _ h
    · exact asks_anyView _ h
    · exact asks_anyView _ h
  unfold handOn; dsimp only; split
  · exact asks_aside ((recompute_notices _).trans (setShare_notices _ _)) h
  · split
    · split
      · exact h
      · exact hclaims _ _ (hpeers _ _ _)
    · exact h

theorem asks_takeNoticePeriod (h : AsksAny s t) : AsksAny s (takeNoticePeriod t) := by
  unfold takeNoticePeriod noticePeriodWork askStatus
  exact asks_any _ (asks_aside ((setShare_notices _ _).trans (recompute_notices _)) (asks_aside (t := t) rfl h))

/-! ### Requests -/

theorem asks_onLine (c n l : Byte) (f : Line → State → State) (hf : ∀ l, AsksAny s (f l t)) (h : AsksAny s t) :
    AsksAny s (onLine c n l f t) := by
  unfold onLine; split
  · exact hf _
  · exact asks_aside (answer_notices _ _ _ _) h

theorem asks_done (c n : Byte) (d : List Byte) (h : AsksAny s t) : AsksAny s (done c n d t) :=
  asks_aside (done_notices t c n d) h

theorem asks_refuse (c n : Byte) (d : List Byte) (h : AsksAny s t) : AsksAny s (refuse c n d t) :=
  asks_aside (refuse_notices t c n d) h

theorem asks_submitRequest (n l k o : Byte) (h : AsksAny s t) : AsksAny s (submitRequest n l k o t) := by
  unfold submitRequest; split
  · split
    · exact asks_refuse _ _ _ h
    · exact asks_done _ _ _ (asks_activate (asks_aside (enterTail_notices _ _) (asks_seq _ h)))
  · exact asks_aside (answer_notices _ _ _ _) h

theorem asks_cancelRun (id : Nat) {u : State} (hu : cancelRun id t = some u) (h : AsksAny s t) : AsksAny s u := by
  unfold cancelRun at hu
  split at hu
  · cases hu
    exact asks_refreshTests (asks_endRecord _ _ _ (asks_seq _ h))
  · split at hu
    · cases hu; exact asks_seq _ h
    · split at hu
      · split at hu
        · unfold cancelActive at hu
          split at hu
          · cases hu
            exact asks_activate (asks_refreshTests (asks_endRecord _ _ _ (asks_seq _ (asks_giveUp h))))
          · split at hu
            · cases hu
            · cases hu; exact asks_seq _ h
        · cases hu
      · cases hu

theorem asks_cancelRequest (n i : Byte) (h : AsksAny s t) : AsksAny s (cancelRequest n i t) := by
  unfold cancelRequest; split
  · exact asks_aside (answer_notices _ _ _ _) h
  · split
    · next u hu => exact asks_done _ _ _ (asks_cancelRun _ hu h)
    · exact asks_refuse _ _ _ h

theorem asks_clearFaultLine (n : Byte) (l : Line) (h : AsksAny s t) : AsksAny s (clearFaultLine n l t) := by
  have hcleared : AsksAny s (discardFault l (setHazard l false t)) := asks_seq _ (asks_setHazard _ _ h)
  unfold clearFaultLine clearLineFault; dsimp only; split
  · split
    · split
      · split
        · exact asks_refuse _ _ _ h
        · exact asks_done _ _ _ (asks_activate (asks_aside (enterTail_notices _ _) hcleared))
      · exact asks_done _ _ _ hcleared
    · exact asks_done _ _ _ hcleared
  · exact asks_refuse _ _ _ h

theorem asks_requestEffect (c : Instr) (h : AsksAny s t) : AsksAny s (requestEffect c t) := by
  have hbar (n : Byte) (b : Bool) (k : Byte) (l : Line) : AsksAny s (barTo k n b l t) :=
    asks_done _ _ _ (asks_aside (setBarred_notices _ _ _) h)
  cases c <;> simp only [requestEffect]
  case readLine n l => exact asks_onLine _ _ _ _ (fun _ => asks_done _ _ _ h) h
  case readStation n => exact asks_done _ _ _ h
  case readPeers n => exact asks_done _ _ _ h
  case readResults n l => exact asks_onLine _ _ _ _ (fun _ => asks_done _ _ _ h) h
  case barLine n l => exact asks_onLine _ _ _ _ (fun _ => hbar _ _ _ _) h
  case unbarLine n l => exact asks_onLine _ _ _ _ (fun _ => hbar _ _ _ _) h
  case setTag n x t l c => exact asks_aside (setTagRequest_notices _ _ _ _ _ _) h
  case clearTag n x => exact asks_aside (clearTagRequest_notices _ _ _) h
  case loadStep n k r => exact asks_aside (loadStepRequest_notices _ _ _ _) h
  case loadStepEmpty n k => exact asks_aside (emptyStepRequest_notices _ _ _) h
  case submitRun n l k o => exact asks_submitRequest _ _ _ _ h
  case cancelRun n i => exact asks_cancelRequest _ _ h
  case clearFault n l => exact asks_onLine _ _ _ _ (fun _ => asks_clearFaultLine _ _ h) h
  case clearFaultLatch n => exact asks_aside (clearLatch_notices _ _) h
  case realign n l => exact asks_onLine _ _ _ _ (fun _ => asks_aside (realignLine_notices _ _ _) h) h
  case restart n => exact asks_aside (restartRequest_notices _ _) h
  case unknown c => exact asks_aside (unknownRequest_notices _ _) h
  all_goals exact h

theorem asks_request (f : State → State) (hf : ∀ t, AsksAny s t → AsksAny s (f t)) (h : AsksAny s t) :
    AsksAny s (request f t) := by
  have hended : AsksAny s (setStore endRequestFrame t) := asks_aside (setStore_notices _ _) h
  unfold request; dsimp only; split
  · exact hf _ hended
  · exact hended

theorem asks_takeRequest (c : Instr) (h : AsksAny s t) : AsksAny s (takeRequest c t) :=
  asks_request _ (fun _ h => asks_requestEffect _ h) h

theorem asks_takeFrameEnd (p : Port) (rest : List Byte) (h : AsksAny s t) : AsksAny s (takeFrameEnd p rest t) := by
  unfold takeFrameEnd; split
  · exact asks_request _ (fun _ h => asks_requestEffect _ h) h
  · exact asks_aside (endFrame_notices _ _ _) h

end

end Sys2Proof.Machine

/-! No step makes two notices of one kind wait (R28 to R31). -/

namespace Sys2Proof.Machine

/-- No kind of notice waits twice. -/
def WaitsOnce (n : Notices) : Prop := KindsOnce (waitingNotices n)

section
variable {n m : Notices} {s t : State}

theorem WaitsOnce.congr (h : WaitsOnce n) (hq : m.queue = n.queue) (ha : m.attempt.isSome = n.attempt.isSome) :
    WaitsOnce m := by
  unfold WaitsOnce waitingNotices
  rw [hq, ha]
  exact h

/-- The start of the head takes it from those that wait. -/
theorem waitsOnce_startHead (h : WaitsOnce s.notices) : WaitsOnce (startHead s).notices := by
  have hbegin (a : Ask) : WaitsOnce (beginAttempt a s).notices :=
    KindsOnce.sublist h (by
      unfold waitingNotices; split
      · split
        · exact List.Sublist.refl _
        · exact List.drop_sublist 1 s.notices.queue
      · next hnone => exact absurd rfl hnone)
  unfold startHead; dsimp only; split
  · split
    · exact h
    · exact hbegin _
  · exact h

theorem waitsOnce_askNotice (a : Ask) (h : WaitsOnce s.notices) : WaitsOnce (askNotice a s).notices :=
  waitsOnce_startHead (kindsOnce_queueNotice a h)

theorem AsksAny.keeps_waitsOnce (h : AsksAny s t) (hs : WaitsOnce s.notices) : WaitsOnce t.notices :=
  h.keeps (P := WaitsOnce) (fun a _ _ h => waitsOnce_askNotice a h) hs

/-! ### The events of the notice interface -/

theorem waitsOnce_takeNotice (levels : List Bool) (h : WaitsOnce s.notices) :
    WaitsOnce (takeNotice levels s).notices := by
  by_cases hends : NoticeEnds levels s
  · cases hheard : heardNotice levels with
    | none =>
      rw [takeNotice_bad hends hheard]
      exact h.congr rfl rfl
    | some g =>
      obtain ⟨u, hu, hnotices⟩ := takeGood_notices g s
      rw [takeNotice_good hends hheard, hu]
      refine AsksAny.keeps_waitsOnce (asks_handOn g .refl) ?_
      rw [hnotices]
      exact h.congr rfl rfl
  · rw [takeNotice_none hends]; exact h

theorem takeCompletion_eq {a : Attempt} {e : OutNotice} {rest : List OutNotice} (ha : s.notices.attempt = some a)
    (hq : s.notices.queue = e :: rest) :
    takeCompletion s = handOwn e.ask a (setNotices (completeAttempt s.station a) s) := by
  rw [takeCompletion, ha, hq]

/-- The completed notice leaves the head; those that have waited wait on. -/
theorem waitsOnce_takeCompletion (h : WaitsOnce s.notices) : WaitsOnce (takeCompletion s).notices := by
  unfold takeCompletion; split
  · next a e rest ha hq =>
    refine AsksAny.keeps_waitsOnce (asks_handOwn trivial trivial e.ask a) ?_
    have hwaiting : waitingNotices s.notices = rest := by rw [waitingNotices, ha, hq]; rfl
    have hafter : waitingNotices (completeAttempt s.station a s.notices) = rest := by
      rw [waitingNotices_idle rfl, completeAttempt, hq]; rfl
    unfold WaitsOnce at h ⊢
    rw [hwaiting] at h
    rw [setNotices_notices, setNotices_notices]
    exact hafter ▸ h
  · exact h

theorem waitsOnce_takeLoss (h : WaitsOnce s.notices) : WaitsOnce (takeLoss s).notices := by
  unfold takeLoss; split
  · next a e waiting ha hq =>
    dsimp only
    have hwaiting : waitingNotices s.notices = waiting := by rw [waitingNotices, ha, hq]; rfl
    have hsettled : WaitsOnce (setNotices (loseAttempt
        (settleLoss { e with losses := e.losses + 1 } waiting).queue a) s).notices := by
      rw [WaitsOnce, waitingNotices_idle rfl]
      exact kindsOnce_settleLoss _ (hwaiting ▸ h)
    generalize setNotices (loseAttempt (settleLoss { e with losses := e.losses + 1 } waiting).queue a) s = u at hsettled
    have hdropped : AsksAny u (match (settleLoss { e with losses := e.losses + 1 } waiting).dropped with
        | some d => reportDropped d u
        | none => u) := by
      split
      · exact asks_noticeDiscarded _ (asks_queueReport _ .refl)
      · exact .refl
    split
    · exact AsksAny.keeps_waitsOnce (asks_releaseAbsorbed hdropped) hsettled
    · exact hdropped.keeps_waitsOnce hsettled
  · exact h

theorem waitsOnce_setCondition (c : BusCondition) (h : WaitsOnce s.notices) : WaitsOnce (setCondition c s).notices := by
  rw [setCondition_notices]; exact h.congr rfl rfl

theorem waitsOnce_takeRecessiveRun (h : WaitsOnce s.notices) : WaitsOnce (takeRecessiveRun s).notices := by
  unfold takeRecessiveRun; split
  · exact h
  · exact h.congr rfl rfl

theorem waitsOnce_takeStartBit (h : WaitsOnce s.notices) : WaitsOnce (takeStartBit s).notices := by
  unfold takeStartBit; split
  · exact h.congr rfl rfl
  · exact h

/-! ### Every command of a running part -/

theorem waitsOnce_live (f : State → State) (hf : WaitsOnce s.notices → WaitsOnce (f s).notices)
    (h : WaitsOnce s.notices) : WaitsOnce (live f s).notices := by
  unfold live; split
  · rw [settle_notices]; exact hf h
  · exact h

theorem waitsOnce_whenDue (due : State → Bool) (f : State → State) (hf : WaitsOnce s.notices → WaitsOnce (f s).notices)
    (h : WaitsOnce s.notices) : WaitsOnce (whenDue due f s).notices := by
  unfold whenDue; split
  · exact hf h
  · exact h

/-- A command of a running part makes no two notices of one kind wait. -/
theorem exec_waitsOnce (c : Instr) (hc : isLive c = true) (h : WaitsOnce s.notices) :
    ∃ t, exec c s = .next t ∧ WaitsOnce t.notices := by
  have hlive {f : State → State} (hf : WaitsOnce s.notices → WaitsOnce (f s).notices) : WaitsOnce (live f s).notices :=
    waitsOnce_live f hf h
  have hsame {f : State → State} (hf : (f s).notices = s.notices) : WaitsOnce (live f s).notices :=
    hlive fun h => hf ▸ h
  have hasks {f : State → State} (hf : AsksAny s (f s)) : WaitsOnce (live f s).notices := hlive hf.keeps_waitsOnce
  have hdue {due : State → Bool} {f : State → State} (hf : WaitsOnce s.notices → WaitsOnce (f s).notices) :
      WaitsOnce (live (whenDue due f) s).notices := hlive (waitsOnce_whenDue due f hf)
  have htimer {due : State → Bool} {f : State → State} (hf : AsksAny s (f s)) :
      WaitsOnce (live (whenDue due f) s).notices := hdue hf.keeps_waitsOnce
  have hrequest (d : Instr) : WaitsOnce (live (takeRequest d) s).notices := hasks (asks_takeRequest d .refl)
  cases c with
  | powerOn => cases hc
  | pwrgoodFall => cases hc
  | restartStart => cases hc
  | configurationReadEnd => cases hc
  | firstRecessiveRun => exact ⟨_, rfl, hlive waitsOnce_takeRecessiveRun⟩
  | noticeEnd b e => exact ⟨_, rfl, hlive (waitsOnce_takeNotice _)⟩
  | duplicateNumberHoldoffExpiry => exact ⟨_, rfl, hdue fun h => h.congr rfl rfl⟩
  | noticeCompletion => exact ⟨_, rfl, hlive waitsOnce_takeCompletion⟩
  | contentionLoss => exact ⟨_, rfl, hlive waitsOnce_takeLoss⟩
  | accessGapExpiry => exact ⟨_, rfl, hdue fun h => waitsOnce_startHead (h.congr rfl rfl)⟩
  | busQuietTimeout => exact ⟨_, rfl, hdue fun h => waitsOnce_startHead (h.congr rfl rfl)⟩
  | isolationTimerExpiry => exact ⟨_, rfl, hdue fun h => waitsOnce_setCondition _ (h.congr rfl rfl)⟩
  | noticePeriodExpiry => exact ⟨_, rfl, htimer (asks_takeNoticePeriod .refl)⟩
  | presenceTimerExpiry k => exact ⟨_, rfl, htimer (asks_setPresence _ _ .refl)⟩
  | capacityViewExpiry => exact ⟨_, rfl, hdue id⟩
  | riseCheck => exact ⟨_, rfl, hdue fun h => by rw [takeRiseCheck_notices]; exact h⟩
  | firstCellAdmission p b => exact ⟨_, rfl, hsame (admitFirst_notices s p b)⟩
  | furtherCellNeeded p b => exact ⟨_, rfl, hsame (growFrame_notices s p _)⟩
  | frameReceptionEnd p b => exact ⟨_, rfl, hasks (asks_takeFrameEnd p _ .refl)⟩
  | frameAbortReceived p => exact ⟨_, rfl, hsame (abortFrame_notices s p)⟩
  | uplinkHeaderEnd t k n => exact ⟨_, rfl, hsame (takeHeader_notices s _)⟩
  | pacingUnderflow p => exact ⟨_, rfl, hsame (takeUnderflow_notices s p)⟩
  | uplinkTransmissionComplete => exact ⟨_, rfl, hsame (completeUp_notices s)⟩
  | lpRdyAsserted l => exact ⟨_, rfl, hsame (checkPort_notices _ l)⟩
  | lpRdyWithdrawn l => exact ⟨_, rfl, hsame rfl⟩
  | linePortTransmissionComplete l => exact ⟨_, rfl, hsame (completeDown_notices s l)⟩
  | searchMarkerFound l n => exact ⟨_, rfl, hsame (takeMarker_notices s l n)⟩
  | searchTimeExpiry l => exact ⟨_, rfl, htimer (asks_aside (setSync_notices s l _) .refl)⟩
  | reportPositionEnd l word => exact ⟨_, rfl, hasks (asks_takeReport l word .refl)⟩
  | losTriggerTimerExpiry l => exact ⟨_, rfl, htimer (asks_raiseTrigger l _ (asks_aside (setSup_notices _ _ _) .refl))⟩
  | holdExpiry => exact ⟨_, rfl, htimer (asks_anyView _ .refl)⟩
  | turnLapse => exact ⟨_, rfl, htimer (asks_anyView _ .refl)⟩
  | confirmWindowEnd b => exact ⟨_, rfl, htimer (asks_takeConfirm b .refl)⟩
  | relayReleaseTimeEnd => exact ⟨_, rfl, htimer (asks_takeReleaseEnd .refl)⟩
  | ownHoldLimit => exact ⟨_, rfl, htimer (asks_limitTaken (asks_claims _ .refl))⟩
  | occupancyLoss => exact ⟨_, rfl, hasks (asks_takeOccupancyLoss .refl)⟩
  | operateTimeEnd => exact ⟨_, rfl, htimer (asks_takeOperateEnd .refl)⟩
  | settleTimeEnd => exact ⟨_, rfl, htimer (asks_takeSettleEnd .refl)⟩
  | dischargeTimeEnd => exact ⟨_, rfl, htimer (asks_takeDischargeEnd .refl)⟩
  | endingDischargeEnd => exact ⟨_, rfl, htimer (asks_takeEndingEnd .refl)⟩
  | holdoffExpiry l => exact ⟨_, rfl, htimer (asks_seq _ .refl)⟩
  | sampleTaken v i => exact ⟨_, rfl, hasks (asks_samplePair _ _ .refl)⟩
  | sampleFrameFault => exact ⟨_, rfl, hsame rfl⟩
  | readLine => exact ⟨_, rfl, hrequest _⟩
  | readStation => exact ⟨_, rfl, hrequest _⟩
  | readPeers => exact ⟨_, rfl, hrequest _⟩
  | readResults => exact ⟨_, rfl, hrequest _⟩
  | barLine => exact ⟨_, rfl, hrequest _⟩
  | unbarLine => exact ⟨_, rfl, hrequest _⟩
  | setTag => exact ⟨_, rfl, hrequest _⟩
  | clearTag => exact ⟨_, rfl, hrequest _⟩
  | loadStep => exact ⟨_, rfl, hrequest _⟩
  | loadStepEmpty => exact ⟨_, rfl, hrequest _⟩
  | submitRun => exact ⟨_, rfl, hrequest _⟩
  | cancelRun => exact ⟨_, rfl, hrequest _⟩
  | clearFault => exact ⟨_, rfl, hrequest _⟩
  | clearFaultLatch => exact ⟨_, rfl, hrequest _⟩
  | realign => exact ⟨_, rfl, hrequest _⟩
  | restart => exact ⟨_, rfl, hrequest _⟩
  | unknown => exact ⟨_, rfl, hrequest _⟩
  | restartWaitTimeout => exact ⟨_, rfl, hdue id⟩
  | startBitRead => exact ⟨_, rfl, hlive waitsOnce_takeStartBit⟩
  | upstreamByteArrival l => exact ⟨_, rfl, hsame rfl⟩

theorem stepKeeps_noticesSound : StepKeeps NoticesSound where
  pending _ _ hs := hs
  clocks s hs := by rw [tickClocks_eq]; exact hs
  tick s hs hp := by
    rw [tickRunning_eq, tickClocks_eq] at hp ⊢
    exact WaitsOnce.congr (hs hp) rfl Option.isSome_map
  live c hc s t hs he hp := by
    obtain ⟨u, hu, hleads⟩ := exec_leads c hc s
    rw [he] at hu; cases hu
    obtain ⟨v, hv, hwaits⟩ := exec_waitsOnce c hc (s := s) (hs (by rw [← hleads.power]; exact hp))
    rw [he] at hv; cases hv
    exact hwaits
  powerUp _ _ _ := List.nodup_nil
  cutOff _ _ hp := absurd rfl hp
  restart _ _ _ := List.nodup_nil
  opens straps b s _ _ := by
    rw [(opened_undisturbed straps b s).notices]
    exact List.nodup_nil

end

/-- Settles O31: the place of a notice asked for by what waits of its kind; the step lemma through the chains of askings of
every command. -/
theorem noKindOfNoticeWaitsTwice : Obligations.NoKindOfNoticeWaitsTwice := by
  refine ⟨fun a n => ?_, fun _ _ => stepKeeps_noticesSound.step⟩
  rw [← waitingNotices_eq, ← flyingNotices_eq]
  intro waiting flying after absorbed
  have hplaced (h : ¬ absorbed) : after.queue = flying ++ placeNotice a waiting := queueNotice_placed h
  have hafter : (if n.attempt = none then after.queue else after.queue.drop 1) = waitingNotices after := by
    have hattempt : after.attempt = n.attempt := by
      simp only [after]
      rw [queueNotice_eq]
    rw [waitingNotices_eq, hattempt]
  refine ⟨queueNotice_eq a n, queueNotice_absorbed, fun h hnew => ?_,
    fun h before x behind hw hx hothers => ?_, fun h => ?_⟩
  · rw [hplaced h, placeNotice_new hnew]
    split
    · rfl
    · rw [List.append_assoc]
  · rw [hplaced h, placeNotice_replaces ⟨x, by rw [hw]; simp, hx⟩, hw, List.map_append, List.map_cons, if_pos hx,
      replaced_others fun y hy => hothers y (List.mem_append_left _ hy),
      replaced_others fun y hy => hothers y (List.mem_append_right _ hy), List.append_assoc]
  · rw [hafter]
    exact kindsOnce_queueNotice a h

end Sys2Proof.Machine

/-! The own claim behind a change of the view (R129, R130, R135), and the completion of the station's own notices. -/

namespace Sys2Proof.Machine

section
variable {s : State}

/-! ### The own turn, and the notices with which the station claims -/

theorem ownTurn_iff (s : State) : ownTurn s = true ↔
    s.claims.holder = none ∧ s.claims.queue.head?.map (·.station) = some s.station := by
  simp [ownTurn, headStation]

theorem askKind_claimAsk (cl : Claims) : askKind (claimAsk cl) = .claim := by unfold claimAsk; split <;> rfl

theorem askKind_takeAsk (cl : Claims) : askKind (takeAsk cl) = .take := by unfold takeAsk; split <;> rfl

theorem claimAsk_inForce {cl : Claims} {c : ClaimTerms} (h : cl.inForce = some c) :
    claimAsk cl = .claim c.priority c.hold := by rw [claimAsk, h]

theorem takeAsk_inForce {cl : Claims} {c : ClaimTerms} (h : cl.inForce = some c) : takeAsk cl = .take c.hold := by
  rw [takeAsk, h]

@[simp] theorem askNotice_station (a : Ask) (s : State) : (askNotice a s).station = s.station := by
  obtain ⟨n, hn⟩ := askNotice_frame a s
  rw [hn]; rfl

/-- What stands in the queue stands behind a notice of another kind that removes nothing. -/
theorem mem_askNotice_of_mem {a : Ask} {x : OutNotice} (hx : x ∈ s.notices.queue) (ha : askKind a ≠ .release)
    (hk : askKind x.ask ≠ askKind a) : x ∈ (askNotice a s).notices.queue := by
  rw [askNotice_queue, queueNotice_placed (not_absorbed ha), List.mem_append]
  have hsplit : flyingNotices s.notices ++ waitingNotices s.notices = s.notices.queue := by
    rw [flyingNotices_eq, waitingNotices_eq]
    split
    · rfl
    · exact List.take_append_drop 1 _
  rw [← hsplit, List.mem_append] at hx
  exact hx.imp_right fun hw => mem_placeNotice_of_mem hw hk

/-! ### QUEUED and TURN (R129, R130) -/

theorem followTurn_still (h : ¬ (s.claims.own = .queued ∧ ownTurn s = true)) : followTurn s = s :=
  if_neg (by simpa using h)

theorem followTurn_turns (hq : s.claims.own = .queued) (ht : ownTurn s = true) :
    followTurn s = askNotice (takeAsk s.claims) (setClaims (fun cl => { cl with own := .turn }) s) :=
  if_pos (by simp [hq, ht])

theorem followTurn_claims (hq : s.claims.own = .queued) :
    (followTurn s).claims = { s.claims with own := if ownTurn s = true then .turn else .queued } := by
  by_cases ht : ownTurn s = true
  · rw [followTurn_turns hq ht, askNotice_claims, if_pos ht]; rfl
  · rw [followTurn_still fun h => ht h.2, if_neg ht, ← hq]

/-- The state in which a CLAIM of the claim in force has been asked for, before the turn is looked at (R129). -/
def claimAsked (s : State) : State :=
  askNotice (claimAsk s.claims)
    (setClaims (fun cl => { cl with own := .queued, waiting := false, confirmAt := none, ownLimit := none }) s)

theorem enterQueued_eq (s : State) : enterQueued s = followTurn (claimAsked s) := rfl

theorem claimAsked_claims (s : State) : (claimAsked s).claims =
    { s.claims with own := .queued, waiting := false, confirmAt := none, ownLimit := none } := askNotice_claims _ _

theorem ownTurn_claimAsked (s : State) : ownTurn (claimAsked s) = ownTurn s := by
  have hstation : (claimAsked s).station = s.station := askNotice_station _ _
  rw [Bool.eq_iff_iff, ownTurn_iff, ownTurn_iff, hstation, claimAsked_claims]

theorem enterQueued_claims (s : State) : (enterQueued s).claims = { s.claims with
    own := if ownTurn s = true then .turn else .queued, waiting := false, confirmAt := none, ownLimit := none } := by
  have hqueued : (claimAsked s).claims.own = .queued := by rw [claimAsked_claims]
  rw [enterQueued_eq, followTurn_claims hqueued, ownTurn_claimAsked, claimAsked_claims]

/-- The CLAIM stands in the queue, whether or not a TAKE follows it at once. -/
theorem mem_enterQueued {c : ClaimTerms} (h : s.claims.inForce = some c) :
    ∃ x ∈ (enterQueued s).notices.queue, x.ask = .claim c.priority c.hold := by
  have hasked : ∃ x ∈ (claimAsked s).notices.queue, x.ask = claimAsk s.claims :=
    mem_askNotice (by rw [askKind_claimAsk]; decide) _
  obtain ⟨x, hx, hxa⟩ := hasked
  refine ⟨x, ?_, hxa.trans (claimAsk_inForce h)⟩
  rw [enterQueued_eq]
  by_cases ht : (claimAsked s).claims.own = .queued ∧ ownTurn (claimAsked s) = true
  · rw [followTurn_turns ht.1 ht.2]
    refine mem_askNotice_of_mem hx ?_ ?_
    · rw [askKind_takeAsk]; decide
    · rw [hxa, askKind_takeAsk, askKind_claimAsk]; decide
  · rw [followTurn_still ht]; exact hx

/-! ### The own claim behind a change of the view -/

theorem followOwn_queued (h : s.claims.own = .queued) : followOwn s = followTurn s := by simp only [followOwn, h]

/-- In NONE, in TURN and in RELEASING the own claim does not follow the view. -/
theorem followOwn_apart (h : s.claims.own = .none ∨ s.claims.own = .turn ∨ s.claims.own = .releasing) :
    followOwn s = s := by
  rcases h with h | h | h <;> simp only [followOwn, h]

/-- Nor does it where the station is the holder of its own view. -/
theorem followOwn_holder (h : s.claims.holder = some s.station) : followOwn s = s := by
  cases ho : s.claims.own with
  | queued =>
    rw [followOwn_queued ho]
    refine followTurn_still fun ht => ?_
    rw [ownTurn_iff, h] at ht
    cases ht.2.1
  | taking => simp only [followOwn, ho, h, if_true]
  | holding => simp only [followOwn, ho, h, if_true]
  | none => exact followOwn_apart (.inl ho)
  | turn => exact followOwn_apart (.inr (.inl ho))
  | releasing => exact followOwn_apart (.inr (.inr ho))

/-- The holder, its queue and its expiry stand as the change of the view has left them. -/
theorem followOwn_heldView (s : State) : heldView (followOwn s) = heldView s :=
  Leads.same (sc := Scope.none) heldView (fun _ _ c => c.keeps_heldView rfl) (leads_followOwn .refl)

theorem endReleasing_heldView (s : State) : heldView (endReleasing s) = heldView s :=
  Leads.same (sc := Scope.none) heldView (fun _ _ c => c.keeps_heldView rfl) (leads_endReleasing .refl)

/-! ### The end of RELEASING (R129, R135) -/

theorem releaseToCome_iff (s : State) : releaseToCome s = true ↔
    s.claims.releaseAt ≠ none ∨ ∃ x ∈ waitingNotices s.notices, askKind x.ask = .release := by
  simp only [releaseToCome, Bool.or_eq_true, Option.isSome_iff_ne_none, List.any_eq_true, isKind_iff]

/-- RELEASING ends with the next RELEASE where the release time has passed and none waits behind it. -/
theorem releaseToCome_iff_not (s : State) : releaseToCome s = true ↔
    ¬ (s.claims.releaseAt = none ∧ ∀ x ∈ waitingNotices s.notices, askKind x.ask ≠ .release) := by
  simp only [releaseToCome_iff, not_and, not_forall, not_not, exists_prop]
  exact or_iff_not_imp_left.trans (by rw [ne_eq, not_not])

theorem ownHoldOver_ends {f : Claims → Claims} (ho : s.claims.own = .releasing) (h : ¬ releaseToCome s = true) :
    ownHoldOver f s = endReleasing (setClaims (withTurn s.time f) s) := if_pos ⟨ho, by simpa using h⟩

theorem ownHoldOver_stands {f : Claims → Claims} (h : s.claims.own = .releasing → releaseToCome s = true) :
    ownHoldOver f s = changeView f s := if_neg fun hc => by rw [h hc.1] at hc; cases hc.2

theorem endReleasing_ends (h : s.claims.recorded = none) :
    endReleasing s = setClaims (fun cl => { cl with own := .none, inForce := none, recorded := none }) s := by
  simp only [endReleasing, h]

/-- A recorded claim is acted on in NONE. -/
theorem endReleasing_claims {c : ClaimTerms} (h : s.claims.recorded = some c) : endReleasing s =
    claimFromNone c (setClaims (fun cl => { cl with own := .none, inForce := none, recorded := none }) s) := by
  simp only [endReleasing, h]

theorem claimFromNone_ready {c : ClaimTerms} (h : 2 ≤ s.notices.statusDone) :
    claimFromNone c s = enterQueued (setClaims (fun cl => { cl with inForce := some c }) s) := if_neg (by omega)

/-- Once two STATUS notices have completed, a recorded claim is asked for at the end of RELEASING. -/
theorem endReleasing_recorded {c : ClaimTerms} (h : s.claims.recorded = some c) (hdone : 2 ≤ s.notices.statusDone) :
    (endReleasing s).claims.inForce = some c ∧ (endReleasing s).claims.recorded = none ∧
    ((endReleasing s).claims.own = .queued ∨ (endReleasing s).claims.own = .turn) ∧
    ∃ x ∈ (endReleasing s).notices.queue, x.ask = .claim c.priority c.hold := by
  rw [endReleasing_claims h, claimFromNone_ready (by exact hdone)]
  refine ⟨?_, ?_, ?_, mem_enterQueued rfl⟩
  · rw [enterQueued_claims]; rfl
  · rw [enterQueued_claims]; rfl
  · rw [enterQueued_claims]
    dsimp only
    split
    · exact .inr rfl
    · exact .inl rfl

end

end Sys2Proof.Machine

/-! The completion of the station's own notice (R20, R22, R31, R34, R45, R124 to R126, R129 to R131, R135). -/

namespace Sys2Proof.Machine

/-! ### What every own notice leaves behind it -/

section
variable (a : Ask) (x : Attempt) (s : State)

theorem settle_claims : (settle s).claims = s.claims := (undisturbed_settle s).claims

/-- A notice of any kind but STATUS moves the view and the own claim alone. -/
theorem leads_handOwn_view {a : Ask} (ha : askKind a ≠ .status) :
    Leads { Scope.none with view := true } s (handOwn a x s) := by
  cases a with
  | status => exact absurd rfl ha
  | claim p hold => exact leads_changeView rfl _ (.claim _ _ _) .refl
  | take hold => exact leads_ownTakeEnd rfl hold .refl
  | held => exact leads_changeView rfl _ (.held _ _) .refl
  | release => exact leads_ownHoldOver rfl _ (.release _) .refl

/-- The own entry as a completed STATUS stamps it (R45). -/
def stamped (p : Peer) : Peer :=
  { p with lastStatus := some s.time, holding := x.holding, lastSequence := some x.sequence }

/-- The state in which the claim unit hears of a completed STATUS. -/
def statusEntered : State :=
  ownStatusEntry x.sequence x.holding (setNotices (fun n => { n with statusDone := satAdd 2 n.statusDone 1 }) s)

theorem handOwn_status (w d al : Nat) :
    handOwn (.status w d al) x s = ownStatusEnd x.holding (statusEntered x s) := rfl

theorem statusEntered_peers : (statusEntered x s).share.peers = alter s.share.peers s.station (stamped x s) := by
  obtain ⟨-, -, -, -, -, -, -, -, -, -, -, -, -, hpeers, -⟩ := recompute_frame (setPeer s.station (stamped x s)
    (setNotices (fun n => { n with statusDone := satAdd 2 n.statusDone 1 }) s))
  exact hpeers

theorem statusEntered_claims : (statusEntered x s).claims = s.claims :=
  (recompute_rest _).2.2.2.2

theorem statusEntered_notices : (statusEntered x s).notices = statusCounted (.status 0 0 0) s.notices :=
  recompute_notices _

/-- A STATUS stamps the own entry; no other peer entry changes, and no other notice changes any (R45). -/
theorem handOwn_peers : (handOwn a x s).share.peers =
    if askKind a = .status then alter s.share.peers s.station (stamped x s) else s.share.peers := by
  cases a with
  | status w d al =>
    have hleads : Leads { Scope.none with view := true } (statusEntered x s) (handOwn (.status w d al) x s) :=
      leads_ownStatusEnd rfl _ .refl
    rw [hleads.keeps_share rfl, statusEntered_peers]; rfl
  | _ => rw [(leads_handOwn_view x s (by simp [askKind])).keeps_share rfl]; rfl

/-- The notice interface stands but for the count of completed STATUS notices and the notices asked for. -/
theorem handOwn_kept : BusKept (statusCounted a s.notices) (handOwn a x s).notices := by
  cases a with
  | status w d al =>
    have hleads : Leads { Scope.none with view := true } (statusEntered x s) (handOwn (.status w d al) x s) :=
      leads_ownStatusEnd rfl _ .refl
    have hkept := hleads.keeps_bus rfl
    rw [statusEntered_notices] at hkept
    exact hkept
  | _ => exact (leads_handOwn_view x s (by simp [askKind])).keeps_bus rfl

end

/-- The notices of a queue that a completion leaves alone: all but CLAIM and TAKE. -/
def lasting (q : List OutNotice) : List OutNotice :=
  q.filter fun x => decide (askKind x.ask ≠ .claim ∧ askKind x.ask ≠ .take)

/-- No attempt stands, the gap has not passed, and the queue holds the lasting notices of another. -/
def LastingIs (q : List OutNotice) (n : Notices) : Prop :=
  n.attempt = none ∧ n.gapPassed = false ∧ lasting n.queue = q

/-- A CLAIM or a TAKE asked for leaves the lasting notices alone. -/
theorem lastingIs_askNotice {q : List OutNotice} {a : Ask} {s : State} (ha : askKind a = .claim ∨ askKind a = .take)
    (h : LastingIs q s.notices) : LastingIs q (askNotice a s).notices := by
  obtain ⟨hattempt, hgap, hlasting⟩ := h
  have hrelease : askKind a ≠ .release := by rcases ha with ha | ha <;> rw [ha] <;> decide
  have hdropped : decide (askKind a ≠ .claim ∧ askKind a ≠ .take) = false := by rcases ha with ha | ha <;> simp [ha]
  rw [askNotice_waits a s (.inl hgap), setNotices_notices, queueNotice_eq]
  refine ⟨hattempt, hgap, ?_⟩
  rw [lasting, queueNotice_placed (not_absorbed hrelease), flyingNotices_idle hattempt, waitingNotices_idle hattempt,
    List.nil_append, filter_placeNotice (p := fun k => decide (k ≠ .claim ∧ k ≠ .take)) hdropped]
  exact hlasting

theorem handOwn_lasting (a : Ask) (x : Attempt) {s : State} (hattempt : s.notices.attempt = none)
    (hgap : s.notices.gapPassed = false) : lasting (handOwn a x s).notices.queue = lasting s.notices.queue := by
  have hasks : Asks (fun k => k = .claim ∨ k = .take) (setNotices (statusCounted a) s) (handOwn a x s) :=
    asks_handOwn (.inl rfl) (.inr rfl) a x
  exact (hasks.keeps (P := LastingIs (lasting s.notices.queue)) (fun _ _ => lastingIs_askNotice)
    ⟨hattempt, hgap, rfl⟩).2.2

/-! ### A station that does not claim -/

section
variable {s : State}

/-- In NONE a change of the view changes nothing else. -/
theorem changeView_none (f : Claims → Claims) (hf : (withTurn s.time f s.claims).own = s.claims.own)
    (h : s.claims.own = .none) : changeView f s = setClaims (withTurn s.time f) s :=
  followOwn_apart (.inl (hf.trans h))

/-- A station in NONE with no claim that waits asks for nothing at the end of an own notice. -/
theorem handOwn_idle (a : Ask) (x : Attempt) (ho : s.claims.own = .none) (hw : s.claims.waiting = false) :
    (handOwn a x s).notices.queue = s.notices.queue := by
  have hview {f : Claims → Claims} (hf : ViewMove s.time s.station s.claims (withTurn s.time f s.claims)) :
      (changeView f s).notices.queue = s.notices.queue := by
    rw [changeView_none f hf.standing.2.2 ho]; rfl
  cases a with
  | status w d al =>
    have hclaims := statusEntered_claims x s
    have hmove : ViewMove (statusEntered x s).time (statusEntered x s).station (statusEntered x s).claims
        (withTurn (statusEntered x s).time (viewStatus (statusEntered x s).station x.holding) (statusEntered x s).claims) :=
      .status _ _
    have hnone : (statusEntered x s).claims.own = .none := by rw [hclaims]; exact ho
    have hwaiting : (withTurn (statusEntered x s).time (viewStatus (statusEntered x s).station x.holding)
        (statusEntered x s).claims).waiting = false := by
      rw [hclaims, withTurn, viewStatus]; split <;> exact hw
    have hqueue : (statusEntered x s).notices.queue = s.notices.queue := by rw [statusEntered_notices]; rfl
    rw [handOwn_status, ownStatusEnd, changeView_none _ hmove.standing.2.2 hnone, releaseWaitingClaim, if_neg (by
      rw [setClaims_claims, hwaiting]; simp), reclaimAfterStatus]
    split
    · dsimp only
      rw [if_neg (by rw [setClaims_claims, setClaims_claims, hmove.standing.2.2, hnone]; decide)]
      exact hqueue
    · exact hqueue
  | claim p hold => exact hview (.claim _ _ _)
  | take hold =>
    have hmove : ViewMove s.time s.station s.claims (withTurn s.time (viewTake s.time s.station hold) s.claims) := .take _ _
    have hend : ownTakeEnd hold s = followOwn (setClaims (withTurn s.time (viewTake s.time s.station hold)) s) :=
      if_neg (by rw [ho]; decide)
    rw [handOwn, hend, followOwn_apart (.inl (hmove.standing.2.2.trans ho))]; rfl
  | held => exact hview (.held _ _)
  | release =>
    rw [handOwn, ownReleaseEnd, ownHoldOver_stands fun h => by rw [ho] at h; cases h]
    exact hview (.release _)

/-! ### The end of the own CLAIM (R124, R130) -/

theorem viewClaim_holder (k : StationNo) (p : Priority) (hold : Nat) (cl : Claims) :
    (viewClaim k p hold cl).holder = cl.holder ∧ (viewClaim k p hold cl).expiry = cl.expiry ∧
    (viewClaim k p hold cl).own = cl.own ∧ (viewClaim k p hold cl).inForce = cl.inForce := by
  unfold viewClaim; split <;> exact ⟨rfl, rfl, rfl, rfl⟩

theorem ownClaimEnd_heldView (p : Priority) (hold : Nat) (s : State) : heldView (ownClaimEnd p hold s) =
    (s.claims.holder, (viewClaim s.station p hold s.claims).queue, s.claims.expiry) := by
  obtain ⟨hholder, hexpiry, -⟩ := viewClaim_holder s.station p hold s.claims
  rw [ownClaimEnd, changeView, followOwn_heldView, heldView, setClaims_claims, withTurn, hholder, hexpiry]

/-- A holder's CLAIM does not enter its queue. -/
theorem viewClaim_ofHolder {k : StationNo} {cl : Claims} (p : Priority) (hold : Nat) (h : cl.holder = some k) :
    viewClaim k p hold cl = cl := if_pos (by simp [h])

/-- A station without an entry enters the queue, behind the TRIGGERED entries or at the tail. -/
theorem viewClaim_enters {k : StationNo} {cl : Claims} (p : Priority) (hold : Nat) (hk : look cl.present k = true)
    (hholder : cl.holder ≠ some k) (hnew : ∀ c ∈ cl.queue, c.station ≠ k) :
    (viewClaim k p hold cl).queue = placeClaimant cl.queue ⟨k, p, hold⟩ := by
  have hfind : (cl.queue.find? fun c => decide (c.station = k)) = none :=
    List.find?_eq_none.mpr fun c hc => by simpa using hnew c hc
  rw [viewClaim, if_neg (by simp [hk, hholder]), queueAfterClaim, hfind]

theorem placeClaimant_triggered (q : List Claimant) (k : StationNo) (hold : Nat) :
    placeClaimant q ⟨k, .triggered, hold⟩ = q.takeWhile (fun d => d.priority = .triggered) ++
      ⟨k, .triggered, hold⟩ :: q.dropWhile (fun d => d.priority = .triggered) := by
  have hurgent : isUrgent = fun d : Claimant => decide (d.priority = .triggered) :=
    funext fun d => by cases hd : d.priority <;> simp [isUrgent, hd]
  rw [← hurgent]; rfl

/-- A station in QUEUED whose entry comes to the head of a free bus enters TURN, and asks for its TAKE (R130). -/
theorem ownClaimEnd_queued (p : Priority) (hold : Nat) (h : s.claims.own = .queued) :
    ∃ w : State, ownClaimEnd p hold s = followTurn w ∧ w.claims.own = .queued ∧ w.claims.inForce = s.claims.inForce ∧
      (ownTurn w = true ↔ s.claims.holder = none ∧
        (ownClaimEnd p hold s).claims.queue.head?.map (·.station) = some s.station) := by
  obtain ⟨hholder, -, hown, hforce⟩ := viewClaim_holder s.station p hold s.claims
  have hqueued : (setClaims (withTurn s.time (viewClaim s.station p hold)) s).claims.own = .queued := hown.trans h
  have hqueue := congrArg (fun v => v.2.1) (ownClaimEnd_heldView p hold s)
  dsimp only [heldView] at hqueue
  refine ⟨_, followOwn_queued hqueued, hqueued, hforce, ?_⟩
  rw [ownTurn_iff, hqueue, ← hholder]
  rfl

/-! ### The end of the own TAKE (R125, R130, R131) -/

/-- Under no holder the station takes the head. -/
theorem ownTakeEnd_free (hold : Nat) (ho : s.claims.own = .turn) (hk : look s.claims.present s.station = true)
    (hnone : s.claims.holder = none) : ownTakeEnd hold s = enterTaking hold
      (setClaims (withTurn s.time (makeHolder s.station (s.time + hold * 100 + Config.holdMargin))) s) := by
  have hview : setClaims (withTurn s.time (viewTake s.time s.station hold)) s =
      setClaims (withTurn s.time (makeHolder s.station (s.time + hold * 100 + Config.holdMargin))) s := by
    simp [setClaims, withTurn, viewTake, hk, hnone]
  unfold ownTakeEnd
  rw [if_pos ho, hview]
  exact if_pos rfl

/-- Under another holder the view stands, and the station goes back to QUEUED. -/
theorem ownTakeEnd_held {k : StationNo} (hold : Nat) (ho : s.claims.own = .turn) (hk : s.claims.holder = some k)
    (hne : k ≠ s.station) : ownTakeEnd hold s = backToQueued (setClaims (withTurn s.time id) s) := by
  have hview : setClaims (withTurn s.time (viewTake s.time s.station hold)) s = setClaims (withTurn s.time id) s := by
    simp [setClaims, withTurn, viewTake, hk]
  unfold ownTakeEnd
  rw [if_pos ho, hview]
  refine if_neg fun h => hne ?_
  exact Option.some.inj (hk.symm.trans h)

theorem ownQueued_iff (s : State) : ownQueued s = true ↔ ∃ c ∈ s.claims.queue, c.station = s.station := by
  simp [ownQueued]

theorem backToQueued_entered {k : StationNo} (hk : s.claims.holder = some k)
    (h : ∃ c ∈ s.claims.queue, c.station = s.station) :
    backToQueued s = setClaims (fun cl => { cl with own := .queued }) s := by
  rw [backToQueued, if_pos ((ownQueued_iff s).mpr h)]
  refine followTurn_still fun ht => ?_
  have hnone := ((ownTurn_iff _).mp ht.2).1
  rw [setClaims_claims, hk] at hnone
  cases hnone

theorem backToQueued_left (h : ∀ c ∈ s.claims.queue, c.station ≠ s.station) : backToQueued s = enterQueued s := by
  rw [backToQueued, if_neg fun hc => ?_]
  obtain ⟨c, hc, hs⟩ := (ownQueued_iff s).mp hc
  exact h c hc hs

/-- Whether its entry has left the queue or not, the station is QUEUED under another holder, and the view stands. -/
theorem backToQueued_claims {k : StationNo} (hk : s.claims.holder = some k) :
    heldView (backToQueued s) = heldView s ∧ (backToQueued s).claims.own = .queued ∧
    (backToQueued s).claims.inForce = s.claims.inForce := by
  by_cases h : ∃ c ∈ s.claims.queue, c.station = s.station
  · rw [backToQueued_entered hk h]; exact ⟨rfl, rfl, rfl⟩
  · have hturn : ¬ ownTurn s = true := fun ht => by
      have hnone := ((ownTurn_iff s).mp ht).1
      rw [hk] at hnone; cases hnone
    rw [backToQueued_left fun c hc hs => h ⟨c, hc, hs⟩, heldView, heldView, enterQueued_claims, if_neg hturn]
    exact ⟨rfl, rfl, rfl⟩

/-! ### The ends of the own HELD and of the own RELEASE (R126, R135) -/

theorem ownHeldEnd_eq (remaining : Nat) (hk : look s.claims.present s.station = true) : ownHeldEnd remaining s =
    setClaims (withTurn s.time (makeHolder s.station (s.time + remaining * 100 + Config.holdMargin))) s := by
  have hview : setClaims (withTurn s.time (viewHeld s.time s.station remaining)) s =
      setClaims (withTurn s.time (makeHolder s.station (s.time + remaining * 100 + Config.holdMargin))) s := by
    simp [setClaims, withTurn, viewHeld, hk]
  rw [ownHeldEnd, changeView, hview]
  exact followOwn_holder rfl

theorem ownHoldOver_heldView (f : Claims → Claims) (s : State) :
    heldView (ownHoldOver f s) = ((f s.claims).holder, (f s.claims).queue, (f s.claims).expiry) := by
  unfold ownHoldOver; split
  · rw [endReleasing_heldView]; rfl
  · rw [changeView, followOwn_heldView]; rfl

/-- A RELEASE left from an earlier give-up moves the view alone, and leaves RELEASING standing. -/
theorem ownHoldOver_releasing {f : Claims → Claims} (hf : (f s.claims).own = s.claims.own) (ho : s.claims.own = .releasing)
    (h : releaseToCome s = true) : ownHoldOver f s = setClaims (withTurn s.time f) s := by
  rw [ownHoldOver_stands fun _ => h]
  exact followOwn_apart (.inr (.inr (hf.trans ho)))

end

end Sys2Proof.Machine

/-! The RELEASE with which RELEASING ends, and the statement of the own notice's completion (R34, R135). -/

namespace Sys2Proof.Machine

/-- The state in which the blocks hear of the station's own notice: it has left the queue, and the bus has been read as
behind any notice (R22, R31, R34). -/
def completed (x : Attempt) (s : State) : State := setNotices (completeAttempt s.station x) s

section
variable {s : State} {x : Attempt} {e : OutNotice} {rest : List OutNotice}

theorem completed_queue (hq : s.notices.queue = e :: rest) : (completed x s).notices.queue = rest := by
  rw [completed, setNotices_notices, completeAttempt]
  exact congrArg (List.drop 1) hq

theorem exec_noticeCompletion (hrun : s.power = .running) (ha : s.notices.attempt = some x)
    (hq : s.notices.queue = e :: rest) :
    exec .noticeCompletion s = .next (settle (handOwn e.ask x (completed x s))) := by
  have hlive : exec .noticeCompletion s = .next (settle (takeCompletion s)) := congrArg _ (live_running hrun)
  rw [hlive, takeCompletion_eq ha hq]; rfl

theorem releaseToCome_completed (hq : s.notices.queue = e :: rest) : releaseToCome (completed x s) = true ↔
    ¬ (s.claims.releaseAt = none ∧ ∀ y ∈ rest, y.ask ≠ .release) := by
  have hrelease (y : OutNotice) : askKind y.ask = .release ↔ y.ask = .release := by
    cases y.ask <;> simp [askKind]
  have hwaiting : waitingNotices (completed x s).notices = rest :=
    (waitingNotices_idle rfl).trans (completed_queue hq)
  simp only [releaseToCome_iff_not, hwaiting, ne_eq, hrelease]
  rfl

/-- The two claim units differ in the view alone. -/
def ViewAlone (x y : Claims) : Prop :=
  y = { x with holder := y.holder, expiry := y.expiry, queue := y.queue, turnFrom := y.turnFrom }

theorem ViewAlone.standing {x y : Claims} (h : ViewAlone x y) : y.own = x.own ∧ y.inForce = x.inForce ∧
    y.recorded = x.recorded ∧ y.releaseAt = x.releaseAt ∧ y.occDriven = x.occDriven := by
  unfold ViewAlone at h
  rw [h]
  exact ⟨rfl, rfl, rfl, rfl, rfl⟩

theorem withTurn_viewRelease (time : Nat) (k : StationNo) (cl : Claims) :
    ViewAlone cl (withTurn time (viewRelease k) cl) := by
  unfold ViewAlone withTurn viewRelease; split <;> rfl

/-- RELEASING ends with the RELEASE that it asked for, the recorded claim still standing (R135). -/
theorem ownReleaseEnd_ends (hq : s.notices.queue = e :: rest) (ho : s.claims.own = .releasing)
    (hends : s.claims.releaseAt = none ∧ ∀ y ∈ rest, y.ask ≠ .release) :
    ownHoldOver (viewRelease s.station) (completed x s) =
      endReleasing (setClaims (withTurn s.time (viewRelease s.station)) (completed x s)) ∧
    (setClaims (withTurn s.time (viewRelease s.station)) (completed x s)).claims.recorded = s.claims.recorded := by
  refine ⟨ownHoldOver_ends ho fun h => (releaseToCome_completed hq).mp h hends, ?_⟩
  obtain ⟨-, -, hrecorded, -⟩ := (withTurn_viewRelease s.time s.station s.claims).standing
  exact hrecorded

/-- Settles O29: what every completion leaves is read off the chain behind it; each kind's own end follows by its own
lemmas, from the view to the own claim. -/
theorem ownNoticeCompletes : Obligations.OwnNoticeCompletes := by
  intro s x e rest hrun ha hq
  refine ⟨_, exec_noticeCompletion hrun ha hq, ?_⟩
  rw [settle_notices, settle_share, settle_claims]
  intro own cl others lasting behindTriggered
  have hqueue : (completed x s).notices.queue = rest := completed_queue hq
  obtain ⟨hother, hattempt, -⟩ := handOwn_kept e.ask x (completed x s)
  have hlasting := handOwn_lasting e.ask x (s := completed x s) rfl rfl
  have hpeers := handOwn_peers e.ask x (completed x s)
  rw [hqueue] at hlasting
  refine ⟨hattempt rfl, congrArg (fun n => n.lastSender.val) hother, congrArg Notices.lastSequence hother,
    congrArg Notices.permitted hother, congrArg Notices.receiving hother, congrArg Notices.quiet hother, hlasting,
    fun ho hw => (handOwn_idle (s := completed x s) e.ask x ho hw).trans hqueue, (congrArg Notices.statusDone hother).trans rfl, ?_,
    fun j hj => ?_, fun hpresent => ⟨fun p hold he => ?_, fun hold he ho => ⟨fun hnone => ?_, fun k hk hne => ?_⟩,
      fun he => ?_⟩, fun he => ?_⟩
  · rw [hpeers]
    split
    · exact look_alter_same ..
    · rfl
  · rw [hpeers]
    split
    · exact look_alter_ne _ _ _ _ hj.symm
    · rfl
  · rw [he]
    have hview := ownClaimEnd_heldView p hold (completed x s)
    simp only [heldView, Prod.mk.injEq] at hview
    obtain ⟨hholder, hentered, hexpiry⟩ := hview
    refine ⟨hholder, hexpiry, fun hown => ?_, fun hown hnew => ?_, fun hqueued => ?_, fun c hturn hqueued hforce => ?_⟩
    · exact hentered.trans (congrArg Claims.queue (viewClaim_ofHolder p hold hown))
    · refine hentered.trans ((viewClaim_enters p hold hpresent hown hnew).trans ?_)
      cases p with
      | scheduled => rfl
      | triggered => exact placeClaimant_triggered _ _ _
    · obtain ⟨w, hw, hwq, -, hwt⟩ := ownClaimEnd_queued (s := completed x s) p hold hqueued
      refine (congrArg (fun u => u.claims.own) hw).trans ?_
      rw [followTurn_claims hwq]
      exact if_congr hwt rfl rfl
    · obtain ⟨w, hw, hwq, hwf, -⟩ := ownClaimEnd_queued (s := completed x s) p hold hqueued
      change (ownClaimEnd p hold (completed x s)).claims.own = .turn at hturn
      have hwturn : ownTurn w = true := by
        by_contra hno
        rw [hw, followTurn_claims hwq, if_neg hno] at hturn
        cases hturn
      change ∃ y ∈ (ownClaimEnd p hold (completed x s)).notices.queue, _
      rw [hw, followTurn_turns hwq hwturn, ← takeAsk_inForce (hwf.trans hforce)]
      exact mem_askNotice (by rw [askKind_takeAsk]; decide) _
  · have hend : handOwn (.take hold) x (completed x s) = _ := ownTakeEnd_free hold ho hpresent hnone
    rw [he, hend]
    exact ⟨rfl, by rw [Nat.mul_comm 100]; rfl, rfl, rfl, by rw [Nat.mul_comm 100]; rfl, rfl, rfl, hqueue⟩
  · have hend : handOwn (.take hold) x (completed x s) = _ := ownTakeEnd_held hold ho hk hne
    have hviewed : (setClaims (withTurn (completed x s).time id) (completed x s)).claims.holder = some k := hk
    obtain ⟨hview, hqueued, hforce⟩ := backToQueued_claims hviewed
    simp only [heldView, Prod.mk.injEq] at hview
    obtain ⟨hholder, hclaimants, hexpiry⟩ := hview
    rw [he, hend]
    refine ⟨hholder, hexpiry, hclaimants, hqueued, hforce, fun hentry => ?_, fun c hleft hc => ?_⟩
    · rw [backToQueued_entered hviewed hentry]; exact hqueue
    · rw [backToQueued_left (s := setClaims (withTurn (completed x s).time id) (completed x s)) hleft]
      exact mem_enterQueued hc
  · have hend : handOwn .held x (completed x s) = _ := ownHeldEnd_eq x.remaining hpresent
    rw [he, hend]
    exact ⟨rfl, by rw [Nat.mul_comm 100]; rfl, rfl, rfl⟩
  · have hend : handOwn .release x (completed x s) = ownHoldOver (viewRelease own) (completed x s) := rfl
    have hview := ownHoldOver_heldView (viewRelease own) (completed x s)
    simp only [heldView, Prod.mk.injEq] at hview
    obtain ⟨hholder, hclaimants, hexpiry⟩ := hview
    rw [he, hend]
    refine ⟨fun hown => ?_, fun hown => ?_, fun ho hstands => ?_, fun hends hnone => ?_, fun c hends hc hdone => ?_⟩
    · have hrelease : viewRelease own (completed x s).claims = endHold cl := if_pos hown
      rw [hrelease] at hholder hclaimants hexpiry
      exact ⟨hholder, hexpiry, hclaimants⟩
    · have hrelease : viewRelease own (completed x s).claims = { cl with queue := others } := if_neg hown
      rw [hrelease] at hholder hclaimants hexpiry
      exact ⟨hholder, hexpiry, hclaimants⟩
    · have hcome : releaseToCome (completed x s) = true := (releaseToCome_completed hq).mpr fun h => hstands ⟨ho, h⟩
      have halone : ViewAlone cl (withTurn s.time (viewRelease own) cl) := withTurn_viewRelease _ _ _
      have hstill : ownHoldOver (viewRelease own) (completed x s) = _ :=
        ownHoldOver_releasing halone.standing.1 ho hcome
      rw [hstill]
      exact ⟨hqueue, halone⟩
    · obtain ⟨hover, hrecorded⟩ := ownReleaseEnd_ends hq hends.1 hends.2
      rw [hover, endReleasing_ends (hrecorded.trans hnone)]
      exact ⟨rfl, rfl, hqueue⟩
    · obtain ⟨hover, hrecorded⟩ := ownReleaseEnd_ends hq hends.1 hends.2
      rw [hover]
      exact endReleasing_recorded (hrecorded.trans hc) hdone

end

end Sys2Proof.Machine

/-! What the claim unit does of a discarded notice, and the loss as the notice interface takes it (R26, R31, R132). -/

namespace Sys2Proof.Machine

/-! ### What the claim unit does of a discarded or an absorbed notice (R132) -/

section
variable {s : State}

theorem noticeDiscarded_status (s : State) : noticeDiscarded .status s = s := by
  unfold noticeDiscarded; cases s.claims.own <;> rfl

theorem noticeDiscarded_held (s : State) : noticeDiscarded .held s = s := by
  unfold noticeDiscarded; cases s.claims.own <;> rfl

theorem noticeDiscarded_none (k : NoticeKind) (ho : s.claims.own = .none) (hh : s.claims.holder ≠ some s.station) :
    noticeDiscarded k s = s := by
  have hview : holdsInView s = false := decide_eq_false hh
  cases k <;> simp only [noticeDiscarded, ho, hview, Bool.false_eq_true, if_false]

/-- A CLAIM or TAKE discarded in NONE or in RELEASING has no effect. -/
theorem noticeDiscarded_unclaimed {k : NoticeKind} (hk : k = .claim ∨ k = .take)
    (ho : s.claims.own = .none ∨ s.claims.own = .releasing) : noticeDiscarded k s = s := by
  rcases hk with rfl | rfl <;> rcases ho with ho | ho <;> simp only [noticeDiscarded, ho]

theorem noticeDiscarded_claim (ho : s.claims.own = .queued) : noticeDiscarded .claim s = enterQueued s := by
  simp only [noticeDiscarded, ho]

theorem noticeDiscarded_take (ho : s.claims.own = .turn) (ht : ownTurn s = true) :
    noticeDiscarded .take s = askNotice (takeAsk s.claims) s := by
  simp only [noticeDiscarded, ho, ht, if_true]

theorem noticeDiscarded_release (ho : s.claims.own = .releasing) :
    noticeDiscarded .release s = ownHoldOver (endOwnHold s.station) s := by
  simp only [noticeDiscarded, ho]

theorem releaseAbsorbed_still (h : s.claims.own = .releasing → releaseToCome s = true) : releaseAbsorbed s = s := by
  unfold releaseAbsorbed; split
  · next ho => exact if_pos (h ho)
  · rfl

theorem withTurn_endOwnHold (time : Nat) (k : StationNo) (cl : Claims) :
    ViewAlone cl (withTurn time (endOwnHold k) cl) := by
  unfold ViewAlone withTurn endOwnHold; split <;> rfl

/-- With no claim recorded, the end of the own hold in RELEASING ends RELEASING, and the claim in force with it, unless a
RELEASE is still to come. -/
theorem ownHoldOver_endOwnHold (ho : s.claims.own = .releasing) (hr : s.claims.recorded = none) (k : StationNo) :
    (ownHoldOver (endOwnHold k) s).claims.own = (if releaseToCome s = true then .releasing else .none) ∧
    (ownHoldOver (endOwnHold k) s).claims.inForce = (if releaseToCome s = true then s.claims.inForce else none) ∧
    (ownHoldOver (endOwnHold k) s).claims.releaseAt = s.claims.releaseAt ∧
    (ownHoldOver (endOwnHold k) s).claims.occDriven = s.claims.occDriven := by
  obtain ⟨hown, hforce, hrecorded, hrelease, hdriven⟩ := (withTurn_endOwnHold s.time k s.claims).standing
  by_cases hcome : releaseToCome s = true
  · rw [ownHoldOver_releasing (f := endOwnHold k) hown ho hcome, if_pos hcome, if_pos hcome]
    exact ⟨hown.trans ho, hforce, hrelease, hdriven⟩
  · rw [ownHoldOver_ends ho hcome, endReleasing_ends (hrecorded.trans hr), if_neg hcome, if_neg hcome]
    exact ⟨rfl, rfl, hrelease, hdriven⟩

end

/-! ### The loss -/

section
variable {s : State} {x : Attempt} {e : OutNotice} {waiting : List OutNotice}

/-- A lost notice, its loss counted. -/
def raised (e : OutNotice) : OutNotice := { e with losses := e.losses + 1 }

/-- The state with the queue settled, before the claim unit hears of the loss. -/
def lossTaken (q : List OutNotice) (x : Attempt) (s : State) : State := setNotices (loseAttempt q x) s

theorem takeLoss_below (ha : s.notices.attempt = some x) (hq : s.notices.queue = e :: waiting) (h : e.losses + 1 < 16) :
    takeLoss s = if (settleLoss (raised e) waiting).absorbed then
      releaseAbsorbed (lossTaken (settleLoss (raised e) waiting).queue x s)
    else lossTaken (settleLoss (raised e) waiting).queue x s := by
  have hkept : (settleLoss (raised e) waiting).dropped = none := by
    rw [settleLoss_dropped, if_neg (by simp only [raised]; omega)]
  have hraised : { e with losses := e.losses + 1 } = raised e := rfl
  rw [takeLoss, ha, hq]
  dsimp only
  rw [hraised, hkept]
  rfl

theorem takeLoss_spent (ha : s.notices.attempt = some x) (hq : s.notices.queue = e :: waiting) (h : 16 ≤ e.losses + 1) :
    takeLoss s = if (settleLoss (raised e) waiting).absorbed then
      releaseAbsorbed (reportDropped (raised e) (lossTaken (heldFirst (restBehind (askKind e.ask) waiting)) x s))
    else reportDropped (raised e) (lossTaken (heldFirst (restBehind (askKind e.ask) waiting)) x s) := by
  have hdropped : (settleLoss (raised e) waiting).dropped = some (raised e) := by
    rw [settleLoss_dropped, if_pos (by simpa only [raised] using h)]
  have hqueue : (settleLoss (raised e) waiting).queue = heldFirst (restBehind (askKind e.ask) waiting) :=
    settleLoss_spent h
  have hraised : { e with losses := e.losses + 1 } = raised e := rfl
  rw [takeLoss, ha, hq]
  dsimp only
  rw [hraised, hdropped, hqueue]
  rfl

/-- The loss on the bus: behind its first start bit the attempt is a notice on the bus, and on it the quiet goes on. -/
theorem lossTaken_eq (q : List OutNotice) (x : Attempt) (s : State) : lossTaken q x s = { s with notices := { s.notices with
    queue := q, attempt := none, receiving := decide (¬ x.elapsed < 2), gapPassed := false
    quiet := s.notices.quiet + (if x.elapsed < 2 then x.elapsed else 0) } } := by
  have hreceiving : (!inFirstBit x) = decide (¬ x.elapsed < 2) := decide_not.symm
  have hquiet : (if inFirstBit x then s.notices.quiet + x.elapsed else s.notices.quiet) =
      s.notices.quiet + (if x.elapsed < 2 then x.elapsed else 0) := by
    by_cases hx : x.elapsed < 2 <;> simp [inFirstBit, hx]
  rw [lossTaken, setNotices, loseAttempt, hreceiving, hquiet]

end

end Sys2Proof.Machine

/-! A contention loss, below the limit and at it, and the bus behind it (R26, R27, R31, R132). -/

namespace Sys2Proof.Machine

section
variable {s : State} {x : Attempt} {e : OutNotice} {waiting : List OutNotice}

theorem absorbed_raised (e : OutNotice) (waiting : List OutNotice) :
    (settleLoss (raised e) waiting).absorbed = true ↔ MeetsRelease (askKind e.ask) waiting := settleLoss_absorbed _ _

/-! ### A loss below the limit (R27, R31) -/

/-- A loss whose RELEASE, if one leaves the queue with it, ends nothing settles the queue and nothing else. -/
theorem takeLoss_settles (ha : s.notices.attempt = some x) (hq : s.notices.queue = e :: waiting) (h : e.losses + 1 < 16)
    (ho : MeetsRelease (askKind e.ask) waiting → s.claims.own = .releasing → s.claims.releaseAt ≠ none) :
    takeLoss s = lossTaken (settleLoss (raised e) waiting).queue x s := by
  rw [takeLoss_below ha hq h]
  split
  · next hmeets =>
    exact releaseAbsorbed_still fun hr =>
      (releaseToCome_iff _).mpr (.inl (ho ((absorbed_raised e waiting).mp hmeets) hr))
  · rfl

theorem settleLoss_returns (h : e.losses + 1 < 16) (hmeets : ¬ MeetsRelease (askKind e.ask) waiting)
    (hnew : ∀ y ∈ waiting, askKind y.ask ≠ askKind e.ask) :
    (settleLoss (raised e) waiting).queue = heldFirst (raised e :: waiting) := by
  have hrest : restBehind (askKind (raised e).ask) waiting = waiting := restBehind_alone hmeets
  rw [settleLoss_newest (lost := raised e) h hnew, if_neg ((absorbed_raised e waiting).not.mpr hmeets), hrest]
  rfl

theorem settleLoss_leaves (h : e.losses + 1 < 16) (hmeets : MeetsRelease (askKind e.ask) waiting)
    (hnew : ∀ y ∈ waiting, askKind y.ask ≠ askKind e.ask) :
    (settleLoss (raised e) waiting).queue = heldFirst (waiting.filter fun y => askKind y.ask ≠ .release) := by
  have hrest : restBehind (askKind (raised e).ask) waiting = _ := restBehind_meets hmeets
  rw [settleLoss_newest (lost := raised e) h hnew, if_pos ((absorbed_raised e waiting).mpr hmeets), hrest]
  rfl

/-! ### A notice discarded (R27, R132) -/

/-- The state in which the claim unit hears of a discarded notice. -/
def dropReported (e : OutNotice) (waiting : List OutNotice) (x : Attempt) (s : State) : State :=
  queueReport (.noticeDropped (askKind e.ask) (e.losses + 1))
    (lossTaken (heldFirst (restBehind (askKind e.ask) waiting)) x s)

theorem dropReported_claims (e : OutNotice) (waiting : List OutNotice) (x : Attempt) (s : State) :
    (dropReported e waiting x s).claims = s.claims := queueReport_claims _ _

theorem dropReported_station (e : OutNotice) (waiting : List OutNotice) (x : Attempt) (s : State) :
    (dropReported e waiting x s).station = s.station := by
  obtain ⟨u, hu⟩ := queueReport_eq (.noticeDropped (askKind e.ask) (e.losses + 1))
    (lossTaken (heldFirst (restBehind (askKind e.ask) waiting)) x s)
  rw [dropReported, hu]; rfl

theorem dropReported_notices (e : OutNotice) (waiting : List OutNotice) (x : Attempt) (s : State) :
    (dropReported e waiting x s).notices = loseAttempt (heldFirst (restBehind (askKind e.ask) waiting)) x s.notices :=
  queueReport_notices _ _

theorem takeLoss_discards (ha : s.notices.attempt = some x) (hq : s.notices.queue = e :: waiting)
    (h : 16 ≤ e.losses + 1) (hmeets : ¬ MeetsRelease (askKind e.ask) waiting) :
    takeLoss s = noticeDiscarded (askKind e.ask) (dropReported e waiting x s) := by
  rw [takeLoss_spent ha hq h, if_neg ((absorbed_raised e waiting).not.mpr hmeets)]
  rfl

/-- A CLAIM or TAKE discarded together with a RELEASE in NONE, or in RELEASING with a RELEASE still to come, has no
effect but the report. -/
theorem takeLoss_discards_release (ha : s.notices.attempt = some x) (hq : s.notices.queue = e :: waiting)
    (h : 16 ≤ e.losses + 1) (hmeets : MeetsRelease (askKind e.ask) waiting)
    (ho : s.claims.own = .none ∨ s.claims.own = .releasing ∧ s.claims.releaseAt ≠ none) :
    takeLoss s = dropReported e waiting x s := by
  have hdiscarded : reportDropped (raised e) (lossTaken (heldFirst (restBehind (askKind e.ask) waiting)) x s) =
      dropReported e waiting x s :=
    noticeDiscarded_unclaimed (s := dropReported e waiting x s) hmeets.1 (by
      rw [dropReported_claims]; exact ho.imp_right And.left)
  rw [takeLoss_spent ha hq h, if_pos ((absorbed_raised e waiting).mpr hmeets), hdiscarded]
  refine releaseAbsorbed_still fun hr => ?_
  rw [dropReported_claims] at hr
  have hcomes : s.claims.releaseAt ≠ none := ho.elim (fun hn => by rw [hn] at hr; cases hr) And.right
  exact (releaseToCome_iff _).mpr (.inl (by rw [dropReported_claims]; exact hcomes))

/-! ### The bus behind a loss -/

/-- What the claim unit does behind a loss moves the view and the own claim alone. -/
theorem leads_lossTaken (ha : s.notices.attempt = some x) (hq : s.notices.queue = e :: waiting) :
    ∃ q, Leads { Scope.none with view := true } (lossTaken q x s) (takeLoss s) := by
  by_cases h : e.losses + 1 < 16
  · rw [takeLoss_below ha hq h]
    refine ⟨(settleLoss (raised e) waiting).queue, ?_⟩
    split
    · exact leads_releaseAbsorbed rfl .refl
    · exact .refl
  · rw [takeLoss_spent ha hq (by omega)]
    refine ⟨heldFirst (restBehind (askKind e.ask) waiting), ?_⟩
    split
    · exact leads_releaseAbsorbed rfl (leads_reportDropped rfl _ .refl)
    · exact leads_reportDropped rfl _ .refl

/-- Behind a loss no attempt stands and the gap has not passed; the bus is as the loss has left it (R26, R27). -/
theorem takeLoss_bus (ha : s.notices.attempt = some x) (hq : s.notices.queue = e :: waiting) :
    (takeLoss s).notices.attempt = none ∧ (takeLoss s).notices.gapPassed = false ∧
    (takeLoss s).notices.receiving = decide (¬ x.elapsed < 2) ∧
    (takeLoss s).notices.quiet = s.notices.quiet + (if x.elapsed < 2 then x.elapsed else 0) ∧
    (takeLoss s).notices.framing = s.notices.framing ∧ (takeLoss s).notices.lastSender = s.notices.lastSender ∧
    (takeLoss s).station = s.station := by
  obtain ⟨q, hleads⟩ := leads_lossTaken ha hq
  obtain ⟨hother, hattempt, hgap⟩ := hleads.keeps_bus rfl
  rw [lossTaken_eq] at hother hattempt hgap
  refine ⟨hattempt rfl, hgap rfl, congrArg Notices.receiving hother, congrArg Notices.quiet hother,
    (congrArg Notices.framing hother).trans rfl, (congrArg Notices.lastSender hother).trans rfl, ?_⟩
  rw [State.station, hleads.loader]; rfl

end

end Sys2Proof.Machine

/-! The discarded RELEASE, and the statement of the contention loss (R26, R27, R31, R132). -/

namespace Sys2Proof.Machine

section
variable {s : State} {x : Attempt} {e : OutNotice} {waiting : List OutNotice}

/-- A lost RELEASE leaves with no other notice. -/
theorem not_meetsRelease {k : NoticeKind} (hk : k = .release) : ¬ MeetsRelease k waiting := by
  rintro ⟨h | h, -⟩ <;> rw [hk] at h <;> cases h

/-- A notice discarded with what waits standing: the state in which the claim unit hears of it, by name (R27). -/
theorem dropReported_alone (hmeets : ¬ MeetsRelease (askKind e.ask) waiting) : dropReported e waiting x s =
    queueReport (.noticeDropped (askKind e.ask) (e.losses + 1)) (lossTaken (heldFirst waiting) x s) := by
  rw [dropReported, restBehind_alone hmeets]

theorem releaseToCome_dropReported (hk : askKind e.ask = .release) : releaseToCome (dropReported e waiting x s) = true ↔
    ¬ (s.claims.releaseAt = none ∧ ∀ y ∈ waiting, askKind y.ask ≠ .release) := by
  have halone : ¬ MeetsRelease (askKind e.ask) waiting := not_meetsRelease hk
  have hwaiting : waitingNotices (dropReported e waiting x s).notices = heldFirst waiting := by
    rw [dropReported_notices, restBehind_alone halone]
    exact waitingNotices_idle rfl
  rw [releaseToCome_iff_not, dropReported_claims, hwaiting]
  simp only [(heldFirst_perm waiting).mem_iff]

/-- A discarded RELEASE ends the hold of its station, and RELEASING unless another RELEASE is still to come (R132). -/
theorem takeLoss_release (ha : s.notices.attempt = some x) (hq : s.notices.queue = e :: waiting)
    (h : 16 ≤ e.losses + 1) (hk : askKind e.ask = .release) (ho : s.claims.own = .releasing) :
    takeLoss s = ownHoldOver (endOwnHold s.station) (dropReported e waiting x s) := by
  have halone : ¬ MeetsRelease (askKind e.ask) waiting := not_meetsRelease hk
  rw [takeLoss_discards ha hq h halone, hk, noticeDiscarded_release (by rw [dropReported_claims]; exact ho),
    dropReported_station]

/-- Settles O30: the queue by what `settleLoss` makes of it, the discarded notices by what the claim unit does of each kind,
the bus by the chain behind the loss. -/
theorem contentionLossReturnsOrDiscardsTheNotice : Obligations.ContentionLossReturnsOrDiscardsTheNotice := by
  intro s x e waiting hrun ha hq kind onFirstBit after first meets
  have hexec : exec .contentionLoss s = .next (settle (takeLoss s)) := congrArg _ (live_running hrun)
  have hafter (q : List OutNotice) : lossTaken (heldFirst q) x s = after (first q) := by
    rw [lossTaken_eq, heldFirst_eq]
  rw [hexec]
  refine ⟨fun h hm => ⟨fun hnew => ?_, fun before y behind hw hy hothers => ?_⟩, fun h hm hnew ho => ?_,
    fun before y behind h hm hw hy hothers ho => ?_, fun h hm ho => ?_, fun h hm hk => ?_, fun c h hm hc => ⟨fun hk ho => ?_,
    fun hk ho hh ht => ?_⟩, fun h hk ho hr => ?_, fun hm ho hcomes => ?_, ?_⟩
  · rw [takeLoss_settles ha hq h fun hc => absurd hc hm, settleLoss_returns h hm hnew, hafter]; rfl
  · have hrest : restBehind (askKind (raised e).ask) waiting = before ++ y :: behind := (restBehind_alone hm).trans hw
    rw [takeLoss_settles ha hq h fun hc => absurd hc hm, settleLoss_newer (lost := raised e) h hrest hy hothers, hafter]; rfl
  · rw [takeLoss_settles ha hq h fun _ hr => absurd hr ho, settleLoss_leaves h hm hnew, hafter]
  · have hkeep : decide (askKind y.ask ≠ .release) = true := by
      rcases hm.1 with hk | hk <;> simp only [hy, hk] <;> decide
    have hrest : restBehind (askKind (raised e).ask) waiting = before.filter (fun z => askKind z.ask ≠ .release) ++
        y :: behind.filter (fun z => askKind z.ask ≠ .release) := by
      refine (restBehind_meets hm).trans ?_
      rw [hw, List.filter_append, List.filter_cons_of_pos (p := fun z : OutNotice => decide (askKind z.ask ≠ .release)) hkeep]
    rw [takeLoss_settles ha hq h fun _ hr => absurd hr ho, settleLoss_newer (lost := raised e) h hrest hy fun z hz => ?_, hafter,
      List.filter_append]
    · rfl
    · rw [← List.filter_append] at hz
      exact hothers z (List.mem_of_mem_filter hz)
  · rw [takeLoss_discards_release ha hq h hm (.inl ho), dropReported, restBehind_meets hm, hafter]
  · have hclaims := dropReported_claims e waiting x s
    have hnothing : noticeDiscarded (askKind e.ask) (dropReported e waiting x s) = dropReported e waiting x s := by
      rcases hk with hk | hk | ⟨ho, hh⟩
      · have hkind : askKind e.ask = .status := hk
        rw [hkind]; exact noticeDiscarded_status _
      · have hkind : askKind e.ask = .held := hk
        rw [hkind]; exact noticeDiscarded_held _
      · exact noticeDiscarded_none _ (by rw [hclaims]; exact ho) (by rw [hclaims, dropReported_station]; exact hh)
    rw [takeLoss_discards ha hq h hm, hnothing, dropReported_alone hm, hafter]
  · have hkind : askKind e.ask = .claim := hk
    have hclaims := dropReported_claims e waiting x s
    refine ⟨_, rfl, ?_⟩
    rw [settle_claims, settle_notices, takeLoss_discards ha hq h hm, hkind,
      noticeDiscarded_claim (by rw [hclaims]; exact ho), enterQueued_claims, hclaims]
    exact ⟨hc, mem_enterQueued (by rw [hclaims]; exact hc)⟩
  · have hkind : askKind e.ask = .take := hk
    have hclaims := dropReported_claims e waiting x s
    have hturn : ownTurn (dropReported e waiting x s) = true := by
      rw [ownTurn_iff, hclaims, dropReported_station]
      exact ⟨hh, ht⟩
    refine ⟨_, rfl, ?_⟩
    rw [settle_claims, settle_notices, takeLoss_discards ha hq h hm, hkind,
      noticeDiscarded_take (by rw [hclaims]; exact ho) hturn, askNotice_claims, hclaims, takeAsk_inForce hc]
    exact ⟨rfl, mem_askNotice (by simp [askKind]) _⟩
  · intro ends
    have hclaims := dropReported_claims e waiting x s
    have hcome : releaseToCome (dropReported e waiting x s) = true ↔ ¬ ends := releaseToCome_dropReported hk
    obtain ⟨hown, hforce, hrelease, hdriven⟩ := ownHoldOver_endOwnHold (s := dropReported e waiting x s)
      (by rw [hclaims]; exact ho) (by rw [hclaims]; exact hr) s.station
    have hview := ownHoldOver_heldView (endOwnHold s.station) (dropReported e waiting x s)
    simp only [heldView, Prod.mk.injEq] at hview
    obtain ⟨hholder, -, hexpiry⟩ := hview
    refine ⟨_, rfl, ?_⟩
    rw [settle_claims, takeLoss_release ha hq h hk ho]
    rw [hclaims] at hforce hrelease hdriven hholder hexpiry
    refine ⟨?_, ?_, hrelease, hdriven, fun hh => ?_⟩
    · rw [hown, if_congr hcome rfl rfl, ite_not]
    · rw [hforce, if_congr hcome rfl rfl, ite_not]
    · have hended : endOwnHold s.station s.claims = endHold s.claims := if_pos hh
      rw [hended] at hholder hexpiry
      exact ⟨hholder, hexpiry⟩
  · refine ⟨_, rfl, ?_⟩
    rw [settle_claims]
    by_cases h : e.losses + 1 < 16
    · rw [takeLoss_settles ha hq h fun _ _ => hcomes]; rfl
    · rw [takeLoss_discards_release ha hq (by omega) hm (.inr ⟨ho, hcomes⟩), dropReported_claims]
  · obtain ⟨hattempt, hgap, hreceiving, hquiet, hframing, hlast, hsame⟩ := takeLoss_bus ha hq
    have hstation : (settle (takeLoss s)).station = s.station := by
      rw [State.station, (undisturbed_settle (takeLoss s)).loader]; exact hsame
    refine ⟨_, rfl, ?_⟩
    simp only [Due, settle_notices, hstation, hreceiving, hquiet, hlast]
    refine ⟨hattempt, fun hb => ⟨decide_eq_true hb, fun hd => ?_, fun hd => ?_⟩, fun hb => ⟨?_, ?_, fun hf hpassed => ?_⟩⟩
    · exact of_decide_eq_false hd.1.2.1 hb
    · exact of_decide_eq_false hd.1.2.1 hb
    · exact decide_eq_false (not_not.mpr hb)
    · rw [if_pos hb]
    · exact ⟨⟨hframing.trans hf, decide_eq_false (not_not.mpr hb), hattempt⟩, hgap, by omega⟩

end

end Sys2Proof.Machine

/-! The share as it is applied: what a recomputation and a rise check make of the allowance and of the scheduler (R55, R58
to R60), and the step laws of the bucket levels (R81) and of the allowance (R58). -/

namespace Sys2Proof.Machine

/-! ### The application of a share (R58 to R60) -/

section
variable (s : State)

/-- A new allowance reaches the scheduler only where it is a change (R60). -/
theorem changeAllowance_eq (a : Nat) : changeAllowance a s = { s with
    share := { s.share with allowance := a }
    sched := if a = s.share.allowance then s.sched else takeAllowance a s.sched } := by
  unfold changeAllowance; split
  · next h => rw [h]
  · rfl

/-- A share takes the allowance down at once, and waits as a pending rise otherwise (R58). -/
theorem applyShare_eq (v : Nat) : applyShare v s = { s with
    share := { s.share with
      allowance := min v s.share.allowance
      rise := if v ≤ s.share.allowance then none
        else some (raiseRise (s.time + period s.settings) v s.share.rise) }
    sched := if v < s.share.allowance then takeAllowance v s.sched else s.sched } := by
  unfold applyShare; split
  · next h =>
    rw [changeAllowance_eq, min_eq_left h]
    by_cases heq : v = s.share.allowance
    · rw [if_pos heq, if_neg (by omega)]; rfl
    · rw [if_neg heq, if_pos (by omega)]; rfl
  · next h =>
    rw [min_eq_right (by omega), if_neg (by omega)]; rfl

/-- The share as a recomputation gives it, within the rate of the uplink port (R55). -/
def newShare : Nat := min Config.portRate (shareOf s)

/-- A recomputation writes the capacity that it has used and the share, and applies the share (R47, R48, R55, R58). -/
theorem recompute_eq : recompute s = { s with
    share := { s.share with
      share := newShare s, usedC := rawCapacity s, effective := lessHeadroom s (rawCapacity s)
      allowance := min (newShare s) s.share.allowance
      rise := if newShare s ≤ s.share.allowance then none
        else some (raiseRise (s.time + period s.settings) (newShare s) s.share.rise) }
    sched := if newShare s < s.share.allowance then takeAllowance (newShare s) s.sched else s.sched } :=
  applyShare_eq _ _

/-- A rise check gives at most the target, and takes nothing away (R59). -/
theorem risenAllowance_le (target : Nat) : risenAllowance s target ≤ max s.share.allowance target := by
  unfold risenAllowance; dsimp only
  split <;> omega

theorem raiseRise_target (due v : Nat) (old : Option Rise) : (raiseRise due v old).target = v := by
  cases old <;> rfl

end

theorem takeRiseCheck_still {s : State} (hr : s.share.rise = none) : takeRiseCheck s = s := by
  unfold takeRiseCheck; rw [hr]

/-- A rise check ends the pending rise, and gives the allowance that the check leaves (R59). -/
theorem takeRiseCheck_eq {s : State} {r : Rise} (hr : s.share.rise = some r) : takeRiseCheck s = { s with
    share := { s.share with allowance := risenAllowance s r.target, rise := none }
    sched := if risenAllowance s r.target = s.share.allowance then s.sched
      else takeAllowance (risenAllowance s r.target) s.sched } := by
  unfold takeRiseCheck; rw [hr]; dsimp only
  rw [changeAllowance_eq]; rfl

/-- What every elementary change keeps is kept by every command of a running part. -/
theorem exec_keeps {P : State → Prop} (hP : ∀ sc s t, Change sc s t → P s → P t) {c : Instr} (hc : isLive c = true)
    {s t : State} (he : exec c s = .next t) (hs : P s) : P t := by
  obtain ⟨u, hu, hleads⟩ := exec_leads c hc s
  rw [he] at hu; cases hu
  exact hleads.keeps (hP _) hs

/-! ### The levels of the buckets (R81) -/

/-- A level lies between the floor of a bucket and its depth (R81). -/
def InBucket (depth level : Int) : Prop := Config.bucketFloor ≤ level ∧ level ≤ depth

section
variable {depth level : Int}

theorem InBucket.refill (h : InBucket depth level) : InBucket depth (refill depth level) := by
  obtain ⟨hfloor, hdepth⟩ := h
  exact ⟨hfloor.trans (le_max_left ..), max_le hdepth (min_le_left ..)⟩

theorem InBucket.debit (h : InBucket depth level) (n : Nat) : InBucket depth (debit n level) := by
  obtain ⟨hfloor, hdepth⟩ := h
  exact ⟨le_max_left .., max_le (hfloor.trans hdepth) (by omega)⟩

/-- A full bucket is within its bounds. -/
theorem inBucket_full (n : Nat) : InBucket n n := ⟨by unfold Config.bucketFloor; omega, le_rfl⟩

/-- A new depth cuts the level at once (R82). -/
theorem InBucket.cut (h : InBucket depth level) (n : Nat) : InBucket n (min level n) :=
  ⟨le_min h.1 (inBucket_full n).1, min_le_right ..⟩

end

/-- The depth of an entry's bucket follows from its line's profile alone (R81). -/
theorem entryDepth_congr {s t : State} (h : ∀ l, (lineOf t l).profile = (lineOf s l).profile) (e : RoundEntry) :
    entryDepth t e = entryDepth s e := by
  unfold entryDepth; split
  · rw [h]
  · rfl

/-- The buckets stand as they are, and so do their depths. -/
theorem BucketsBounded.congr {s t : State} (hs : BucketsBounded s)
    (hprofile : ∀ l, (lineOf t l).profile = (lineOf s l).profile) (hlevels : t.sched.levels = s.sched.levels)
    (hlevel : t.sched.stationLevel = s.sched.stationLevel) (hdepth : t.sched.stationDepth = s.sched.stationDepth) :
    BucketsBounded t := by
  unfold BucketsBounded
  simp only [entryDepth_congr hprofile, hlevels, hlevel, hdepth]
  exact hs

theorem BucketsBounded.congr_sched {s t : State} (hs : BucketsBounded s) (hlines : t.lines = s.lines)
    (hsched : t.sched = s.sched) : BucketsBounded t :=
  hs.congr (fun l => by rw [lineOf, lineOf, hlines]) (by rw [hsched]) (by rw [hsched]) (by rw [hsched])

theorem lineOfEntry_entryOf (l : Line) : lineOfEntry (entryOf l) = some l := dif_pos l.isLt

/-- A change of the scheduler refills a bucket, debits it, or fills it to its depth (R81, R83). -/
theorem SchedMoves.bucketsBounded {s : State} {sc : Scheduler} (h : SchedMoves s sc) (hs : BucketsBounded s) :
    BucketsBounded { s with sched := sc } := by
  obtain ⟨hentries, hstation⟩ := hs
  refine ⟨fun e => ?_, ?_⟩
  · have he : InBucket (entryDepth s e) (look s.sched.levels e) := hentries e
    change InBucket (entryDepth s e) (look sc.levels e)
    obtain heq | heq | ⟨n, heq⟩ | ⟨l, hl, heq⟩ := h.levels e <;> rw [heq]
    · exact he
    · exact he.refill
    · exact he.debit n
    · have hdepth : entryDepth s e = (lineOf s l).profile.burst := by rw [hl, entryDepth, lineOfEntry_entryOf]
      rw [hdepth]; exact inBucket_full _
  · have hb : InBucket s.sched.stationDepth s.sched.stationLevel := hstation
    change InBucket sc.stationDepth sc.stationLevel
    rw [h.depth]
    obtain heq | heq | ⟨n, heq⟩ := h.station <;> rw [heq]
    · exact hb
    · exact hb.refill
    · exact hb.debit n

/-- A change of the allowance gives the station bucket its new depth and leaves the others alone (R82). -/
theorem bucketsBounded_takeAllowance {s t : State} (a : Nat) (hlines : t.lines = s.lines)
    (hsched : t.sched = takeAllowance a s.sched) (hs : BucketsBounded s) : BucketsBounded t := by
  obtain ⟨hentries, hstation⟩ := hs
  have hprofile (l : Line) : (lineOf t l).profile = (lineOf s l).profile := by rw [lineOf, lineOf, hlines]
  unfold BucketsBounded
  simp only [entryDepth_congr hprofile, hsched]
  exact ⟨hentries, InBucket.cut hstation _⟩

theorem recompute_keeps_bucketsBounded {s : State} (hs : BucketsBounded s) : BucketsBounded (recompute s) := by
  by_cases h : newShare s < s.share.allowance
  · exact bucketsBounded_takeAllowance _ (by rw [recompute_eq]) (by rw [recompute_eq]; exact if_pos h) hs
  · exact hs.congr_sched (by rw [recompute_eq]) (by rw [recompute_eq]; exact if_neg h)

theorem takeRiseCheck_keeps_bucketsBounded {s : State} (hs : BucketsBounded s) : BucketsBounded (takeRiseCheck s) := by
  cases hr : s.share.rise with
  | none => rw [takeRiseCheck_still hr]; exact hs
  | some r =>
    by_cases h : risenAllowance s r.target = s.share.allowance
    · exact hs.congr_sched (takeRiseCheck_lines s) (by rw [takeRiseCheck_eq hr]; exact if_pos h)
    · exact bucketsBounded_takeAllowance _ (takeRiseCheck_lines s) (by rw [takeRiseCheck_eq hr]; exact if_neg h) hs

theorem Change.keeps_bucketsBounded {sc : Scope} {s t : State} (h : Change sc s t) (hs : BucketsBounded s) :
    BucketsBounded t := by
  have hprofile (l : Line) : (lineOf t l).profile = (lineOf s l).profile := congrArg Prod.snd (h.keeps_provision l)
  cases h with
  | sched f s hmoves => exact hmoves.bucketsBounded hs
  | recompute => exact recompute_keeps_bucketsBounded hs
  | riseCheck => exact takeRiseCheck_keeps_bucketsBounded hs
  | _ => exact hs.congr hprofile rfl rfl rfl

/-- After a start every line's bucket is filled to its burst, M's to its depth, and the station's to 4,096 (R93). -/
theorem bucketsBounded_start {s : State} {burst : Line → Nat} (hlevels : s.sched.levels = startLevels burst)
    (hlevel : s.sched.stationLevel = 4096) (hdepth : s.sched.stationDepth = 4096)
    (hburst : ∀ l, (lineOf s l).profile.burst = burst l) : BucketsBounded s := by
  refine ⟨fun e => ?_, ?_⟩
  · rw [hlevels, startLevels, look_tabulate, entryDepth]
    by_cases h : e.val < 12
    · rw [dif_pos h, lineOfEntry, dif_pos h]; dsimp only
      rw [hburst]; exact inBucket_full _
    · rw [dif_neg h, lineOfEntry, dif_neg h]; exact inBucket_full 8192
  · rw [hlevel, hdepth]; exact inBucket_full 4096

/-- The buckets as a start delivers them, behind its reports and the first search (R93, R171). -/
theorem bucketsBounded_opened (straps : BitVec 3) (b : List Byte) (s : State) :
    BucketsBounded (settle (startReports (deliver straps b s))) := by
  obtain ⟨-, hlines, hsched, -⟩ := startReports_undisturbed (deliver straps b s)
  refine Leads.keeps (sc := Scope.none) (fun _ _ c => c.keeps_bucketsBounded) (leads_settle .refl)
    (bucketsBounded_start (burst := fun l => (look (takeImage b).profiles l).burst) ?_ ?_ ?_ fun l => ?_)
  · rw [hsched]; rfl
  · rw [hsched]; rfl
  · rw [hsched]; rfl
  · rw [lineOf, hlines]
    exact congrArg (fun r : LineRec => r.profile.burst) (deliver_line straps b s l)

theorem stepKeeps_bucketsBounded : StepKeeps BucketsBounded where
  pending _ _ hs := hs
  clocks s hs := by rw [tickClocks_eq]; exact hs
  tick s hs := hs.congr (fun l => by rw [lineOf, tickRunning_lines]; rfl) (by rw [tickRunning_eq]; rfl)
    (by rw [tickRunning_eq]; rfl) (by rw [tickRunning_eq]; rfl)
  live c hc _ _ hs he := exec_keeps (fun _ _ _ h => h.keeps_bucketsBounded) hc he hs
  powerUp s _ := bucketsBounded_start (burst := fun _ => builtInProfile.burst) rfl rfl rfl fun l => by
    rw [powerUp_line]; rfl
  cutOff _ hs := hs
  restart s _ := bucketsBounded_start (burst := fun l => (lineOf s l).profile.burst) rfl rfl rfl fun l => by
    rw [restartNow_line]; rfl
  opens straps b s _ := bucketsBounded_opened straps b s

/-! ### The allowance (R58) -/

theorem AllowanceBounded.congr {s t : State} (h : t.share = s.share) (hs : AllowanceBounded s) : AllowanceBounded t := by
  unfold AllowanceBounded; rw [h]; exact hs

/-- The application of a share leaves neither the allowance nor the target of a rise above it (R58). -/
theorem recompute_allowanceBounded (s : State) : AllowanceBounded (recompute s) := by
  rw [recompute_eq]
  refine ⟨min_le_left .., fun r hr => ?_⟩
  have hrise : (if newShare s ≤ s.share.allowance then none
    else some (raiseRise (s.time + period s.settings) (newShare s) s.share.rise)) = some r := hr
  split at hrise
  · cases hrise
  · cases hrise; exact (raiseRise_target ..).le

/-- A rise check gives no more than a target that is itself within the share (R58, R59). -/
theorem takeRiseCheck_keeps_allowanceBounded {s : State} (hs : AllowanceBounded s) :
    AllowanceBounded (takeRiseCheck s) := by
  cases hr : s.share.rise with
  | none => rw [takeRiseCheck_still hr]; exact hs
  | some r =>
    obtain ⟨hallowance, hrise⟩ := hs
    rw [takeRiseCheck_eq hr]
    exact ⟨(risenAllowance_le s r.target).trans (max_le hallowance (hrise r hr)), fun _ h => by cases h⟩

theorem Change.keeps_allowanceBounded {sc : Scope} {s t : State} (h : Change sc s t) (hs : AllowanceBounded s) :
    AllowanceBounded t := by
  cases h with
  | share f _ hf =>
    obtain ⟨hshare, hallowance, hrise⟩ := hf s.share
    unfold AllowanceBounded
    rw [setShare_share, hshare, hallowance, hrise]
    exact hs
  | recompute => exact recompute_allowanceBounded s
  | riseCheck => exact takeRiseCheck_keeps_allowanceBounded hs
  | _ => exact hs

/-- After a start the allowance is 0 and no rise is pending (R61). -/
theorem allowanceBounded_start {s : State} (ha : s.share.allowance = 0) (hr : s.share.rise = none) :
    AllowanceBounded s := by
  refine ⟨by omega, fun r h => ?_⟩
  rw [hr] at h; cases h

theorem stepKeeps_allowanceBounded : StepKeeps AllowanceBounded where
  pending _ _ hs := hs
  clocks s hs := by rw [tickClocks_eq]; exact hs
  tick s hs := hs.congr (by rw [tickRunning_eq, tickClocks_eq])
  live c hc _ _ hs he := exec_keeps (fun _ _ _ h => h.keeps_allowanceBounded) hc he hs
  powerUp _ _ := allowanceBounded_start rfl rfl
  cutOff _ hs := hs
  restart _ _ := allowanceBounded_start rfl rfl
  opens straps b s _ := AllowanceBounded.congr (opened_undisturbed straps b s).share (allowanceBounded_start rfl rfl)

/-- Settles O16: through the chains of elementary changes, of which only the scheduler's moves and a new allowance touch a
bucket, and only a recomputation and a rise check the allowance. -/
theorem everyStepKeepsLevelsAndAllowanceInRange : Obligations.EveryStepKeepsLevelsAndAllowanceInRange :=
  ⟨fun _ _ => stepKeeps_bucketsBounded.step, fun _ _ => stepKeeps_allowanceBounded.step⟩

end Sys2Proof.Machine

/-! The application of a share, and the rise check (R47, R48, R55, R58 to R60). -/

namespace Sys2Proof.Machine

section
variable {s : State}

/-- A pending rise moved to a new target keeps its due time unless the target is raised (R58). -/
theorem raiseRise_eq (due v : Nat) (old : Option Rise) : raiseRise due v old =
    ⟨v, match old with
      | some r => if v ≤ r.target then r.due else due
      | none => due⟩ := by
  cases old with
  | none => rfl
  | some r =>
    by_cases h : v ≤ r.target
    · simp [raiseRise, h]
    · simp [raiseRise, h, Nat.lt_of_not_le h]

/-- A recomputation whose share is not above the allowance (R58). -/
theorem recompute_down (h : newShare s ≤ s.share.allowance) :
    (recompute s).share.allowance = newShare s ∧ (recompute s).share.rise = none := by
  rw [recompute_eq]
  exact ⟨min_eq_left h, if_pos h⟩

/-- A recomputation whose share is above the allowance (R58). -/
theorem recompute_up (h : s.share.allowance < newShare s) :
    (recompute s).share.allowance = s.share.allowance ∧
    (recompute s).share.rise = some (raiseRise (s.time + period s.settings) (newShare s) s.share.rise) := by
  rw [recompute_eq]
  exact ⟨min_eq_right h.le, if_neg h.not_ge⟩

/-- The scheduler hears of a recomputation only through a changed allowance (R60). -/
theorem recompute_sched : (recompute s).sched =
    if (recompute s).share.allowance = s.share.allowance then s.sched
    else takeAllowance (recompute s).share.allowance s.sched := by
  rcases Nat.lt_or_ge (newShare s) s.share.allowance with h | h
  · rw [(recompute_down h.le).1, if_neg h.ne, recompute_eq]; exact if_pos h
  · have hstands : (recompute s).share.allowance = s.share.allowance := by rw [recompute_eq]; exact min_eq_right h
    rw [if_pos hstands, recompute_eq]; exact if_neg h.not_gt

/-- The allowance that a check leaves an isolated station: no peer takes part (R59). -/
theorem risenAllowance_isolated (h : s.notices.condition = .isolated) (target : Nat) : risenAllowance s target =
    if 0 < isolatedCapacity s then max s.share.allowance (min target (isolatedCapacity s - 0)) else s.share.allowance := by
  unfold risenAllowance riseRoom; rw [h]

/-- The allowance that a check leaves otherwise: the room that the peers leave of the capacity (R59). -/
theorem risenAllowance_joined (h : s.notices.condition ≠ .isolated) (target : Nat) : risenAllowance s target =
    if peerAllowances s.station s.share.peers < rawCapacity s then
      max s.share.allowance (min target (rawCapacity s - peerAllowances s.station s.share.peers))
    else s.share.allowance := by
  unfold risenAllowance riseRoom
  cases hc : s.notices.condition with
  | isolated => exact absurd hc h
  | listening => rfl
  | joined => rfl

end

/-- Settles O34: both parts read off the one equation of a recomputation, and of a rise check. -/
theorem shareIsAppliedAndRisesAreChecked : Obligations.ShareIsAppliedAndRisesAreChecked := by
  refine ⟨fun s => ?_, ?_⟩
  · intro t c old
    have hc : rawCapacity s = c := by
      simp only [rawCapacity, clamp, c, Nat.mul_comm]
      cases s.share.capacity.state <;> cases s.share.capacity.last <;> rfl
    have hshare : t.share.share = newShare s := recompute_share s
    refine ⟨?_, ?_, hshare, fun h => ?_, fun h => ?_, ?_, fun h => ?_, fun h => ?_⟩
    · simp only [t, recompute_eq, hc]
    · simp only [t, recompute_eq, hc]; rfl
    · rw [hshare] at h ⊢
      exact recompute_down h
    · rw [hshare] at h ⊢
      obtain ⟨hallowance, hrise⟩ := recompute_up h
      refine ⟨hallowance, hrise.trans ?_⟩
      rw [raiseRise_eq]; rfl
    · simp only [t, recompute_eq]
    · exact recompute_sched.trans (if_pos h)
    · have hsched : t.sched = takeAllowance t.share.allowance s.sched := recompute_sched.trans (if_neg h)
      rw [hsched]
      refine ⟨rfl, rfl, fun hcounter => giveRate_running hcounter⟩
  · intro s r hrun hr hdue isolated c p
    have hexec : exec .riseCheck s = .next (settle (takeRiseCheck s)) :=
      congrArg _ (live_whenDue hrun ((riseDue_iff s).mpr ⟨r, hr, hdue⟩) _)
    have hrisen : risenAllowance s r.target =
        if p < c then max s.share.allowance (min r.target (c - p)) else s.share.allowance := by
      by_cases hi : s.notices.condition = .isolated
      · simp only [risenAllowance_isolated hi, c, p, isolated, if_pos hi]; rfl
      · simp only [risenAllowance_joined hi, c, p, isolated, if_neg hi]; rfl
    refine ⟨_, hexec, ?_⟩
    rw [settle_share, takeRiseCheck_eq hr, hrisen]

end Sys2Proof.Machine

/-! The order of the participants of a water-fill (R53): they are placed by a key that a linear order compares. -/

namespace Sys2Proof.Machine

/-- Demand over weight, then the station number: what the cross products compare (R53). -/
def fillKey (p : Participant) : ℚ ×ₗ ℕ := toLex ((p.demand : ℚ) / p.weight, p.station)

/-! ### The comparison -/

section
variable {i j : Participant}

theorem comesBefore_iff : comesBefore i j = true ↔ i.demand * j.weight < j.demand * i.weight ∨
    (i.demand * j.weight = j.demand * i.weight ∧ i.station < j.station) := by
  simp only [comesBefore, Bool.or_eq_true, Bool.and_eq_true, decide_eq_true_eq]

/-- The cross products compare the quotients, where the weights are above 0. -/
theorem comesBefore_iff_fillKey (hi : 0 < i.weight) (hj : 0 < j.weight) :
    comesBefore i j = true ↔ fillKey i < fillKey j := by
  have hwi : (0 : ℚ) < i.weight := by exact_mod_cast hi
  have hwj : (0 : ℚ) < j.weight := by exact_mod_cast hj
  rw [comesBefore_iff, fillKey, fillKey, Prod.Lex.toLex_lt_toLex, div_lt_div_iff₀ hwi hwj,
    div_eq_div_iff hwi.ne' hwj.ne']
  norm_cast

/-- Of two participants of different stations one comes before the other. -/
theorem comesBefore_iff_not (hi : 0 < i.weight) (hj : 0 < j.weight) (hs : i.station ≠ j.station) :
    comesBefore i j = true ↔ comesBefore j i = false := by
  have hkeys : fillKey i ≠ fillKey j := fun h => hs (congrArg (fun k => (ofLex k).2) h)
  rw [← Bool.not_eq_true, comesBefore_iff_fillKey hi hj, comesBefore_iff_fillKey hj hi, not_lt]
  exact ⟨le_of_lt, fun h => lt_of_le_of_ne h hkeys⟩

/-- A participant placed at or before another has no more demand over weight. -/
theorem cross_le_of_fillKey_le (hi : 0 < i.weight) (hj : 0 < j.weight) (h : fillKey i ≤ fillKey j) :
    i.demand * j.weight ≤ j.demand * i.weight := by
  by_contra hlt
  have hback : comesBefore j i = true := comesBefore_iff.mpr (.inl (Nat.lt_of_not_le hlt))
  exact absurd ((comesBefore_iff_fillKey hj hi).mp hback) h.not_gt

end

/-! ### The list formed -/

section
variable {ps : List Participant}

theorem insertParticipant_perm (p : Participant) (qs : List Participant) : (insertParticipant p qs).Perm (p :: qs) := by
  induction qs with
  | nil => exact .refl _
  | cons q qs ih =>
    unfold insertParticipant; split
    · exact .refl _
    · exact (ih.cons q).trans (.swap ..)

theorem orderParticipants_perm (ps : List Participant) : (orderParticipants ps).Perm ps := by
  induction ps with
  | nil => exact .refl _
  | cons p ps ih => exact (insertParticipant_perm p _).trans (ih.cons p)

/-- A participant is placed before the first that it comes before. -/
theorem insertParticipant_ordered {p : Participant} (hp : 0 < p.weight) (hw : ∀ q ∈ ps, 0 < q.weight)
    (h : ps.Pairwise fun i j => fillKey i ≤ fillKey j) :
    (insertParticipant p ps).Pairwise fun i j => fillKey i ≤ fillKey j := by
  induction ps with
  | nil => exact List.pairwise_singleton ..
  | cons q qs ih =>
    obtain ⟨hq, hqs⟩ := List.forall_mem_cons.mp hw
    obtain ⟨hfirst, hrest⟩ := List.pairwise_cons.mp h
    have hkey : comesBefore p q = true ↔ fillKey p < fillKey q := comesBefore_iff_fillKey hp hq
    unfold insertParticipant; split
    · next hb =>
      have hlt : fillKey p < fillKey q := hkey.mp hb
      exact h.cons (List.forall_mem_cons.mpr ⟨hlt.le, fun x hx => hlt.le.trans (hfirst x hx)⟩)
    · next hb =>
      have hle : fillKey q ≤ fillKey p := le_of_not_gt (mt hkey.mpr hb)
      refine (ih hqs hrest).cons fun x hx => ?_
      obtain rfl | hx := List.mem_cons.mp ((insertParticipant_perm p qs).mem_iff.mp hx)
      · exact hle
      · exact hfirst x hx

theorem orderParticipants_ordered (hw : ∀ p ∈ ps, 0 < p.weight) :
    (orderParticipants ps).Pairwise fun i j => fillKey i ≤ fillKey j := by
  induction ps with
  | nil => exact .nil
  | cons p ps ih =>
    obtain ⟨hp, hps⟩ := List.forall_mem_cons.mp hw
    exact insertParticipant_ordered hp (fun q hq => hps q ((orderParticipants_perm ps).mem_iff.mp hq)) (ih hps)

/-- Each participant of the list comes before the next ones, where no station takes part twice. -/
theorem orderParticipants_comesBefore (hw : ∀ p ∈ ps, 0 < p.weight) (hs : (ps.map (·.station)).Nodup) :
    (orderParticipants ps).Pairwise fun i j => comesBefore i j = true := by
  have hperm : (orderParticipants ps).Perm ps := orderParticipants_perm ps
  have hweight {p : Participant} (hp : p ∈ orderParticipants ps) : 0 < p.weight := hw p (hperm.mem_iff.mp hp)
  have hstations : (orderParticipants ps).Pairwise fun i j => i.station ≠ j.station :=
    List.pairwise_map.mp ((hperm.map _).nodup_iff.mpr hs)
  refine ((orderParticipants_ordered hw).and hstations).imp_of_mem fun {i j} hi hj ⟨hle, hne⟩ => ?_
  rw [comesBefore_iff_not (hweight hi) (hweight hj) hne, ← Bool.not_eq_true,
    comesBefore_iff_fillKey (hweight hj) (hweight hi)]
  exact hle.not_gt

/-- The order of a set does not depend on the order in which it is given. -/
theorem orderParticipants_eq_of_perm {qs : List Participant} (hw : ∀ p ∈ ps, 0 < p.weight)
    (hs : (ps.map (·.station)).Nodup) (h : qs.Perm ps) : orderParticipants qs = orderParticipants ps := by
  have hwq : ∀ q ∈ qs, 0 < q.weight := fun q hq => hw q (h.mem_iff.mp hq)
  have hsq : (qs.map (·.station)).Nodup := (h.map _).nodup_iff.mpr hs
  have hqs : (orderParticipants qs).Perm qs := orderParticipants_perm qs
  refine List.Perm.eq_of_pairwise (fun i j hi hj hij hji => ?_) (orderParticipants_comesBefore hwq hsq)
    (orderParticipants_comesBefore hw hs) (hqs.trans (h.trans (orderParticipants_perm ps).symm))
  have hwi : 0 < i.weight := hwq i (hqs.mem_iff.mp hi)
  have hwj : 0 < j.weight := hw j ((orderParticipants_perm ps).mem_iff.mp hj)
  exact absurd ((comesBefore_iff_fillKey hwi hwj).mp hij) ((comesBefore_iff_fillKey hwj hwi).mp hji).not_gt

end

/-- Settles O35: the comparison is that of the keys, and placing keeps the list in their order. -/
theorem participantsAreOrderedByDemandPerWeight : Obligations.ParticipantsAreOrderedByDemandPerWeight := by
  refine ⟨fun i j => comesBefore_iff, fun ps hw hs => ⟨orderParticipants_perm ps, orderParticipants_comesBefore hw hs,
    fun qs h => orderParticipants_eq_of_perm hw hs h, fun i _ j _ hdemand hweight => Nat.mul_le_mul hdemand hweight,
    fun i hi j hj hne => comesBefore_iff_not (hw i hi) (hw j hj) fun h => hne ?_⟩⟩
  exact List.inj_on_of_nodup_map hs hi hj h

end Sys2Proof.Machine

/-! The water-fill: the walk of an ordered list, and the values that it gives (R52, R54). -/

namespace Sys2Proof.Machine

/-! ### The parts of a remaining capacity -/

section
variable {r w : Nat} {p q : Participant} {ps : List Participant}

/-- A participant's part of the remaining capacity is no more than all of it. -/
theorem part_le (h : p.weight ≤ w) : r * p.weight / w ≤ r :=
  Nat.div_le_of_le_mul (by rw [Nat.mul_comm w]; exact Nat.mul_le_mul_left r h)

theorem sum_parts_le_part_sum (r w : Nat) (ps : List Participant) :
    (ps.map fun q => r * q.weight / w).sum ≤ r * (ps.map (·.weight)).sum / w := by
  induction ps with
  | nil => exact Nat.zero_le _
  | cons p ps ih =>
    rw [List.map_cons, List.map_cons, List.sum_cons, List.sum_cons, Nat.mul_add]
    exact (Nat.add_le_add_left ih _).trans (Nat.div_add_div_le_add_div ..)

/-- The parts together are no more than the remaining capacity. -/
theorem sum_parts_le (h : w = (ps.map (·.weight)).sum) : (ps.map fun q => r * q.weight / w).sum ≤ r :=
  (sum_parts_le_part_sum r w ps).trans (Nat.div_le_of_le_mul (by rw [← h, Nat.mul_comm]))

/-- Behind a participant whose part does not reach its demand none does, in the order of demand over weight (R53). -/
theorem part_lt_of_fillKey_le (hp : 0 < p.weight) (hq : 0 < q.weight) (hle : fillKey p ≤ fillKey q) (hw : 0 < w)
    (h : r * p.weight / w < p.demand) : r * q.weight / w < q.demand := by
  rw [Nat.div_lt_iff_lt_mul hw] at h ⊢
  refine Nat.lt_of_mul_lt_mul_right (a := p.weight) ?_
  calc r * q.weight * p.weight = r * p.weight * q.weight := Nat.mul_right_comm ..
    _ < p.demand * w * q.weight := Nat.mul_lt_mul_of_pos_right h hq
    _ = p.demand * q.weight * w := Nat.mul_right_comm ..
    _ ≤ q.demand * p.weight * w := Nat.mul_le_mul_right w (cross_le_of_fillKey_le hp hq hle)
    _ = q.demand * w * p.weight := Nat.mul_right_comm ..

/-- Demands that all exceed their parts exceed the remaining capacity together, in proportion to the weights. -/
theorem capacity_le_of_parts_lt (hw : 0 < w) (h : ∀ q ∈ ps, r * q.weight / w < q.demand) :
    r * (ps.map (·.weight)).sum + ps.length ≤ (ps.map (·.demand)).sum * w := by
  induction ps with
  | nil => exact Nat.zero_le _
  | cons p ps ih =>
    obtain ⟨hp, hps⟩ := List.forall_mem_cons.mp h
    have hfirst : r * p.weight < p.demand * w := (Nat.div_lt_iff_lt_mul hw).mp hp
    have hrest := ih hps
    rw [List.map_cons, List.map_cons, List.sum_cons, List.sum_cons, Nat.mul_add, Nat.add_mul, List.length_cons]
    omega

/-! ### The walk (R54) -/

/-- A participant whose demand fits its part is given its demand. -/
theorem walk_fits (h : p.demand ≤ r * p.weight / w) :
    walk r w (p :: ps) = (p, p.demand) :: walk (r - p.demand) (w - p.weight) ps := if_pos h

/-- The first whose demand does not fit stops the walk. -/
theorem walk_stops (h : r * p.weight / w < p.demand) :
    walk r w (p :: ps) = (p :: ps).map fun q => (q, r * q.weight / w) := if_neg h.not_ge

theorem walk_fst (r w : Nat) (ps : List Participant) : (walk r w ps).map (·.1) = ps := by
  induction ps generalizing r w with
  | nil => rfl
  | cons p ps ih =>
    rcases Nat.lt_or_ge (r * p.weight / w) p.demand with h | h
    · rw [walk_stops h, List.map_map]; exact List.map_id _
    · rw [walk_fits h, List.map_cons, ih]

/-- The weight left behind the first participant is that of the rest. -/
theorem weight_left (h : w = ((p :: ps).map (·.weight)).sum) : w - p.weight = (ps.map (·.weight)).sum := by
  rw [h, List.map_cons, List.sum_cons]; omega

theorem weight_le (h : w = ((p :: ps).map (·.weight)).sum) : p.weight ≤ w := by
  rw [h, List.map_cons, List.sum_cons]; omega

/-- The values given by a walk are no more than its capacity together. -/
theorem walk_sum_le (h : w = (ps.map (·.weight)).sum) : ((walk r w ps).map (·.2)).sum ≤ r := by
  induction ps generalizing r w with
  | nil => exact Nat.zero_le _
  | cons p ps ih =>
    rcases Nat.lt_or_ge (r * p.weight / w) p.demand with hstops | hfits
    · rw [walk_stops hstops, List.map_map]; exact sum_parts_le h
    · rw [walk_fits hfits, List.map_cons, List.sum_cons]
      have hrest := ih (r := r - p.demand) (weight_left h)
      have hdemand : p.demand ≤ r := hfits.trans (part_le (weight_le h))
      dsimp only
      omega

/-- Where a walk of an ordered list stops, no part reaches its demand. -/
theorem parts_lt_of_stops (h : w = ((p :: ps).map (·.weight)).sum) (hw : ∀ q ∈ p :: ps, 0 < q.weight)
    (ho : (p :: ps).Pairwise fun i j => fillKey i ≤ fillKey j) (hstops : r * p.weight / w < p.demand) :
    ∀ q ∈ p :: ps, r * q.weight / w < q.demand := by
  have hp : 0 < p.weight := hw p List.mem_cons_self
  have hpos : 0 < w := Nat.lt_of_lt_of_le hp (weight_le h)
  refine List.forall_mem_cons.mpr ⟨hstops, fun q hq => ?_⟩
  exact part_lt_of_fillKey_le hp (hw q (List.mem_cons_of_mem p hq)) ((List.pairwise_cons.mp ho).1 q hq) hpos hstops

/-- A walk meets the demands before the stopping step, and gives less than the demands from it on. -/
theorem walk_splits (h : w = (ps.map (·.weight)).sum) (hw : ∀ q ∈ ps, 0 < q.weight)
    (ho : ps.Pairwise fun i j => fillKey i ≤ fillKey j) :
    ∃ k, (∀ g ∈ (walk r w ps).take k, g.2 = g.1.demand) ∧ ∀ g ∈ (walk r w ps).drop k, g.2 < g.1.demand := by
  induction ps generalizing r w with
  | nil => exact ⟨0, List.forall_mem_nil _, List.forall_mem_nil _⟩
  | cons p ps ih =>
    rcases Nat.lt_or_ge (r * p.weight / w) p.demand with hstops | hfits
    · refine ⟨0, List.forall_mem_nil _, fun g hg => ?_⟩
      rw [walk_stops hstops, List.drop_zero] at hg
      obtain ⟨q, hq, rfl⟩ := List.mem_map.mp hg
      exact parts_lt_of_stops h hw ho hstops q hq
    · obtain ⟨k, hmet, hless⟩ := ih (r := r - p.demand) (weight_left h) (List.forall_mem_cons.mp hw).2
        (List.pairwise_cons.mp ho).2
      refine ⟨k + 1, ?_, ?_⟩
      · rw [walk_fits hfits, List.take_succ_cons]
        exact List.forall_mem_cons.mpr ⟨rfl, hmet⟩
      · rw [walk_fits hfits, List.drop_succ_cons]; exact hless

/-- A walk whose capacity holds all demands never stops. -/
theorem walk_meets (h : w = (ps.map (·.weight)).sum) (hw : ∀ q ∈ ps, 0 < q.weight)
    (ho : ps.Pairwise fun i j => fillKey i ≤ fillKey j) (hr : (ps.map (·.demand)).sum ≤ r) :
    ∀ g ∈ walk r w ps, g.2 = g.1.demand := by
  induction ps generalizing r w with
  | nil => exact List.forall_mem_nil _
  | cons p ps ih =>
    rcases Nat.lt_or_ge (r * p.weight / w) p.demand with hstops | hfits
    · have hpos : 0 < w := Nat.lt_of_lt_of_le (hw p List.mem_cons_self) (weight_le h)
      have hexceeds := capacity_le_of_parts_lt hpos (parts_lt_of_stops h hw ho hstops)
      have hholds := Nat.mul_le_mul_right w hr
      rw [← h, List.length_cons] at hexceeds
      omega
    · rw [walk_fits hfits]
      rw [List.map_cons, List.sum_cons] at hr
      exact List.forall_mem_cons.mpr ⟨rfl, ih (weight_left h) (List.forall_mem_cons.mp hw).2
        (List.pairwise_cons.mp ho).2 (by omega)⟩

end

/-! ### The values given (R52, R54) -/

section
variable {capacity : Nat} {ps : List Participant}

theorem weight_orderParticipants (ps : List Participant) :
    (ps.map (·.weight)).sum = ((orderParticipants ps).map (·.weight)).sum :=
  ((orderParticipants_perm ps).map _).sum_eq.symm

theorem weight_pos_of_mem_order (hw : ∀ p ∈ ps, 0 < p.weight) : ∀ p ∈ orderParticipants ps, 0 < p.weight :=
  fun p hp => hw p ((orderParticipants_perm ps).mem_iff.mp hp)

theorem waterFill_fst (capacity : Nat) (ps : List Participant) :
    (waterFill capacity ps).map (·.1) = orderParticipants ps := walk_fst ..

theorem waterFill_sum_le (capacity : Nat) (ps : List Participant) :
    ((waterFill capacity ps).map (·.2)).sum ≤ capacity := walk_sum_le (weight_orderParticipants ps)

theorem waterFill_splits (hw : ∀ p ∈ ps, 0 < p.weight) :
    ∃ k, (∀ g ∈ (waterFill capacity ps).take k, g.2 = g.1.demand) ∧
      ∀ g ∈ (waterFill capacity ps).drop k, g.2 < g.1.demand :=
  walk_splits (weight_orderParticipants ps) (weight_pos_of_mem_order hw) (orderParticipants_ordered hw)

/-- No participant is given more than its demand. -/
theorem waterFill_le_demand (hw : ∀ p ∈ ps, 0 < p.weight) : ∀ g ∈ waterFill capacity ps, g.2 ≤ g.1.demand := by
  obtain ⟨k, hmet, hless⟩ := waterFill_splits (capacity := capacity) hw
  intro g hg
  rw [← List.take_append_drop k (waterFill capacity ps), List.mem_append] at hg
  rcases hg with hg | hg
  · exact (hmet g hg).le
  · exact (hless g hg).le

/-- Demands that fit the capacity together are met. -/
theorem waterFill_meets (hw : ∀ p ∈ ps, 0 < p.weight) (h : (ps.map (·.demand)).sum ≤ capacity) :
    ∀ g ∈ waterFill capacity ps, g.2 = g.1.demand :=
  walk_meets (weight_orderParticipants ps) (weight_pos_of_mem_order hw) (orderParticipants_ordered hw)
    (((orderParticipants_perm ps).map _).sum_eq.trans_le h)

theorem exists_mem_waterFill_iff {q : Participant} :
    (∃ g ∈ waterFill capacity ps, g.1 = q) ↔ q ∈ ps := by
  rw [← (orderParticipants_perm ps).mem_iff, ← waterFill_fst capacity ps, List.mem_map]

/-- A station that takes part is given the value of its participant. -/
theorem givenTo_mem {station : Nat} {given : List (Participant × Nat)} (h : ∃ g ∈ given, g.1.station = station) :
    ∃ g ∈ given, g.1.station = station ∧ g.2 = givenTo station given := by
  have hfound : (given.find? fun g => g.1.station == station).isSome := List.find?_isSome.mpr (by simpa using h)
  obtain ⟨g, hg⟩ := Option.isSome_iff_exists.mp hfound
  exact ⟨g, List.mem_of_find?_eq_some hg, by simpa using List.find?_some hg, by rw [givenTo, hg]; rfl⟩

/-- A station that takes no part is given nothing. -/
theorem givenTo_none {station : Nat} {given : List (Participant × Nat)} (h : ∀ g ∈ given, g.1.station ≠ station) :
    givenTo station given = 0 := by
  rw [givenTo, List.find?_eq_none.mpr (by simpa using h)]; rfl

end

/-! ### The computed share (R52, R54, R56) -/

section
variable {s : State}

theorem mem_participants {own : StationNo} {peers : Table Peer 8} {p : Participant} : p ∈ participants own peers ↔
    ∃ k, takesPart own k (look peers k) = true ∧ p = ⟨k.val, (look peers k).demand, (look peers k).weight⟩ := by
  simp only [participants, List.mem_filterMap, indices, List.mem_finRange, true_and]
  refine exists_congr fun k => ?_
  split
  · next h => simp only [h, true_and, Option.some.injEq, eq_comm]
  · next h => simp only [h, Bool.false_eq_true, false_and, reduceCtorEq]

/-- The own entry takes part where it has a demand (R52). -/
theorem takesPart_own {own : StationNo} {p : Peer} : takesPart own own p = true ↔ 0 < p.demand := by
  simp [takesPart]

theorem shareOf_joined (h : s.notices.condition ≠ .isolated) : shareOf s =
    givenTo s.station.val (waterFill (lessHeadroom s (rawCapacity s)) (participants s.station s.share.peers)) := by
  unfold shareOf
  cases hc : s.notices.condition with
  | isolated => exact absurd hc h
  | listening => rfl
  | joined => rfl

/-- The participant of a station number is that station's entry. -/
theorem participant_demand {own k : StationNo} {peers : Table Peer 8} {p : Participant}
    (hp : p ∈ participants own peers) (hk : p.station = k.val) : p.demand = (look peers k).demand := by
  obtain ⟨j, -, rfl⟩ := mem_participants.mp hp
  rw [Fin.ext hk]

end

/-- Settles O36: the walk by induction on its list, whose order makes the first demand that does not fit the last one met;
the share is the value that it gives the own entry. -/
theorem waterFillNeverExceedsTheCapacityOrADemand : Obligations.WaterFillNeverExceedsTheCapacityOrADemand := by
  refine ⟨fun capacity ps hw => ⟨rfl, waterFill_fst capacity ps, waterFill_sum_le capacity ps, waterFill_le_demand hw,
    waterFill_splits hw, waterFill_meets hw⟩, fun r i rest hi => ?_, fun s hc hweights => ?_⟩
  · intro w f
    have hle : i.weight ≤ w := weight_le rfl
    exact ⟨hle, Nat.lt_of_lt_of_le hi hle, weight_left rfl, walk_fits, walk_stops,
      fun hr j _ hj => Nat.mul_le_mul hr hj⟩
  · intro ps
    have hw : ∀ p ∈ ps, 0 < p.weight := fun p hp => by
      obtain ⟨k, hk, rfl⟩ := mem_participants.mp hp
      exact hweights k hk
    rw [shareOf_joined hc]
    refine ⟨?_, fun hdemand => givenTo_mem ?_⟩
    · by_cases hpart : ∃ g ∈ waterFill (lessHeadroom s (rawCapacity s)) ps, g.1.station = s.station.val
      · obtain ⟨g, hg, hstation, hvalue⟩ := givenTo_mem hpart
        rw [← hvalue, ← participant_demand (exists_mem_waterFill_iff.mp ⟨g, hg, rfl⟩) hstation]
        exact waterFill_le_demand hw g hg
      · rw [givenTo_none (by simpa using hpart)]; exact Nat.zero_le _
    · obtain ⟨g, hg, hown⟩ := exists_mem_waterFill_iff.mpr (mem_participants.mpr ⟨s.station, takesPart_own.mpr hdemand, rfl⟩)
      exact ⟨g, hg, by rw [hown]⟩

end Sys2Proof.Machine

/-! Presence: the peer table as a STATUS, a CAPACITY notice and the presence and capacity timers leave it (R42 to R44, R46,
R127). -/

namespace Sys2Proof.Machine

/-! ### What leaves the peer table and the capacity view alone -/

/-- The peer table, the capacity view, the time and the settings stand. -/
structure PeersStand (s t : State) : Prop where
  peers : t.share.peers = s.share.peers
  capacity : t.share.capacity = s.share.capacity
  time : t.time = s.time
  loader : t.loader = s.loader

theorem PeersStand.trans {s t u : State} (h : PeersStand s t) (k : PeersStand t u) : PeersStand s u :=
  ⟨k.peers.trans h.peers, k.capacity.trans h.capacity, k.time.trans h.time, k.loader.trans h.loader⟩

theorem PeersStand.station {s t : State} (h : PeersStand s t) : t.station = s.station := by
  rw [State.station, h.loader]; rfl

theorem Undisturbed.peersStand {s t : State} (h : Undisturbed s t) : PeersStand s t :=
  ⟨congrArg Share.peers h.share, congrArg Share.capacity h.share, h.clocks.1, h.loader⟩

/-- A chain with the share out of its scope. -/
theorem Leads.peersStand {sc : Scope} {s t : State} (hs : sc.share = false) (h : Leads sc s t) : PeersStand s t :=
  ⟨congrArg Share.peers (h.keeps_share hs), congrArg Share.capacity (h.keeps_share hs), h.time, h.loader⟩

theorem peersStand_recompute (s : State) : PeersStand s (recompute s) := by
  obtain ⟨-, -, htime, hloader, -, -, -, -, -, -, -, -, -, hpeers, hcapacity, -⟩ := recompute_frame s
  exact ⟨hpeers, hcapacity, htime, hloader⟩

theorem peersStand_changeView (f : Claims → Claims) (s : State) : PeersStand s (changeView f s) :=
  PeersStand.trans (t := setClaims (withTurn s.time f) s) ⟨rfl, rfl, rfl, rfl⟩
    (Leads.peersStand (sc := Scope.none) rfl (leads_followOwn .refl))

theorem peersStand_tellPresence (k : StationNo) (old new : Presence) (s : State) :
    PeersStand s (tellPresence k old new s) := by
  unfold tellPresence; split
  · exact .trans (t := setPresent k false s) ⟨rfl, rfl, rfl, rfl⟩ (peersStand_changeView (viewGone k) _)
  · split <;> exact ⟨rfl, rfl, rfl, rfl⟩

theorem peersStand_setCondition (c : BusCondition) (s : State) : PeersStand s (setCondition c s) := by
  by_cases h : s.notices.condition = c
  · rw [setCondition_same h]; exact ⟨rfl, rfl, rfl, rfl⟩
  · have hreported := (queueReport_frame (.busCondition s.notices.condition c)
      (setNotices (fun n => { n with condition := c }) s)).1.peersStand
    rw [setCondition_changed h]
    exact .trans ⟨hreported.peers, hreported.capacity, hreported.time, hreported.loader⟩ (peersStand_recompute _)

theorem peersStand_countNotice (s : State) : PeersStand s (countNotice s) := by
  unfold countNotice; split
  · exact ⟨rfl, rfl, rfl, rfl⟩
  · have hjoined := peersStand_setCondition .joined
      (setNotices (fun n => { n with isolationAt := some (s.time + 4 * period s.settings) }) s)
    exact ⟨hjoined.peers, hjoined.capacity, hjoined.time, hjoined.loader⟩

/-! ### A presence state taken (R43) -/

/-- An entry that takes a presence state at a station time. -/
def withPresence (time : Nat) (new : Presence) (p : Peer) : Peer :=
  { p with presence := new, joinedAt := if new = .joining then some time else p.joinedAt }

/-- A changed presence state, reported and with the share recomputed, before the claim unit hears of it. -/
def presenceTaken (k : StationNo) (new : Presence) (s : State) : State :=
  recompute (queueReport (.peer k (peerOf s k).presence new) (setPeer k (withPresence s.time new) s))

section
variable {k : StationNo} {new : Presence} {s : State}

theorem setPresence_same (h : new = (peerOf s k).presence) : setPresence k new s = s := if_pos h

theorem setPresence_changed (h : new ≠ (peerOf s k).presence) :
    setPresence k new s = tellPresence k (peerOf s k).presence new (presenceTaken k new s) := if_neg h

theorem peersStand_presenceTaken (k : StationNo) (new : Presence) (s : State) :
    PeersStand (setPeer k (withPresence s.time new) s) (presenceTaken k new s) :=
  (queueReport_frame _ _).1.peersStand.trans (peersStand_recompute _)

theorem peersStand_setPresence (h : new ≠ (peerOf s k).presence) :
    PeersStand (setPeer k (withPresence s.time new) s) (setPresence k new s) := by
  rw [setPresence_changed h]
  exact (peersStand_presenceTaken k new s).trans (peersStand_tellPresence ..)

theorem presenceTaken_claims (k : StationNo) (new : Presence) (s : State) :
    (presenceTaken k new s).claims = s.claims := by
  rw [presenceTaken, (recompute_rest _).2.2.2.2, queueReport_claims]; rfl

theorem setPresence_entry (h : new = .joining → (peerOf s k).presence ≠ .joining) :
    look (setPresence k new s).share.peers k = withPresence s.time new (look s.share.peers k) := by
  by_cases hsame : new = (peerOf s k).presence
  · have hstays : new ≠ .joining := fun hj => h hj (hsame.symm.trans hj)
    rw [setPresence_same hsame, withPresence, if_neg hstays, hsame]; rfl
  · rw [(peersStand_setPresence hsame).peers]; exact look_alter_same ..

theorem setPresence_others {j : StationNo} (hj : j ≠ k) :
    look (setPresence k new s).share.peers j = look s.share.peers j := by
  by_cases hsame : new = (peerOf s k).presence
  · rw [setPresence_same hsame]
  · rw [(peersStand_setPresence hsame).peers]; exact look_alter_ne _ _ _ _ hj.symm

theorem setPresence_capacity : (setPresence k new s).share.capacity = s.share.capacity := by
  by_cases hsame : new = (peerOf s k).presence
  · rw [setPresence_same hsame]
  · exact (peersStand_setPresence hsame).capacity

end

/-! ### A station that is gone (R43, R127) -/

theorem Change.keeps_present {sc : Scope} {s t : State} (hsc : sc.view = false) (h : Change sc s t) :
    t.claims.present = s.claims.present := by
  cases h with
  | claims f hf _ => exact (hf _).present
  | view _ _ hs => rw [hsc] at hs; cases hs
  | recompute => rw [(recompute_rest s).2.2.2.2]
  | riseCheck => rw [(takeRiseCheck_frame s).2.2.2.2]
  | _ => rfl

theorem followOwn_present (s : State) : (followOwn s).claims.present = s.claims.present :=
  Leads.same (sc := Scope.none) (fun u => u.claims.present) (fun _ _ c => c.keeps_present rfl) (leads_followOwn .refl)

theorem viewGone_eq (k : StationNo) (cl : Claims) : viewGone k cl =
    { cl with
      queue := withoutStation k cl.queue
      holder := if cl.holder = some k then none else cl.holder
      expiry := if cl.holder = some k then none else cl.expiry } := by
  unfold viewGone; dsimp only; split <;> rfl

/-- Neither the hold nor the claim of a station outlasts its absence (R127). -/
theorem tellPresence_absent (k : StationNo) (old : Presence) (s : State) :
    look (tellPresence k old .absent s).claims.present k = false ∧
    (tellPresence k old .absent s).claims.holder ≠ some k ∧
    ∀ c ∈ (tellPresence k old .absent s).claims.queue, c.station ≠ k := by
  have htold : tellPresence k old .absent s =
      followOwn (setClaims (withTurn s.time (viewGone k)) (setPresent k false s)) := rfl
  have hview := followOwn_heldView (setClaims (withTurn s.time (viewGone k)) (setPresent k false s))
  simp only [heldView, Prod.mk.injEq] at hview
  obtain ⟨hholder, hqueue, -⟩ := hview
  rw [htold, followOwn_present, hholder, hqueue]
  simp only [setClaims_claims, withTurn, viewGone_eq]
  refine ⟨look_put_same .., ?_, fun c hc => ?_⟩
  · split
    · exact Option.some_ne_none k |>.symm
    · assumption
  · exact of_decide_eq_true (List.mem_filter.mp hc).2

/-! ### The presence timers and the capacity view's timer (R43, R46) -/

section
variable {k : StationNo} {s : State}

/-- The state that a presence timer's end gives (R43). -/
theorem takePresenceExpiry_eq (k : StationNo) (s : State) : takePresenceExpiry k s =
    setPresence k (if (look s.share.peers k).presence = .present then .stale else .absent) s := by
  unfold takePresenceExpiry peerOf
  cases (look s.share.peers k).presence <;> rfl

theorem takeCapacityExpiry_eq (s : State) : takeCapacityExpiry s = { s with share := { s.share with
    capacity := { s.share.capacity with
      state := if s.share.capacity.state = .current then .stale else .none } } } := by
  unfold takeCapacityExpiry
  cases h : s.share.capacity.state <;> simp only [setShare, h] <;> rfl

theorem due_presence (h : Due s (.presenceTimerExpiry k)) :
    k ≠ s.station ∧ (look s.share.peers k).presence ≠ .absent := by
  obtain ⟨hk, hdue⟩ := h
  refine ⟨hk, fun ha => ?_⟩
  rw [ha] at hdue
  exact hdue

theorem due_capacity (h : Due s .capacityViewExpiry) : s.share.capacity.state ≠ .none := by
  intro hn
  simp only [Due, hn] at h

/-- A timed command whose timer is not due leaves only the searches to be made. -/
theorem live_whenDue_not {due : State → Bool} (hrun : s.power = .running) (h : ¬ due s = true) (f : State → State) :
    live (whenDue due f) s = settle s := by
  rw [live_running hrun, whenDue_not (Bool.eq_false_iff.mpr h)]

/-- The presence that an ended timer gives is a new one, and not JOINING. -/
theorem presence_moves {old : Presence} (h : old ≠ .absent) :
    (if old = .present then Presence.stale else .absent) ≠ old ∧
    (if old = .present then Presence.stale else .absent) ≠ .joining := by
  cases old <;> simp_all

end

/-- Settles O32: an ended presence timer is a presence state taken, which the claim unit hears of where it is ABSENT. -/
theorem presenceAndCapacityTimersMoveOneStateOn : Obligations.PresenceAndCapacityTimersMoveOneStateOn := by
  intro s hrun
  refine ⟨fun k => ⟨fun hdue => ?_, fun hdue => ?_⟩, fun hdue => ?_, fun hdue => ⟨due_capacity hdue, ?_⟩⟩
  · exact congrArg _ (live_whenDue_not hrun (mt (presenceDue_iff s k).mp hdue) _)
  · obtain ⟨hk, hpresent⟩ := due_presence hdue
    obtain ⟨hnew, hjoining⟩ := presence_moves hpresent
    have hexec : exec (.presenceTimerExpiry k) s = .next (settle (takePresenceExpiry k s)) :=
      congrArg _ (live_whenDue hrun ((presenceDue_iff s k).mpr hdue) _)
    rw [takePresenceExpiry_eq] at hexec
    refine ⟨_, hexec, hk, hpresent, fun j => ?_, fun hp => ?_, fun hp => ?_⟩
    · rw [settle_share, (peersStand_setPresence hnew).peers]
      change look (alter s.share.peers k _) j = _
      rw [look_alter]
      simp only [withPresence, if_neg hjoining, eq_comm (a := k)]
    · rw [settle_claims, setPresence_changed hnew, if_neg hp]
      exact tellPresence_absent k _ _
    · rw [settle_claims, setPresence_changed hnew, if_pos hp, peerOf, hp]
      exact presenceTaken_claims k .stale s
  · exact congrArg _ (live_whenDue_not hrun (mt (capacityDue_iff s).mp hdue) _)
  · rw [← takeCapacityExpiry_eq]
    exact congrArg _ (live_whenDue hrun ((capacityDue_iff s).mpr hdue) _)

/-! ### A peer's STATUS (R42 to R44) -/

/-- The sequence numbers that a notice has skipped since the last one of its sender (R44). -/
def skipped (n : Nat) (afresh : Bool) (p : Peer) : Nat :=
  match p.lastSequence with
  | none => 0
  | some m => if p.presence = .absent ∨ afresh = true then 0 else (n + 256 - m) % 256 - 1

theorem trackSequence_eq (n : Nat) (afresh : Bool) (p : Peer) : trackSequence n afresh p = { p with
    lastSequence := some n
    missed := if skipped n afresh p = 0 then p.missed else min 255 (p.missed + skipped n afresh p) } := by
  unfold trackSequence skipped
  cases p.lastSequence with
  | none => rfl
  | some m =>
    by_cases h : p.presence = .absent ∨ afresh = true
    · simp [h, ← or_assoc]
    · obtain ⟨hpresence, hafresh⟩ := not_or.mp h
      simp [hpresence, hafresh, satAdd, Nat.sub_eq_zero_iff_le]

/-- A peer's entry as a STATUS at a station time leaves it (R42 to R44). -/
def statusTaken (time n : Nat) (restart holding : Bool) (weight demand allowance : Nat) (p : Peer) : Peer :=
  { p with
    presence := if p.presence = .absent then .joining else .present
    joinedAt := if p.presence = .absent then some time else p.joinedAt
    lastSequence := some n
    missed := if skipped n restart p = 0 then p.missed else min 255 (p.missed + skipped n restart p)
    demand := 8 * demand, weight := weight, holding := holding, allowance := 8 * allowance
    lastStatus := some time }

/-- The presence after a STATUS is JOINING from ABSENT alone (R43). -/
theorem presenceAfterStatus_eq (old : Presence) :
    presenceAfterStatus old = if old = .absent then .joining else .present := by cases old <;> rfl

section
variable (n : Nat) (restart holding : Bool) (weight demand allowance : Nat) (k : StationNo) (s : State)

/-- The entry with the fields of the STATUS stored, before its presence moves (R42). -/
def fieldsStored : State :=
  setPeer k (fun p => storeStatus s.time weight demand allowance holding (trackSequence n restart p)) s

/-- The state in which the presence of the STATUS's sender has moved (R43). -/
def presenceMoved : State :=
  setPresence k (presenceAfterStatus (peerOf (fieldsStored n restart holding weight demand allowance k s) k).presence)
    (fieldsStored n restart holding weight demand allowance k s)

/-- Behind the move of the presence a STATUS leaves the peer table alone (R42). -/
theorem peersStand_peerStatus : PeersStand (presenceMoved n restart holding weight demand allowance k s)
    (peerStatus k n restart holding weight demand allowance s) := by
  cases restart with
  | true => exact (peersStand_changeView _ _).trans (peersStand_recompute _)
  | false => exact peersStand_recompute _

theorem peerStatus_entry : look (peerStatus k n restart holding weight demand allowance s).share.peers k =
    statusTaken s.time n restart holding weight demand allowance (look s.share.peers k) := by
  have hstored : look (fieldsStored n restart holding weight demand allowance k s).share.peers k =
      storeStatus s.time weight demand allowance holding (trackSequence n restart (look s.share.peers k)) :=
    look_alter_same ..
  have hpresence : (peerOf (fieldsStored n restart holding weight demand allowance k s) k).presence =
      (look s.share.peers k).presence := by rw [peerOf, hstored]; rfl
  rw [(peersStand_peerStatus ..).peers, presenceMoved, setPresence_entry, hstored, hpresence, trackSequence_eq,
    presenceAfterStatus_eq]
  · by_cases h : (look s.share.peers k).presence = .absent <;>
      simp [withPresence, storeStatus, statusTaken, fieldsStored, setPeer, h, Nat.mul_comm]
  · rw [hpresence, presenceAfterStatus_eq]
    intro hj
    split at hj
    · next ha => rw [ha]; decide
    · cases hj

theorem peerStatus_others : (∀ j, j ≠ k → look (peerStatus k n restart holding weight demand allowance s).share.peers j =
    look s.share.peers j) ∧
    (peerStatus k n restart holding weight demand allowance s).share.capacity = s.share.capacity := by
  have hstand := peersStand_peerStatus n restart holding weight demand allowance k s
  rw [hstand.capacity, presenceMoved, setPresence_capacity]
  refine ⟨fun j hj => ?_, rfl⟩
  rw [hstand.peers, presenceMoved, setPresence_others hj]
  exact look_alter_ne _ _ _ _ hj.symm

end

/-! ### Good notices of peers, handed on (R33, R42, R46) -/

section
variable {g : GoodNotice} {s : State}

/-- A good notice as the blocks that act on it are handed it, where the sender's number is not the station's own. -/
theorem takeGood_handed (hs : g.sender.val ≠ s.station.val) :
    ∃ u, takeGood g (setNotices noticeEnded s) = handOn g u ∧ PeersStand s u := by
  have hheard : PeersStand s (setNotices (heardFrom g.sender) (setNotices noticeEnded s)) := ⟨rfl, rfl, rfl, rfl⟩
  refine ⟨_, ?_, hheard.trans (peersStand_countNotice _)⟩
  have hown : duplicateChecked g (setNotices (heardFrom g.sender) (setNotices noticeEnded s)) =
      setNotices (heardFrom g.sender) (setNotices noticeEnded s) := if_neg hs
  rw [← hown]; rfl

theorem handOn_status {k : StationNo} {sequence : Nat} {restart holding : Bool} {weight demand allowance : Nat}
    (hk : k ≠ s.station) : handOn ⟨⟨k.val, by omega⟩, sequence, .status restart holding weight demand allowance⟩ s =
    changeView (viewStatus k holding) (peerStatus k sequence restart holding weight demand allowance s) := by
  have hlt : k.val < 8 := k.isLt
  simp only [handOn, dif_pos hlt]
  exact if_neg hk

end

/-- Settles O27: the blocks that a good notice of a peer is handed to, of which the peer table alone writes an entry. -/
theorem statusAndCapacityNoticesUpdateTheirEntry : Obligations.StatusAndCapacityNoticesUpdateTheirEntry := by
  intro levels recessive s hrun hframing hattempt hended heard
  have hexec : exec (.noticeEnd levels recessive) s = .next (settle (takeNotice (busLevels levels recessive) s)) :=
    congrArg _ (live_running hrun)
  have hends : NoticeEnds (busLevels levels recessive) s := ⟨hframing, hattempt, hended⟩
  refine ⟨fun k sequence restart holding weight demand allowance hk hheard => ?_, fun sequence value hheard => ?_⟩
  · intro p skips
    obtain ⟨u, hu, hstand⟩ := takeGood_handed
      (g := ⟨⟨k.val, by omega⟩, sequence, .status restart holding weight demand allowance⟩) (s := s)
      (fun h => hk (Fin.ext h))
    obtain ⟨hothers, hcapacity⟩ := peerStatus_others sequence restart holding weight demand allowance k u
    rw [takeNotice_good hends hheard, hu, handOn_status (by rw [hstand.station]; exact hk)] at hexec
    have hview := (peersStand_changeView (viewStatus k holding)
      (peerStatus k sequence restart holding weight demand allowance u)).trans (undisturbed_settle _).peersStand
    refine ⟨_, hexec, ?_, fun j hj => ?_, ?_⟩
    · rw [hview.peers, peerStatus_entry, hstand.peers, hstand.time]; rfl
    · rw [hview.peers, hothers j hj, hstand.peers]
    · rw [hview.capacity, hcapacity, hstand.capacity]
  · obtain ⟨u, hu, hstand⟩ := takeGood_handed (g := ⟨8, sequence, .capacity value⟩) (s := s) (by
      have := s.station.isLt
      change 8 ≠ _
      omega)
    rw [takeNotice_good hends hheard, hu] at hexec
    have hview := (peersStand_recompute (setShare (fun sh =>
      { sh with capacity := ⟨.current, some value, some u.time⟩ }) u)).trans (undisturbed_settle _).peersStand
    refine ⟨_, hexec, ?_, hview.peers.trans hstand.peers⟩
    rw [← hstand.time]
    exact hview.capacity

end Sys2Proof.Machine

/-! The ledger of the cells: each cell is free, or counted by the holders that it has (R62, R63). The cells that holders have
are a multiset, in which a cell stands once for each holder. -/

namespace Sys2Proof.Machine

/-- The free list and the reference counts account for the holders `m`: the count of a cell is the number of its holders,
and the free list holds once each cell that has none. -/
structure Balanced (st : Store) (m : Multiset CellNo) : Prop where
  once : st.free.Nodup
  counted : ∀ c, look st.refs c = m.count c
  free : ∀ c, c ∈ st.free ↔ look st.refs c = 0

section
variable {st st' : Store} {m : Multiset CellNo} {c : CellNo} {cells : List CellNo}

/-- The ledger reads the free list and the counts alone. -/
theorem Balanced.congr (h : Balanced st m) (hfree : st'.free = st.free) (hrefs : st'.refs = st.refs) : Balanced st' m :=
  ⟨by rw [hfree]; exact h.once, by rw [hrefs]; exact h.counted, by rw [hfree, hrefs]; exact h.free⟩

theorem Balanced.mem_free (h : Balanced st m) : c ∈ st.free ↔ c ∉ m := by
  rw [h.free, h.counted, Multiset.count_eq_zero]

/-- A ledger is balanced once each count is its cell's, and the cells without a holder are free once each. -/
theorem Balanced.of_mem (hnodup : st.free.Nodup) (hcount : ∀ c, look st.refs c = m.count c)
    (hfree : ∀ c, c ∈ st.free ↔ c ∉ m) : Balanced st m :=
  ⟨hnodup, hcount, fun c => by rw [hfree, hcount, Multiset.count_eq_zero]⟩

theorem look_dropCell (st : Store) (c d : CellNo) :
    look (dropCell st c).refs d = look st.refs d - if c = d then 1 else 0 := by
  rw [dropCell, look_put]
  split
  · next h => rw [h]
  · rfl

/-- A holder of a cell given up (R63). -/
theorem Balanced.dropCell (h : Balanced st (c ::ₘ m)) : Balanced (dropCell st c) m := by
  have hheld : look st.refs c = m.count c + 1 := by rw [h.counted, Multiset.count_cons_self]
  have hnot : c ∉ st.free := by rw [h.mem_free]; simp
  refine .of_mem ?_ (fun d => ?_) fun d => ?_
  · unfold Machine.dropCell; dsimp only; split
    · exact h.once.append (List.nodup_singleton c) (by simpa using hnot)
    · exact h.once
  · rw [look_dropCell, h.counted]
    by_cases hd : c = d
    · subst hd; simp
    · rw [Multiset.count_cons_of_ne (Ne.symm hd), if_neg hd, Nat.sub_zero]
  · have hd := h.mem_free (c := d)
    unfold Machine.dropCell; dsimp only; split
    · next hleft =>
      have hc : c ∉ m := by rw [← Multiset.count_eq_zero]; omega
      by_cases hdc : d = c
      · subst hdc; simp [hc]
      · simpa [hdc] using hd
    · next hleft =>
      have hc : c ∈ m := by rw [← Multiset.count_pos]; omega
      by_cases hdc : d = c
      · subst hdc; simp [hc, hnot]
      · simpa [hdc] using hd

/-- A holder of a frame given up (R63). -/
theorem Balanced.dropHolder (h : Balanced st (cells + m)) : Balanced (dropHolder cells st) m := by
  induction cells generalizing st with
  | nil => rwa [Multiset.coe_nil, zero_add] at h
  | cons c cs ih =>
    rw [← Multiset.cons_coe, Multiset.cons_add] at h
    exact ih h.dropCell

/-- One more holder of a frame that is held already (R63). -/
theorem Balanced.addHolder (hheld : ∀ c ∈ cells, c ∈ m) (h : Balanced st m) :
    Balanced (addHolder cells st) (cells + m) := by
  have hrefs (cs : List CellNo) (t : Table Nat 2048) (d : CellNo) :
      look (cs.foldl (fun t c => alter t c (· + 1)) t) d = look t d + cs.count d := by
    induction cs generalizing t with
    | nil => rfl
    | cons c cs ih =>
      rw [List.foldl_cons, ih, look_alter, List.count_cons]
      by_cases hd : c = d
      · subst hd; simp; omega
      · simp [hd]
  refine .of_mem h.once (fun d => ?_) fun d => ?_
  · rw [Machine.addHolder, hrefs, h.counted, Multiset.count_add, Multiset.coe_count, Nat.add_comm]
  · rw [Multiset.mem_add, not_or, Multiset.mem_coe]
    exact h.mem_free.trans ⟨fun hd => ⟨mt (hheld d) hd, hd⟩, And.right⟩

/-- Cells taken off the free list, each with one holder (R62, R63). -/
theorem Balanced.claimCells {rest : List CellNo} (hfree : st.free = cells ++ rest) (h : Balanced st m) :
    Balanced (claimCells st cells rest) (cells + m) := by
  have hrefs (cs : List CellNo) (t : Table Nat 2048) (d : CellNo) :
      look (cs.foldl (fun t c => put t c 1) t) d = if d ∈ cs then 1 else look t d := by
    induction cs generalizing t with
    | nil => rfl
    | cons c cs ih =>
      rw [List.foldl_cons, ih, look_put]
      by_cases hd : c = d
      · simp [hd]
      · simp [hd, Ne.symm hd]
  have honce := h.once
  rw [hfree, List.nodup_append] at honce
  obtain ⟨hcells, hrest, hapart⟩ := honce
  refine .of_mem hrest (fun d => ?_) fun d => ?_
  · rw [Machine.claimCells, hrefs, Multiset.count_add, Multiset.coe_count]
    split
    · next hd =>
      have hnone : d ∉ m := h.mem_free.mp (by rw [hfree]; exact List.mem_append_left _ hd)
      rw [List.count_eq_one_of_mem hcells hd, Multiset.count_eq_zero.mpr hnone]
    · next hd => rw [h.counted, List.count_eq_zero_of_not_mem hd, Nat.zero_add]
  · have hd := h.mem_free (c := d)
    rw [hfree, List.mem_append] at hd
    rw [Multiset.mem_add, not_or, Multiset.mem_coe, ← hd]
    exact ⟨fun hr => ⟨fun hc => hapart d hc d hr rfl, .inr hr⟩, fun ⟨hc, hor⟩ => hor.resolve_left hc⟩

end

/-! ### The cells that are held (R63) -/

/-- The cells of some chains. -/
def cellsOf (chains : List (List CellNo)) : Multiset CellNo := (chains.map (Multiset.ofList ·)).sum

/-- The cells of the frames in a queue. -/
def queuedCells (q : List Entry) : Multiset CellNo := cellsOf (q.map (·.cells))

/-- The cells of the frame that a line port sends. -/
def sendingCells (x : Option Entry) : Multiset CellNo := cellsOf (x.map (·.cells)).toList

/-- The cells of the frame in flight on the uplink port. -/
def flightCells (x : Option UplinkFrame) : Multiset CellNo := cellsOf (x.map (·.cells)).toList

/-- The cells that the entries of a table hold, over all lines. -/
def overLines {α : Type} (f : α → Multiset CellNo) (t : Table α 12) : Multiset CellNo := ∑ l, f (look t l)

/-- The cells that the receptions and the transmissions have. -/
def portCells (s : State) : Multiset CellNo :=
  overLines (fun r => (lineRxCells r : Multiset CellNo)) s.store.lineRx + uplinkRxCells s.store.uplinkRx +
    flightCells s.sched.inFlight + overLines sendingCells s.dist.sending

/-- The cells that every holder of the part has: the queues, UM, the receptions and the transmissions (R63). -/
def heldCells (s : State) : Multiset CellNo :=
  overLines queuedCells s.store.up + overLines queuedCells s.store.down + queuedCells s.store.um + portCells s

section
variable {α : Type} (f : α → Multiset CellNo) (t : Table α 12) (l : Line)

/-- The cells that the lines other than one hold. -/
def overOthers : Multiset CellNo := ∑ k ∈ Finset.univ.erase l, f (look t k)

theorem overLines_eq : overLines f t = f (look t l) + overOthers f t l :=
  (Finset.add_sum_erase _ (fun k => f (look t k)) (Finset.mem_univ l)).symm

theorem overLines_put (x : α) : overLines f (put t l x) = f x + overOthers f t l := by
  rw [overLines_eq f _ l, look_put_same]
  congr 1
  exact Finset.sum_congr rfl fun k hk => by rw [look_put_ne _ _ _ _ (Finset.ne_of_mem_erase hk).symm]

theorem overLines_filled (x : α) (h : f x = 0) : overLines f (filled 12 x) = 0 :=
  Finset.sum_eq_zero fun k _ => by rw [look_filled, h]

theorem overLines_indices : overLines f t = ((indices 12).map fun l => f (look t l)).sum := by
  rw [overLines, indices, ← List.ofFn_eq_map, List.sum_ofFn]

end

section
variable (x y : List (List CellNo)) (q r : List Entry) (e : Entry)

@[simp] theorem cellsOf_nil : cellsOf [] = 0 := rfl
@[simp] theorem cellsOf_cons (cells : List CellNo) : cellsOf (cells :: x) = cells + cellsOf x := List.sum_cons
@[simp] theorem cellsOf_append : cellsOf (x ++ y) = cellsOf x + cellsOf y := by simp [cellsOf]

theorem count_cellsOf (c : CellNo) : (cellsOf x).count c = (x.map (·.count c)).sum := by
  induction x with
  | nil => rfl
  | cons cells x ih => rw [cellsOf_cons, Multiset.count_add, ih, Multiset.coe_count, List.map_cons, List.sum_cons]

@[simp] theorem queuedCells_nil : queuedCells [] = 0 := rfl
@[simp] theorem queuedCells_cons : queuedCells (e :: q) = e.cells + queuedCells q := cellsOf_cons _ _
@[simp] theorem queuedCells_append : queuedCells (q ++ r) = queuedCells q + queuedCells r := by simp [queuedCells]

end

@[simp] theorem sendingCells_none : sendingCells none = 0 := rfl
@[simp] theorem sendingCells_some (e : Entry) : sendingCells (some e) = e.cells := add_zero _
@[simp] theorem flightCells_none : flightCells none = 0 := rfl
@[simp] theorem flightCells_some (f : UplinkFrame) : flightCells (some f) = f.cells := add_zero _

theorem cellsOf_heldChains (s : State) : cellsOf (heldChains s) = portCells s := by
  have hrx (g : Line → List CellNo) (ls : List Line) :
      cellsOf (ls.map g) = (ls.map fun l => (g l : Multiset CellNo)).sum := by
    rw [cellsOf, List.map_map]; rfl
  have hsending (g : Line → Option Entry) (ls : List Line) :
      cellsOf (ls.filterMap fun l => (g l).map (·.cells)) = (ls.map fun l => sendingCells (g l)).sum := by
    induction ls with
    | nil => rfl
    | cons l ls ih => cases h : g l <;> simp [h, ih]
  rw [heldChains, cellsOf_append, cellsOf_append, cellsOf_append, hrx, hsending, cellsOf_cons, cellsOf_nil, add_zero,
    portCells, overLines_indices, overLines_indices]
  rfl

theorem cellsOf_allChains (s : State) : cellsOf (allChains s) = heldCells s := by
  have hqueues (u d : Line → List Entry) (ls : List Line) :
      cellsOf (ls.flatMap fun l => (u l ++ d l).map (·.cells)) =
        (ls.map fun l => queuedCells (u l)).sum + (ls.map fun l => queuedCells (d l)).sum := by
    induction ls with
    | nil => rfl
    | cons l ls ih =>
      rw [List.flatMap_cons, cellsOf_append, ih, List.map_cons, List.map_cons, List.sum_cons, List.sum_cons]
      rw [show cellsOf ((u l ++ d l).map (·.cells)) = _ from queuedCells_append _ _]
      abel
  rw [allChains, cellsOf_append, cellsOf_append, cellsOf_heldChains, hqueues, heldCells, overLines_indices,
    overLines_indices]
  rfl

/-! ### The law of the cells, with some frames in hand -/

/-- The law of the cells in the middle of an effect: beside the holders, the effect has some cells in hand. -/
structure Accounts (m : Multiset CellNo) (s : State) : Prop where
  balanced : Balanced s.store (heldCells s + m)
  targets : ∀ targets length cells count, s.store.uplinkRx = .flood targets length cells count → targets ≠ []

/-- Between commands no cell is in hand. -/
theorem cellsAccounted_iff {s : State} : CellsAccounted s ↔
    Accounts 0 s ∧ (s.power = .reading → s.sched.inFlight = none ∧ ∀ l, look s.dist.sending l = none) := by
  have hcount (c : CellNo) : ((allChains s).map (·.count c)).sum = (heldCells s + 0).count c := by
    rw [add_zero, ← cellsOf_allChains, count_cellsOf]
  constructor
  · rintro ⟨honce, hcounted, hfree, htargets, hreading⟩
    exact ⟨⟨⟨honce, fun c => (hcounted c).trans (hcount c), hfree⟩, htargets⟩, hreading⟩
  · rintro ⟨⟨⟨honce, hcounted, hfree⟩, htargets⟩, hreading⟩
    exact ⟨honce, fun c => (hcounted c).trans (hcount c).symm, hfree, htargets, hreading⟩

end Sys2Proof.Machine

/-! The moves of frames between their holders, and the cells that an effect takes in hand and gives up (R62, R63). -/

namespace Sys2Proof.Machine

section
variable {m n : Multiset CellNo} {s t u : State}

/-! ### What the law of the cells reads -/

/-- The free list, the counts and the holders. -/
structure Holdings where
  free : List CellNo
  refs : Table Nat 2048
  up : Table (List Entry) 12
  um : List Entry
  down : Table (List Entry) 12
  lineRx : Table LineRx 12
  uplinkRx : UplinkRx
  inFlight : Option UplinkFrame
  sending : Table (Option Entry) 12

def holdings (s : State) : Holdings :=
  ⟨s.store.free, s.store.refs, s.store.up, s.store.um, s.store.down, s.store.lineRx, s.store.uplinkRx, s.sched.inFlight,
    s.dist.sending⟩

theorem Accounts.aside (h : Accounts m t) (hu : holdings u = holdings t) : Accounts m u := by
  obtain ⟨hfree, hrefs, hup, hum, hdown, hrx, huplink, hflight, hsending⟩ := Holdings.mk.injEq .. ▸ hu
  have hheld : heldCells u = heldCells t := by
    simp only [heldCells, portCells, hup, hum, hdown, hrx, huplink, hflight, hsending]
  exact ⟨by rw [hheld]; exact h.balanced.congr hfree hrefs, by rw [huplink]; exact h.targets⟩

/-- Frames that change hands leave the free list and the counts alone. -/
theorem Accounts.moved (h : Accounts m t) (hfree : u.store.free = t.store.free) (hrefs : u.store.refs = t.store.refs)
    (htargets : ∀ targets length cells count, u.store.uplinkRx = .flood targets length cells count → targets ≠ [])
    (hheld : heldCells u + n = heldCells t + m) : Accounts n u :=
  ⟨by rw [hheld]; exact h.balanced.congr hfree hrefs, htargets⟩

/-! ### The holders of one line -/

theorem overOthers_put {α : Type} (f : α → Multiset CellNo) (t : Table α 12) (l : Line) (x : α) :
    overOthers f (put t l x) l = overOthers f t l :=
  Finset.sum_congr rfl fun _ hk => by rw [look_put_ne _ _ _ _ (Finset.ne_of_mem_erase hk).symm]

/-- The cells that the other lines hold. -/
def otherLines (l : Line) (s : State) : Multiset CellNo :=
  overOthers queuedCells s.store.up l + overOthers queuedCells s.store.down l +
    overOthers (fun r => (lineRxCells r : Multiset CellNo)) s.store.lineRx l + overOthers sendingCells s.dist.sending l

theorem heldCells_at (l : Line) (s : State) : heldCells s =
    queuedCells (look s.store.up l) + queuedCells (look s.store.down l) + lineRxCells (look s.store.lineRx l) +
      sendingCells (look s.dist.sending l) + queuedCells s.store.um + uplinkRxCells s.store.uplinkRx +
      flightCells s.sched.inFlight + otherLines l s := by
  rw [heldCells, portCells, overLines_eq _ _ l, overLines_eq _ _ l, overLines_eq _ _ l, overLines_eq _ _ l, otherLines]
  abel

/-! ### Cells given up and taken (R62, R63) -/

theorem holdings_dropHolder (cells : List CellNo) (s : State) :
    heldCells (setStore (dropHolder cells) s) = heldCells s ∧
    (setStore (dropHolder cells) s).store.uplinkRx = s.store.uplinkRx := by
  obtain ⟨hdown, hrx, huplink, -, hup, hum, -, -⟩ := dropHolder_frame cells s.store
  simp only [heldCells, portCells, setStore_store, setStore_sched, setStore_dist, hdown, hrx, huplink, hup, hum, and_self]

theorem accounts_dropHolder (cells : List CellNo) (h : Accounts (cells + m) t) :
    Accounts m (setStore (dropHolder cells) t) := by
  obtain ⟨hheld, huplink⟩ := holdings_dropHolder cells t
  refine ⟨?_, by rw [huplink]; exact h.targets⟩
  rw [hheld]
  exact Balanced.dropHolder (cells := cells) (by rw [add_left_comm]; exact h.balanced)

theorem accounts_dropEntries (es : List Entry) (h : Accounts (queuedCells es + m) t) :
    Accounts m (setStore (dropEntries es) t) := by
  induction es generalizing t with
  | nil => rw [queuedCells_nil, zero_add] at h; exact h
  | cons e es ih => exact ih (accounts_dropHolder e.cells (by rwa [queuedCells_cons, add_assoc] at h))

/-- A frame built from free cells enters UM (R71). -/
theorem accounts_enterUm (time : Nat) (bytes : List Byte) (w : Bool) (h : Accounts m t) :
    Accounts m (setStore (enterUm time bytes w) t) := by
  refine ⟨?_, h.targets⟩
  have hclaim := h.balanced.claimCells (List.take_append_drop (chainCells bytes.length) t.store.free).symm
  have hheld : heldCells (setStore (enterUm time bytes w) t) + m =
      (t.store.free.take (chainCells bytes.length) : Multiset CellNo) + (heldCells t + m) := by
    simp only [heldCells, portCells, setStore_store, setStore_sched, setStore_dist, enterUm, Machine.claimCells,
      queuedCells_append, queuedCells_cons, queuedCells_nil]
    abel
  rw [hheld]
  exact hclaim.congr rfl rfl

/-- A cell taken by a reception, and in hand until the reception has it (R67, R68). -/
theorem accounts_claim {c : CellNo} {rest : List CellNo} (hfree : t.store.free = c :: rest) (h : Accounts m t) :
    Accounts (([c] : List CellNo) + m) (setStore (fun st => claimCells st [c] rest) t) := by
  refine ⟨?_, h.targets⟩
  rw [add_left_comm]
  exact h.balanced.claimCells hfree

/-! ### Reports, references and responses (R63, R164, R167) -/

theorem accounts_offerUpTo (k : Nat) (h : Accounts m t) : Accounts m (offerUpTo k t) := by
  induction k generalizing t with
  | zero => exact h
  | succ k ih =>
    unfold offerUpTo; split
    · exact h
    · split
      · exact ih ((accounts_enterUm _ _ _ h).aside rfl)
      · exact h

theorem accounts_offer (h : Accounts m t) : Accounts m (offer t) := accounts_offerUpTo _ h

theorem accounts_queueReport (body : ReportBody) (h : Accounts m t) : Accounts m (queueReport body t) := by
  unfold queueReport; split
  · exact h.aside rfl
  · dsimp only; split
    · exact accounts_offer (h.aside rfl)
    · exact h.aside rfl

theorem accounts_respond (code num : Byte) (a : Answer) (data : List Byte) (w : Bool) (h : Accounts m t) :
    Accounts m (respond code num a data w t) := by
  unfold respond
  refine accounts_offer ?_
  split
  · exact accounts_enterUm _ _ _ h
  · exact h.aside rfl

theorem accounts_releaseChain (cells : List CellNo) (h : Accounts (cells + m) t) : Accounts m (releaseChain cells t) :=
  accounts_offer (accounts_dropHolder cells h)

theorem accounts_releaseEntries (es : List Entry) (h : Accounts (queuedCells es + m) t) :
    Accounts m (releaseEntries es t) := accounts_offer (accounts_dropEntries es h)

/-! ### Receptions (R67 to R70) -/

/-- The uplink port's reception changes: the cells that it gives up are in hand, and it takes those of its new state. -/
theorem accounts_setUplinkRx (r : UplinkRx) (h : Accounts m t)
    (hcells : (uplinkRxCells r : Multiset CellNo) + n = uplinkRxCells t.store.uplinkRx + m)
    (hr : ∀ targets length cells count, r = .flood targets length cells count → targets ≠ []) :
    Accounts n (setUplinkRx r t) := by
  refine h.moved rfl rfl hr (Multiset.ext.mpr fun c => ?_)
  have hcount := congrArg (Multiset.count c) hcells
  simp only [heldCells, portCells, setUplinkRx, setStore_store, setStore_sched, setStore_dist,
    Multiset.count_add] at hcount ⊢
  omega

/-- A reception that has no cells. -/
def CarriesNothing : UplinkRx → Prop
  | .data .. | .flood .. => False
  | _ => True

theorem CarriesNothing.cells {r : UplinkRx} (hr : CarriesNothing r) : uplinkRxCells r = [] := by
  cases r with
  | data | flood => exact hr.elim
  | _ => rfl

/-- The uplink port's reception ends: its cells are in hand. -/
theorem accounts_endUplinkRx (r : UplinkRx) (hr : CarriesNothing r) (h : Accounts m t) :
    Accounts (uplinkRxCells t.store.uplinkRx + m) (setUplinkRx r t) :=
  accounts_setUplinkRx r h (by rw [hr.cells, Multiset.coe_nil, zero_add]) fun _ _ _ _ he => by rw [he] at hr; exact hr.elim

/-- A reception without cells takes another state without cells. -/
theorem accounts_nextUplinkRx (r : UplinkRx) (hold : CarriesNothing t.store.uplinkRx) (hr : CarriesNothing r)
    (h : Accounts m t) : Accounts m (setUplinkRx r t) := by
  have hended := accounts_endUplinkRx r hr h
  rwa [hold.cells, Multiset.coe_nil, zero_add] at hended

/-- The same of a line port's reception. -/
theorem accounts_setLineRx (l : Line) (r : LineRx) (h : Accounts m t)
    (hcells : (lineRxCells r : Multiset CellNo) + n = lineRxCells (look t.store.lineRx l) + m) :
    Accounts n (setLineRx l r t) := by
  refine h.moved rfl rfl h.targets (Multiset.ext.mpr fun c => ?_)
  have hcount := congrArg (Multiset.count c) hcells
  rw [heldCells_at l, heldCells_at l t]
  simp only [otherLines, setLineRx, setStore_store, setStore_sched, setStore_dist, overOthers_put, look_put_same,
    Multiset.count_add] at hcount ⊢
  omega

theorem accounts_endLineRx (l : Line) (r : LineRx) (hr : lineRxCells r = []) (h : Accounts m t) :
    Accounts (lineRxCells (look t.store.lineRx l) + m) (setLineRx l r t) :=
  accounts_setLineRx l r h (by rw [hr, Multiset.coe_nil, zero_add])

theorem accounts_nextLineRx (l : Line) (r : LineRx) (hold : lineRxCells (look t.store.lineRx l) = [])
    (hr : lineRxCells r = []) (h : Accounts m t) : Accounts m (setLineRx l r t) := by
  have hended := accounts_endLineRx l r hr h
  rwa [hold, Multiset.coe_nil, zero_add] at hended

/-! ### Queues and transmissions (R64, R72) -/

/-- The upstream and the downstream queue of a line change. -/
theorem accounts_lineQueues (l : Line) (up down : List Entry) (h : Accounts m t)
    (hcells : queuedCells up + queuedCells down + n =
      queuedCells (look t.store.up l) + queuedCells (look t.store.down l) + m) :
    Accounts n (setStore (fun st => { st with up := put st.up l up, down := put st.down l down }) t) := by
  refine h.moved rfl rfl h.targets (Multiset.ext.mpr fun c => ?_)
  have hcount := congrArg (Multiset.count c) hcells
  rw [heldCells_at l, heldCells_at l t]
  simp only [otherLines, setStore_store, setStore_sched, setStore_dist, overOthers_put, look_put_same,
    Multiset.count_add] at hcount ⊢
  omega

theorem put_look {α : Type} {n : Nat} (t : Table α n) (i : Fin n) : put t i (look t i) = t :=
  table_ext fun j => by rw [look_put]; split <;> simp [*]

theorem accounts_putDown (l : Line) (q : List Entry) (h : Accounts m t)
    (hcells : queuedCells q + n = queuedCells (look t.store.down l) + m) :
    Accounts n (setStore (fun st => { st with down := put st.down l q }) t) := by
  refine (accounts_lineQueues l (look t.store.up l) q h (by rw [add_assoc, hcells, add_assoc])).aside ?_
  simp only [holdings, setStore_store, setStore_sched, setStore_dist, put_look]

theorem accounts_putUp (l : Line) (q : List Entry) (h : Accounts m t)
    (hcells : queuedCells q + n = queuedCells (look t.store.up l) + m) :
    Accounts n (setStore (fun st => { st with up := put st.up l q }) t) := by
  refine (accounts_lineQueues l q (look t.store.down l) h (by
    rw [add_right_comm, hcells, add_right_comm])).aside ?_
  simp only [holdings, setStore_store, setStore_sched, setStore_dist, put_look]

/-- The queue of a round entry changes. -/
theorem accounts_putQueue (e : RoundEntry) (q : List Entry) (h : Accounts m t)
    (hcells : queuedCells q + n = queuedCells (queueOf t e) + m) : Accounts n (setStore (putQueue e q) t) := by
  unfold queueOf at hcells
  split at hcells
  · next l hl => exact (accounts_putUp l q h hcells).aside (by simp only [setStore, putQueue, hl])
  · next hl =>
    have hput : setStore (putQueue e q) t = setStore (fun st => { st with um := q }) t := by
      simp only [setStore, putQueue, hl]
    rw [hput]
    refine h.moved rfl rfl h.targets (Multiset.ext.mpr fun c => ?_)
    have hcount := congrArg (Multiset.count c) hcells
    simp only [heldCells, portCells, setStore_store, setStore_sched, setStore_dist, Multiset.count_add] at hcount ⊢
    omega

/-- The line port starts or ends a frame. -/
theorem accounts_setSending (l : Line) (x : Option Entry) (f : Distributor → Distributor)
    (hf : (f t.dist).sending = put t.dist.sending l x) (h : Accounts m t)
    (hcells : sendingCells x + n = sendingCells (look t.dist.sending l) + m) : Accounts n (setDist f t) := by
  refine h.moved rfl rfl h.targets (Multiset.ext.mpr fun c => ?_)
  have hcount := congrArg (Multiset.count c) hcells
  rw [heldCells_at l, heldCells_at l t]
  simp only [otherLines, setDist_store, setDist_sched, setDist_dist, hf, overOthers_put, look_put_same,
    Multiset.count_add] at hcount ⊢
  omega

/-- The uplink port starts or ends a frame. -/
theorem accounts_setFlight (f : Scheduler → Scheduler) (h : Accounts m t)
    (hcells : flightCells (f t.sched).inFlight + n = flightCells t.sched.inFlight + m) : Accounts n (setSched f t) := by
  refine h.moved rfl rfl h.targets (Multiset.ext.mpr fun c => ?_)
  have hcount := congrArg (Multiset.count c) hcells
  simp only [heldCells, portCells, setSched_store, setSched_sched, setSched_dist, Multiset.count_add] at hcount ⊢
  omega

/-! ### The scheduler (5.3 to 5.5) -/

/-- A look takes its discarded frames in hand. -/
theorem queuedCells_lookAt (time sojourn : Nat) (mapped : Bool) (q : List Entry) :
    queuedCells (lookAt time sojourn mapped q).kept + queuedCells (lookAt time sojourn mapped q).gone = queuedCells q := by
  induction q with
  | nil => rfl
  | cons e es ih =>
    unfold lookAt; dsimp only; split_ifs
    · rw [queuedCells_cons, queuedCells_cons, ← ih, add_left_comm]
    · rw [queuedCells_cons, queuedCells_cons, ← ih, add_left_comm]
    · exact add_zero _

theorem accounts_lookQueue (e : RoundEntry) (h : Accounts m t) : Accounts m (lookQueue e t) := by
  have hput : Accounts (queuedCells (lookedAt t e).gone + m) (setStore (putQueue e (lookedAt t e).kept) t) :=
    accounts_putQueue e _ h (by rw [← add_assoc, lookedAt, queuedCells_lookAt])
  refine accounts_releaseEntries _ ?_
  unfold countLook; split
  · exact hput.aside rfl
  · split
    · exact hput.aside rfl
    · exact hput

theorem accounts_endTurn (c : Bool) (h : Accounts m t) : Accounts m (endTurn c t) := h.aside rfl
theorem accounts_holdTurn (x : Turn) (h : Accounts m t) : Accounts m (holdTurn x t) := h.aside rfl
theorem accounts_takeTurn (e : RoundEntry) (h : Accounts m t) : Accounts m (takeTurn e t) := h.aside rfl

/-- The reference of a queue entry passes to the uplink transmitter (R72). -/
theorem accounts_startFrame (e : RoundEntry) (x : Entry) (rest : List Entry) (hq : queueOf t e = x :: rest)
    (hidle : t.sched.inFlight = none) (h : Accounts m t) : Accounts m (startFrame e x rest t) := by
  have hput : Accounts (x.cells + m) (setStore (putQueue e rest) t) :=
    accounts_putQueue e rest h (by rw [hq, queuedCells_cons]; abel)
  refine accounts_setFlight _ hput ?_
  rw [flightCells_some, setStore_sched, hidle, flightCells_none, zero_add]

theorem accounts_startOpportunity (h : Accounts m t) : Accounts m (startOpportunity t) := by
  have hlook := accounts_lookQueue t.sched.pointer h
  unfold startOpportunity; dsimp only; split
  · exact accounts_endTurn _ hlook
  · split
    · exact accounts_endTurn _ hlook
    · next x rest hq =>
      split
      · exact accounts_endTurn _ hlook
      · split
        · exact accounts_holdTurn _ hlook
        · next hbusy =>
          split
          · exact accounts_holdTurn _ hlook
          · have hstarted := accounts_startFrame _ x rest hq (by simpa using hbusy) hlook
            refine accounts_offer ?_
            split
            · exact accounts_endTurn _ hstarted
            · exact accounts_holdTurn _ hstarted

theorem accounts_searchUpTo (k : Nat) (h : Accounts m t) : Accounts m (searchUpTo k t) := by
  induction k generalizing t with
  | zero => exact h
  | succ k ih =>
    unfold searchUpTo; split
    · split
      · exact h
      · exact ih (accounts_startOpportunity (accounts_takeTurn _ h))
    · exact h

theorem accounts_settle (h : Accounts m t) : Accounts m (settle t) := by
  unfold settle; split
  · exact accounts_searchUpTo _ h
  · exact h

theorem accounts_live (f : State → State) (hf : Accounts m t → Accounts m (f t)) (h : Accounts m t) :
    Accounts m (live f t) := by
  unfold live; split
  · exact accounts_settle (hf h)
  · exact h

theorem accounts_whenDue (due : State → Bool) (f : State → State) (hf : Accounts m t → Accounts m (f t))
    (h : Accounts m t) : Accounts m (whenDue due f t) := by
  unfold whenDue; split
  · exact hf h
  · exact h

theorem accounts_takeUnderflow (p : Pacer) (h : Accounts m t) : Accounts m (takeUnderflow p t) := by
  unfold takeUnderflow; split
  · split
    · exact h.aside rfl
    · exact h
  · split
    · unfold underflowStation; dsimp only; split
      · exact accounts_startOpportunity (h.aside rfl)
      · exact h.aside rfl
    · exact h

/-- The frame in flight gives up its cells (R72, R91). -/
theorem accounts_completeUp (h : Accounts m t) : Accounts m (completeUp t) := by
  unfold completeUp; split
  · exact h
  · next f hf =>
    have hended : Accounts m (releaseChain f.cells
        (setSched (fun sc => { sc with inFlight := none, lastEnd := some .close }) t)) :=
      accounts_releaseChain _ (accounts_setFlight _ h (by rw [hf, flightCells_none, flightCells_some, zero_add]))
    have hwait : Accounts m (endWaitFor f (releaseChain f.cells
        (setSched (fun sc => { sc with inFlight := none, lastEnd := some .close }) t))) := by
      unfold endWaitFor; split
      · exact hended.aside rfl
      · exact hended
    dsimp only; split
    · exact hwait
    · exact accounts_startOpportunity hwait

end

end Sys2Proof.Machine

/-! The cells through the receptions, the line-port transmitters and the line table (R9, R66 to R70, R72, R99 to R104, R174). -/

namespace Sys2Proof.Machine

section
variable {m : Multiset CellNo} {t : State}

/-! ### A line that leaves service (R7 to R12) -/

theorem accounts_countDrop (l : Line) (h : Accounts m t) : Accounts m (countDrop l t) := h.aside rfl
theorem accounts_countFlood (h : Accounts m t) : Accounts m (countFlood t) := h.aside rfl
theorem accounts_countMalformed (h : Accounts m t) : Accounts m (countMalformed t) := h.aside rfl
theorem accounts_setLine (l : Line) (f : LineRec → LineRec) (h : Accounts m t) : Accounts m (setLine l f t) := h.aside rfl
theorem accounts_setSup (l : Line) (f : Supervision → Supervision) (h : Accounts m t) : Accounts m (setSup l f t) :=
  h.aside rfl

theorem accounts_flushLine (l : Line) (h : Accounts m t) : Accounts m (flushLine l t) := by
  refine accounts_releaseEntries _ (accounts_setLine l _ (accounts_lineQueues l [] [] h ?_))
  rw [queuedCells_append, queuedCells_nil, zero_add, zero_add]

theorem accounts_dropLineRx (l : Line) (h : Accounts m t) : Accounts m (dropLineRx l t) := by
  unfold dropLineRx; split
  · next cells count hrx =>
    have hended := accounts_endLineRx l .discarding rfl h
    rw [hrx] at hended
    exact accounts_releaseChain _ (accounts_countDrop l hended)
  · exact h

theorem accounts_dropUplinkRx (l : Line) (h : Accounts m t) : Accounts m (dropUplinkRx l t) := by
  have hended := accounts_endUplinkRx .discarding trivial h
  unfold dropUplinkRx; split
  · next hrx =>
    rw [hrx] at hended
    split
    · exact accounts_releaseChain _ (accounts_countDrop l hended)
    · exact h
  · next targets length cells count hrx =>
    rw [hrx] at hended
    split
    · dsimp only; split
      · exact accounts_releaseChain _ (accounts_countFlood (accounts_countDrop l hended))
      · next hleft =>
        refine accounts_countDrop l (accounts_setUplinkRx (.flood (targets.filter (· ≠ l)) length cells count) h
          (by rw [hrx]; rfl) fun _ _ _ _ he => ?_)
        cases he
        simpa using hleft
    · exact h
  · exact h

theorem accounts_abandonFrame (l : Line) (h : Accounts m t) : Accounts m (abandonFrame l t) := by
  unfold abandonFrame; split
  · next e he =>
    refine accounts_releaseChain _ (accounts_setLine l _ (accounts_setSending l none _ rfl h ?_))
    rw [he, sendingCells_none, sendingCells_some, zero_add]
  · exact h

theorem accounts_stopLine (l : Line) (h : Accounts m t) : Accounts m (stopLine l t) := by
  unfold stopLine; dsimp only; split
  · exact accounts_endTurn _ (h.aside rfl)
  · exact h.aside rfl

theorem accounts_leaveService (l : Line) (h : Accounts m t) : Accounts m (leaveService l t) :=
  accounts_setLine l _ (accounts_stopLine l (accounts_abandonFrame l (accounts_dropUplinkRx l (accounts_dropLineRx l
    (accounts_flushLine l h)))))

theorem accounts_serviceEffects (l : Line) (old new : Service) (h : Accounts m t) :
    Accounts m (serviceEffects l old new t) := by
  by_cases hleave : inService old = true ∧ inService new = false
  · rw [serviceEffects_leaving l t hleave.1 hleave.2]; split
    · exact accounts_setSup l _ (accounts_leaveService l h)
    · exact accounts_leaveService l h
  · rw [serviceEffects_staying l t hleave]; split
    · exact h.aside rfl
    · split
      · exact h.aside rfl
      · exact h

theorem accounts_rederive (l : Line) (h : Accounts m t) : Accounts m (rederive l t) := by
  by_cases hsame : (lineOf t l).service = deriveService (lineOf t l)
  · rw [rederive_same hsame]; exact h
  · rw [rederive_changed hsame]
    exact accounts_queueReport _ (accounts_serviceEffects l _ _ (accounts_setLine l _ h))

theorem accounts_setBarred (l : Line) (b : Bool) (h : Accounts m t) : Accounts m (setBarred l b t) :=
  accounts_rederive l (accounts_setLine l _ h)

theorem accounts_followTimer (l : Line) (h : Accounts m t) : Accounts m (followTimer l t) := h.aside rfl

theorem accounts_setSync (l : Line) (x : Sync) (h : Accounts m t) : Accounts m (setSync l x t) := by
  unfold setSync; dsimp only; split
  · exact h
  · refine accounts_followTimer l (accounts_rederive l ?_)
    split
    · exact h.aside rfl
    · exact h.aside rfl

theorem accounts_setTest (l : Line) (x : TestCond) (h : Accounts m t) : Accounts m (setTest l x t) := by
  by_cases hsame : x = (lineOf t l).test
  · rw [setTest_same hsame]; exact h
  · rw [setTest_changed hsame]
    refine accounts_followTimer l (accounts_rederive l (accounts_setLine l _ ?_))
    split
    · exact h.aside rfl
    · exact h

/-! ### The line-port transmitters (R72, R73, R102 to R104) -/

theorem accounts_lookDown (l : Line) (h : Accounts m t) : Accounts m (lookDown l t) := by
  refine accounts_releaseEntries _ (accounts_setLine l _ (accounts_putDown l _ h ?_))
  rw [← add_assoc, queuedCells_lookAt]

theorem lookDown_dist (l : Line) (s : State) : (lookDown l s).dist = s.dist := (releaseEntries_frame _ _).1.dist

/-- The reference of a queue entry passes to a transmitter that is IDLE (R72). -/
theorem accounts_takeDown (l : Line) (hidle : look t.dist.sending l = none) (h : Accounts m t) :
    Accounts m (takeDown l t) := by
  unfold takeDown; split
  · exact h
  · next e rest hq =>
    have hput : Accounts (e.cells + m) (setStore (fun st => { st with down := put st.down l rest }) t) :=
      accounts_putDown l rest h (by rw [hq, queuedCells_cons]; abel)
    refine accounts_setSending l (some e) _ rfl hput ?_
    rw [setStore_dist, hidle, sendingCells_none, sendingCells_some, zero_add]

theorem accounts_checkPort (l : Line) (h : Accounts m t) : Accounts m (checkPort l t) := by
  have hread : Accounts m (readReady l t) := by
    unfold readReady; split
    · exact h.aside rfl
    · exact h
  unfold checkPort takeIfReady; split
  · next htake =>
    have hidle : look (lookDown l (readReady l t)).dist.sending l = none := by
      simp only [mayTake, Bool.and_eq_true, Option.isNone_iff_eq_none] at htake
      rw [lookDown_dist, htake.1.1]
    exact accounts_takeDown l hidle (accounts_lookDown l hread)
  · exact hread

theorem accounts_checkPorts (ls : List Line) (h : Accounts m t) :
    Accounts m (ls.foldl (fun s l => checkPort l s) t) := by
  induction ls generalizing t with
  | nil => exact h
  | cons l ls ih => exact ih (accounts_checkPort l h)

theorem accounts_completeDown (l : Line) (h : Accounts m t) : Accounts m (completeDown l t) := by
  unfold completeDown; split
  · exact h
  · next e he =>
    refine accounts_checkPort l (accounts_releaseChain _ (accounts_setSending l none _ rfl h ?_))
    rw [he, sendingCells_none, sendingCells_some, zero_add]

/-! ### Admission and growth (R67, R68, R70) -/

theorem accounts_takeHeader (header : List Byte) (h : Accounts m t) : Accounts m (takeHeader header t) := by
  have hclassify (hold : CarriesNothing t.store.uplinkRx) (tag : Nat) (kind : Byte) (n : Nat) :
      Accounts m (classify tag kind n t) := by
    have hnext (r : UplinkRx) (hr : CarriesNothing r) : Accounts m (setUplinkRx r t) :=
      accounts_nextUplinkRx r hold hr h
    unfold classify; split_ifs
    · exact hnext _ trivial
    · exact accounts_countMalformed (hnext _ trivial)
    · exact accounts_countMalformed (hnext _ trivial)
    · exact hnext _ trivial
    · split
      · exact hnext _ trivial
      · exact (hnext .discarding trivial).aside rfl
    · exact accounts_countMalformed (hnext _ trivial)
  unfold takeHeader; split
  · next hrx => exact hclassify (by rw [hrx]; trivial) _ _ _
  · next hrx => exact hclassify (by rw [hrx]; trivial) _ _ _
  · exact h

theorem accounts_admitLine (l : Line) (b : Byte) (h : Accounts m t) : Accounts m (admitLine l b t) := by
  unfold admitLine; split
  · exact h
  · next hno =>
    have hold : lineRxCells (look t.store.lineRx l) = [] := by
      cases hrx : look t.store.lineRx l with
      | receiving cells count => exact absurd hrx (hno cells count)
      | _ => rfl
    have hrefused : Accounts m (countDrop l (setLineRx l .discarding t)) :=
      accounts_countDrop l (accounts_nextLineRx l _ hold rfl h)
    split
    · split
      · next c rest hfree =>
        have hclaimed : Accounts (([c] : List CellNo) + m)
            (setStore (fun st => storeFirst c b (claimCells st [c] rest)) t) := (accounts_claim hfree h).aside rfl
        exact accounts_setLineRx l _ hclaimed (by
          change _ = ((lineRxCells (look t.store.lineRx l) : Multiset CellNo) + _)
          rw [hold, Multiset.coe_nil, zero_add]; rfl)
      · exact hrefused
    · exact hrefused

/-- A frame's first cell passes to the uplink port's reception. -/
theorem accounts_firstCell {c : CellNo} {rest : List CellNo} (b : Byte) (r : UplinkRx)
    (hold : CarriesNothing t.store.uplinkRx) (hfree : t.store.free = c :: rest) (hcells : uplinkRxCells r = [c])
    (hr : ∀ targets length cells count, r = .flood targets length cells count → targets ≠ []) (h : Accounts m t) :
    Accounts m (setUplinkRx r (setStore (fun st => storeFirst c b (claimCells st [c] rest)) t)) := by
  have hclaimed : Accounts (([c] : List CellNo) + m)
      (setStore (fun st => storeFirst c b (claimCells st [c] rest)) t) := (accounts_claim hfree h).aside rfl
  refine accounts_setUplinkRx r hclaimed ?_ hr
  change _ = ((uplinkRxCells t.store.uplinkRx : Multiset CellNo) + _)
  rw [hold.cells, hcells, Multiset.coe_nil, zero_add]

theorem accounts_admitUplink (b : Byte) (h : Accounts m t) : Accounts m (admitUplink b t) := by
  unfold admitUplink
  cases hrx : t.store.uplinkRx with
  | dataHeader l cls length =>
    have hold : CarriesNothing t.store.uplinkRx := by rw [hrx]; trivial
    have hrefused := accounts_countDrop l (accounts_nextUplinkRx .discarding hold trivial h)
    cases hfree : t.store.free with
    | nil => exact hrefused
    | cons c rest =>
      dsimp only; split
      · exact accounts_firstCell b _ hold hfree rfl nofun h
      · exact hrefused
  | floodHeader length =>
    have hold : CarriesNothing t.store.uplinkRx := by rw [hrx]; trivial
    have hrefused := accounts_countFlood (accounts_nextUplinkRx .discarding hold trivial h)
    cases hfree : t.store.free with
    | nil => exact hrefused
    | cons c rest =>
      dsimp only; split
      · exact hrefused
      · next hopen =>
        refine accounts_firstCell b _ hold hfree rfl (fun _ _ _ _ he => ?_) h
        cases he
        intro hnone
        simp [hnone] at hopen
  | request length kept received =>
    have hold : CarriesNothing t.store.uplinkRx := by rw [hrx]; trivial
    cases received with
    | zero => exact accounts_nextUplinkRx _ hold trivial h
    | succ n => exact h
  | _ => exact h

theorem accounts_growLine (l : Line) (bytes : List Byte) (h : Accounts m t) : Accounts m (growLine l bytes t) := by
  unfold growLine; split
  · next cells count hrx =>
    split
    · next c rest hfree =>
      split
      · have hclaimed : Accounts (([c] : List CellNo) + m)
            (setStore (fun st => storeMore (cells ++ [c]) count bytes (claimCells st [c] rest)) t) :=
          (accounts_claim hfree h).aside rfl
        refine accounts_setLineRx l _ hclaimed ?_
        change _ = ((lineRxCells (look t.store.lineRx l) : Multiset CellNo) + _)
        rw [hrx, lineRxCells, lineRxCells, ← Multiset.coe_add, add_assoc]
      · exact accounts_dropLineRx l h
    · exact accounts_dropLineRx l h
  · exact h

/-- A further cell passes to the uplink port's reception. -/
theorem accounts_furtherCell {c : CellNo} {cells rest : List CellNo} {count : Nat} (bytes : List Byte) (r : UplinkRx)
    (hold : uplinkRxCells t.store.uplinkRx = cells) (hfree : t.store.free = c :: rest)
    (hcells : uplinkRxCells r = cells ++ [c])
    (hr : ∀ targets length cells count, r = .flood targets length cells count → targets ≠ []) (h : Accounts m t) :
    Accounts m (setUplinkRx r (setStore (fun st => storeMore (cells ++ [c]) count bytes (claimCells st [c] rest)) t)) := by
  have hclaimed : Accounts (([c] : List CellNo) + m)
      (setStore (fun st => storeMore (cells ++ [c]) count bytes (claimCells st [c] rest)) t) :=
    (accounts_claim hfree h).aside rfl
  refine accounts_setUplinkRx r hclaimed ?_ hr
  change _ = ((uplinkRxCells t.store.uplinkRx : Multiset CellNo) + _)
  rw [hold, hcells, ← Multiset.coe_add, add_assoc]

theorem accounts_dropDownstream (after : UplinkRx) (hafter : CarriesNothing after) (h : Accounts m t) :
    Accounts m (dropDownstream t.store.uplinkRx after t) := by
  have hended := accounts_endUplinkRx after hafter h
  unfold dropDownstream; split
  · next hrx => rw [hrx] at hended; exact accounts_releaseChain _ (accounts_countDrop _ hended)
  · next hrx => rw [hrx] at hended; exact accounts_releaseChain _ (accounts_countFlood hended)
  · next hrx =>
    rw [hrx] at hended
    exact accounts_countDrop _ (by simpa [uplinkRxCells] using hended)
  · next hrx =>
    rw [hrx] at hended
    exact accounts_countFlood (by simpa [uplinkRxCells] using hended)
  · exact h

theorem accounts_growUplink (bytes : List Byte) (h : Accounts m t) : Accounts m (growUplink bytes t) := by
  have hdrop := accounts_dropDownstream .discarding trivial h
  unfold growUplink
  cases hrx : t.store.uplinkRx with
  | data l cls length cells count =>
    rw [hrx] at hdrop
    cases hfree : t.store.free with
    | nil => exact hdrop
    | cons c rest =>
      dsimp only; split
      · exact accounts_furtherCell bytes _ (by rw [hrx]; rfl) hfree rfl nofun h
      · exact hdrop
  | flood targets length cells count =>
    rw [hrx] at hdrop
    cases hfree : t.store.free with
    | nil => exact hdrop
    | cons c rest =>
      dsimp only; split
      · refine accounts_furtherCell bytes _ (by rw [hrx]; rfl) hfree rfl (fun _ _ _ _ he => ?_) h
        cases he
        exact h.targets _ _ _ _ hrx
      · exact hdrop
  | request length kept received =>
    exact accounts_nextUplinkRx _ (by rw [hrx]; trivial) trivial h
  | _ => exact h

theorem accounts_admitFirst (p : Port) (b : Byte) (h : Accounts m t) : Accounts m (admitFirst p b t) := by
  cases p with
  | line l => exact accounts_admitLine l b h
  | uplink => exact accounts_admitUplink b h

theorem accounts_growFrame (p : Port) (bytes : List Byte) (h : Accounts m t) : Accounts m (growFrame p bytes t) := by
  cases p with
  | line l => exact accounts_growLine l bytes h
  | uplink => exact accounts_growUplink bytes h

/-! ### Ends (R69, R70, R100) -/

theorem accounts_endLine (l : Line) (rest : List Byte) (h : Accounts m t) : Accounts m (endLine l rest t) := by
  unfold endLine; split
  · exact accounts_countDrop l h
  · next hrx => exact accounts_nextLineRx l _ (by rw [hrx]; rfl) rfl h
  · next cells count hrx =>
    dsimp only; split
    · have hended := accounts_endLineRx l .idle rfl h
      rw [hrx] at hended
      exact accounts_releaseChain _ (accounts_countDrop l hended)
    · have hended := accounts_endLineRx l .idle rfl h
      rw [hrx] at hended
      exact (accounts_putUp l (look t.store.up l ++ [⟨cells, count + rest.length, t.time, .normal, false⟩]) hended (by
        change _ = queuedCells (look t.store.up l) + ((cells : Multiset CellNo) + m)
        rw [queuedCells_append, queuedCells_cons, queuedCells_nil, add_zero, add_assoc])).aside rfl

/-- Several holders more touch the counts alone. -/
theorem addHolders_eq (cells : List CellNo) (ls : List Line) (st : Store) :
    ls.foldl (fun t _ => addHolder cells t) st =
      { st with refs := ls.foldl (fun t _ => cells.foldl (fun t c => alter t c (· + 1)) t) st.refs } := by
  induction ls generalizing st with
  | nil => rfl
  | cons l ls ih => exact ih (addHolder cells st)

theorem balanced_addHolders {cells : List CellNo} {m : Multiset CellNo} (ls : List Line) {st : Store}
    (h : Balanced st (cells + m)) :
    Balanced (ls.foldl (fun t _ => addHolder cells t) st) (ls.length • (cells : Multiset CellNo) + (cells + m)) := by
  induction ls generalizing st m with
  | nil => simpa using h
  | cons l ls ih =>
    have hadd := ih (m := cells + m) (h.addHolder fun c hc => Multiset.mem_add.mpr (.inl hc))
    rwa [← add_assoc, ← succ_nsmul] at hadd

theorem queuedCells_placeDown (q : List Entry) (e : Entry) :
    queuedCells (placeDown q e) = e.cells + queuedCells q := by
  unfold placeDown; split
  · rw [queuedCells_append, queuedCells_cons, add_left_comm, ← queuedCells_append, List.takeWhile_append_dropWhile]
  · rw [queuedCells_append, queuedCells_cons, queuedCells_nil, add_zero, add_comm]

theorem overLines_placeDown (targets : List Line) (e : Entry) (d : Table (List Entry) 12) :
    overLines queuedCells (targets.foldl (fun d l => alter d l fun q => placeDown q e) d) =
      targets.length • (e.cells : Multiset CellNo) + overLines queuedCells d := by
  induction targets generalizing d with
  | nil => simp
  | cons l ls ih =>
    rw [List.foldl_cons, ih, alter, overLines_put, queuedCells_placeDown, List.length_cons, succ_nsmul,
      overLines_eq queuedCells d l]
    abel

/-- A frame in hand enters the queues of its targets, the first with the reference in hand, every other with one more
(R69, R70). -/
theorem accounts_enterDown (targets : List Line) (e : Entry) (hsome : targets ≠ []) (h : Accounts (e.cells + m) t) :
    Accounts m (setStore (enterDown targets e) t) := by
  have hframe := addHolders_eq e.cells (targets.drop 1) t.store
  have hbalanced := h.balanced
  rw [add_left_comm] at hbalanced
  have hmore := balanced_addHolders (targets.drop 1) hbalanced
  have hlength : targets.length = (targets.drop 1).length + 1 := by
    cases targets with
    | nil => exact absurd rfl hsome
    | cons l ls => rfl
  have hheld : heldCells (setStore (enterDown targets e) t) + m =
      (targets.drop 1).length • (e.cells : Multiset CellNo) + (e.cells + (heldCells t + m)) := by
    simp only [heldCells, portCells, setStore_store, setStore_sched, setStore_dist, enterDown, hframe,
      overLines_placeDown]
    rw [hlength, succ_nsmul]
    abel
  refine ⟨?_, ?_⟩
  · rw [hheld]; exact hmore.congr rfl rfl
  · change ∀ targets' length cells count, (enterDown targets e t.store).uplinkRx = _ → _
    rw [enterDown, hframe]
    exact h.targets

/-- The uplink port's reception ends, and its frame enters the queues of its targets. -/
theorem accounts_receiveDown (targets : List Line) (e : Entry) (rest : List Byte) (count : Nat) (hsome : targets ≠ [])
    (hcells : uplinkRxCells t.store.uplinkRx = e.cells) (h : Accounts m t) :
    Accounts m (setUplinkRx .idle (setStore (fun st => enterDown targets e (storeMore e.cells count rest st)) t)) := by
  have hended := accounts_endUplinkRx .idle trivial h
  rw [hcells] at hended
  refine (accounts_enterDown targets e hsome hended).aside ?_
  simp only [holdings, setUplinkRx, setStore_store, setStore_sched, setStore_dist, enterDown, addHolders_eq, storeMore]

theorem accounts_endUplink (rest : List Byte) (h : Accounts m t) : Accounts m (endUplink rest t) := by
  have hdrop := accounts_dropDownstream .idle trivial h
  unfold endUplink
  cases hrx : t.store.uplinkRx with
  | idle => exact accounts_countMalformed h
  | discarding => exact accounts_nextUplinkRx _ (by rw [hrx]; trivial) trivial h
  | request => exact h
  | dataHeader l => exact accounts_countDrop l (accounts_nextUplinkRx _ (by rw [hrx]; trivial) trivial h)
  | floodHeader => exact accounts_countFlood (accounts_nextUplinkRx _ (by rw [hrx]; trivial) trivial h)
  | data l cls length cells count =>
    rw [hrx] at hdrop
    dsimp only; split
    · exact accounts_checkPort l (accounts_receiveDown [l] _ rest count (by simp) (by rw [hrx]; rfl) h)
    · exact hdrop
  | flood targets length cells count =>
    rw [hrx] at hdrop
    dsimp only; split
    · exact accounts_checkPorts _ (accounts_receiveDown targets _ rest count (h.targets _ _ _ _ hrx) (by rw [hrx]; rfl) h)
    · exact hdrop

theorem accounts_endFrame (p : Port) (rest : List Byte) (h : Accounts m t) : Accounts m (endFrame p rest t) := by
  cases p with
  | line l => exact accounts_endLine l _ h
  | uplink => exact accounts_endUplink _ h

/-! ### Aborts (R174) -/

theorem accounts_abortFrame (p : Port) (h : Accounts m t) : Accounts m (abortFrame p t) := by
  cases p with
  | line l =>
    simp only [abortFrame, abortLine]; split
    · exact accounts_countDrop l h
    · next hrx => exact accounts_nextLineRx l _ (by rw [hrx]; rfl) rfl h
    · next hrx =>
      have hended := accounts_endLineRx l .idle rfl h
      rw [hrx] at hended
      exact accounts_releaseChain _ (accounts_countDrop l hended)
  | uplink =>
    simp only [abortFrame, abortUplink]; split
    · exact accounts_countMalformed h
    · next hrx => exact accounts_nextUplinkRx _ (by rw [hrx]; trivial) trivial h
    · next hrx => exact accounts_countMalformed (accounts_nextUplinkRx _ (by rw [hrx]; trivial) trivial h)
    · exact accounts_dropDownstream .idle trivial h

end

end Sys2Proof.Machine

/-! The cells through the claim unit, the test sequencer and the measurement unit, which reach them by reports and by lines
that leave service alone. -/

namespace Sys2Proof.Machine

section
variable {m : Multiset CellNo} {t : State}

/-! ### Blocks that hold no cell -/

theorem accounts_notices (f : Notices → Notices) (h : Accounts m t) : Accounts m (setNotices f t) := h.aside rfl
theorem accounts_claims (f : Claims → Claims) (h : Accounts m t) : Accounts m (setClaims f t) := h.aside rfl
theorem accounts_seq (f : Sequencer → Sequencer) (h : Accounts m t) : Accounts m (setSeq f t) := h.aside rfl
theorem accounts_meas (f : Measurement → Measurement) (h : Accounts m t) : Accounts m (setMeas f t) := h.aside rfl
theorem accounts_mgmt (f : Management → Management) (h : Accounts m t) : Accounts m (setMgmt f t) := h.aside rfl
theorem accounts_share (f : Share → Share) (h : Accounts m t) : Accounts m (setShare f t) := h.aside rfl

theorem accounts_startHead (h : Accounts m t) : Accounts m (startHead t) := by
  unfold startHead; dsimp only; split
  · split
    · exact h
    · exact h.aside rfl
  · exact h

theorem accounts_askNotice (a : Ask) (h : Accounts m t) : Accounts m (askNotice a t) :=
  accounts_startHead (accounts_notices _ h)

theorem accounts_recompute (h : Accounts m t) : Accounts m (recompute t) := by
  rw [recompute_eq]
  refine h.aside ?_
  dsimp only [holdings]
  split <;> rfl

theorem accounts_takeRiseCheck (h : Accounts m t) : Accounts m (takeRiseCheck t) := by
  cases hr : t.share.rise with
  | none => rw [takeRiseCheck_still hr]; exact h
  | some r =>
    rw [takeRiseCheck_eq hr]
    refine h.aside ?_
    dsimp only [holdings]
    split <;> rfl

/-! ### Supervision (chapter 7) -/

theorem accounts_debounceFlags (l : Line) (word : BitVec 48) (h : Accounts m t) : Accounts m (debounceFlags l word t) := by
  have halarm {u : State} (a : Alarm) (old new : Bool) (h : Accounts m u) : Accounts m (alarmIfChanged l a old new u) := by
    unfold alarmIfChanged; split
    · exact h
    · exact accounts_queueReport _ h
  unfold debounceFlags
  exact accounts_followTimer l (halarm _ _ _ (halarm _ _ _ (halarm _ _ _ (accounts_setSup l _ h))))

theorem accounts_decideSync (l : Line) (h : Accounts m t) : Accounts m (decideSync l t) := by
  unfold decideSync; dsimp only; split
  · exact accounts_setSync _ _ h
  · split
    · exact accounts_setSync _ _ h
    · exact h

theorem accounts_usePosition (l : Line) (word : BitVec 48) (h : Accounts m t) : Accounts m (usePosition l word t) := by
  unfold usePosition useReport; split
  · exact h
  · split
    · exact accounts_setSup l _ h
    · exact accounts_decideSync l (accounts_debounceFlags l word (accounts_setLine l _ (accounts_setSup l _ h)))

theorem accounts_closePosition (l : Line) (h : Accounts m t) : Accounts m (closePosition l t).1 := by
  have hend (d : Second) {u : State} (h : Accounts m u) : Accounts m (endSecond l d u).1 := by
    unfold endSecond; dsimp only; split
    · exact accounts_setSync l _ (h.aside rfl)
    · exact h.aside rfl
  unfold closePosition; dsimp only; split
  · exact accounts_setSup l _ h
  · exact hend _ (accounts_setSup l _ h)

theorem accounts_takePosition (l : Line) (word : BitVec 48) (h : Accounts m t) : Accounts m (takePosition l word t).1 := by
  unfold takePosition; dsimp only; split
  · exact h.aside rfl
  · exact accounts_closePosition l (accounts_usePosition l word (accounts_setSup l _ h))

theorem accounts_takeMarker (l : Line) (position : Nat) (h : Accounts m t) : Accounts m (takeMarker l position t) := by
  have hconfirm (b : Bool) : Accounts m (confirm l b position t) := by
    unfold confirm; dsimp only; split
    · exact accounts_setSup l _ h
    · split
      · exact accounts_setSup l _ h
      · exact accounts_queueReport _ (accounts_setSup l _ h)
  unfold takeMarker; split
  · split
    · exact accounts_setSup l _ h
    · exact accounts_setSup l _ h
    · exact hconfirm _
  · exact h

/-! ### Claims and the relay (R129 to R135) -/

theorem accounts_followTurn (h : Accounts m t) : Accounts m (followTurn t) := by
  unfold followTurn; split
  · exact accounts_askNotice _ (accounts_claims _ h)
  · exact h

theorem accounts_enterQueued (h : Accounts m t) : Accounts m (enterQueued t) :=
  accounts_followTurn (accounts_askNotice _ (accounts_claims _ h))

theorem accounts_claimFromNone (x : ClaimTerms) (h : Accounts m t) : Accounts m (claimFromNone x t) := by
  unfold claimFromNone; dsimp only; split
  · exact accounts_claims _ (accounts_claims _ h)
  · exact accounts_enterQueued (accounts_claims _ h)

theorem accounts_claimHead (x : ClaimTerms) (h : Accounts m t) : Accounts m (claimHead x t) := by
  unfold claimHead; split
  · exact accounts_claimFromNone x h
  · exact accounts_enterQueued (accounts_claims _ h)
  · exact accounts_claims _ h
  · exact accounts_claims _ h
  · exact h
  · exact accounts_claims _ h

theorem accounts_disconnect (h : Accounts m t) : Accounts m (disconnect t) := by
  unfold disconnect; split
  · exact h
  · exact accounts_setTest _ _ (accounts_claims _ h)

theorem accounts_closeRelay (l : Line) (h : Accounts m t) : Accounts m (closeRelay l t) := by
  unfold closeRelay startOperate
  exact accounts_seq _ (accounts_setTest l _ (accounts_claims _ h))

theorem accounts_connect (l : Line) (h : Accounts m t) : Accounts m (connect l t) := by
  unfold connect; split
  · exact h
  · split
    · exact accounts_claims _ h
    · split
      · exact accounts_closeRelay l h
      · split
        · exact accounts_seq _ h
        · exact accounts_claims _ (accounts_disconnect h)

theorem accounts_leaveHolding (h : Accounts m t) : Accounts m (leaveHolding t) :=
  accounts_claims _ (accounts_disconnect h)

theorem accounts_giveUp (h : Accounts m t) : Accounts m (giveUp t) := by
  unfold giveUp; split
  · exact accounts_claims _ h
  · exact accounts_askNotice _ (accounts_claims _ h)
  · exact accounts_askNotice _ (accounts_claims _ h)
  · exact accounts_askNotice _ (accounts_claims _ h)
  · exact accounts_leaveHolding h
  · exact accounts_claims _ h

/-! ### The test sequencer (R142 to R151) -/

theorem accounts_refreshTests (h : Accounts m t) : Accounts m (refreshTests t) := h.aside rfl

theorem accounts_endRecord (r : Run) (o : RunOutcome) (k : Slot) (h : Accounts m t) : Accounts m (endRecord r o k t) := by
  have hended := accounts_queueReport (.runEnded r o k) h
  unfold endRecord; dsimp only; split
  · exact hended.aside rfl
  · exact hended.aside rfl

theorem accounts_enterFront (r : Run) (h : Accounts m t) : Accounts m (enterFront r t) := by
  unfold enterFront
  refine accounts_refreshTests ?_
  split
  · exact accounts_endRecord _ _ _ (accounts_seq _ h)
  · exact accounts_seq _ h

theorem accounts_enterTail (r : Run) (h : Accounts m t) : Accounts m (enterTail r t) := h.aside rfl

theorem accounts_decideHold (o : RunOutcome) (h : Accounts m t) : Accounts m (decideHold o t) := by
  unfold decideHold; split
  · exact h
  · exact accounts_giveUp h

theorem accounts_becomeActive (r : Run) (h : Accounts m t) : Accounts m (becomeActive r t) := by
  unfold becomeActive; split
  · exact accounts_connect _ (accounts_refreshTests (accounts_seq _ h))
  · exact accounts_claimHead _ (accounts_refreshTests (accounts_seq _ h))

theorem accounts_activateUpTo (k : Nat) (h : Accounts m t) : Accounts m (activateUpTo k t) := by
  induction k generalizing t with
  | zero => exact h
  | succ k ih =>
    unfold activateUpTo; split
    · exact h
    · split
      · exact h
      · dsimp only; split
        · exact ih (accounts_refreshTests (accounts_endRecord _ _ _ (accounts_decideHold _ (accounts_seq _ h))))
        · exact accounts_becomeActive _ (accounts_seq _ h)

theorem accounts_activate (h : Accounts m t) : Accounts m (activate t) := accounts_activateUpTo _ h

theorem accounts_finishEnding (a : Active) (h : Accounts m t) : Accounts m (finishEnding a t) :=
  accounts_activate (accounts_refreshTests (accounts_endRecord _ _ _ (accounts_seq _
    (accounts_decideHold _ (accounts_disconnect h)))))

theorem accounts_beginEnding (o : RunOutcome) (a : Active) (h : Accounts m t) : Accounts m (beginEnding o a t) := by
  unfold beginEnding; dsimp only; split
  · exact accounts_claims _ (accounts_seq _ h)
  · exact accounts_finishEnding _ (accounts_seq _ h)

theorem accounts_startSampling (h : Accounts m t) : Accounts m (startSampling t) := h.aside rfl

theorem accounts_startSettling (b : Bool) (a : Active) (h : Accounts m t) : Accounts m (startSettling b a t) := by
  unfold startSettling; split
  · exact h
  · dsimp only; split
    · exact accounts_startSampling (accounts_claims _ (accounts_meas _ (accounts_seq _ h)))
    · exact accounts_claims _ (accounts_meas _ (accounts_seq _ h))

theorem accounts_startDischarging (h : Accounts m t) : Accounts m (startDischarging t) := h.aside rfl

theorem accounts_suspendRun (a : Active) (k : Slot) (h : Accounts m t) : Accounts m (suspendRun a k t) :=
  accounts_enterFront _ (accounts_seq _ h)

theorem accounts_nextPhase (a : Active) (h : Accounts m t) : Accounts m (nextPhase a t) := by
  unfold nextPhase; split
  · exact h
  · dsimp only; split
    · exact accounts_beginEnding _ _ (accounts_seq _ h)
    · split
      · exact accounts_beginEnding _ _ (accounts_seq _ h)
      · split
        · exact accounts_beginEnding _ _ (accounts_setLine _ _ (accounts_seq _ h))
        · split
          · exact accounts_seq _ h
          · split
            · exact accounts_activate (accounts_suspendRun _ _ (accounts_seq _ h))
            · exact accounts_startSettling _ _ (accounts_seq _ (accounts_seq _ h))

theorem accounts_headHeld (h : Accounts m t) : Accounts m (headHeld t) := by
  unfold headHeld; split
  · split
    · unfold startConnecting; dsimp only; split
      · exact accounts_beginEnding _ _ (accounts_seq _ h)
      · exact accounts_connect _ (accounts_seq _ h)
    · exact accounts_giveUp h
  · exact accounts_giveUp h

theorem accounts_limitTaken (h : Accounts m t) : Accounts m (limitTaken t) := by
  unfold limitTaken; split
  · exact h
  · split
    · exact h
    · split
      · exact accounts_beginEnding _ _ h
      · dsimp only; split
        · exact accounts_claims _ (accounts_seq _ (accounts_suspendRun _ _ h))
        · exact accounts_activate (accounts_giveUp (accounts_disconnect (accounts_suspendRun _ _ h)))

theorem accounts_holdLost (h : Accounts m t) : Accounts m (holdLost t) := by
  unfold holdLost; split
  · exact accounts_activate (accounts_seq _ h)
  · split
    · exact h
    · split
      · exact h
      · split
        · exact accounts_finishEnding _ h
        · split
          · exact accounts_activate (accounts_suspendRun _ _ h)
          · exact accounts_activate (accounts_refreshTests (accounts_endRecord _ _ _ (accounts_seq _
              (accounts_seq _ h))))

theorem accounts_faultRun (r : Run) (k : Slot) (h : Accounts m t) : Accounts m (faultRun r k t) :=
  accounts_endRecord _ _ _ (accounts_decideHold _ (accounts_seq _ h))

theorem accounts_setHazard (l : Line) (b : Bool) (h : Accounts m t) : Accounts m (setHazard l b t) := h.aside rfl

theorem accounts_protectiveStop (h : Accounts m t) : Accounts m (protectiveStop t) := by
  unfold protectiveStop; split
  · next c _ =>
    have hopen := accounts_setHazard c.line true (accounts_disconnect (accounts_seq (fun q => { q with closing := none }) h))
    dsimp only; split
    · exact accounts_activate (accounts_refreshTests (accounts_faultRun _ _ (accounts_seq _ hopen)))
    · exact accounts_activate (accounts_decideHold _ hopen)
  · exact accounts_activate (accounts_refreshTests (accounts_faultRun _ _ (accounts_seq _
      (accounts_setHazard _ _ (accounts_disconnect (accounts_seq _ h))))))
  · exact accounts_disconnect h

theorem accounts_displaceWaiting (h : Accounts m t) : Accounts m (displaceWaiting t) := by
  unfold displaceWaiting; split
  · split
    · exact accounts_enterFront _ (accounts_seq _ h)
    · exact h
  · exact h

theorem accounts_raiseTrigger (l : Line) (c : Cause) (h : Accounts m t) : Accounts m (raiseTrigger l c t) := by
  unfold raiseTrigger triggeredRequest; dsimp only; split
  · exact h
  · split
    · exact h
    · split
      · exact accounts_endRecord _ _ _ (accounts_seq _ h)
      · exact accounts_activate (accounts_displaceWaiting (accounts_enterFront _ (accounts_seq _ h)))

/-! ### The measurement unit (R155 to R162) -/

theorem accounts_storeResult (run : Run) (p : Step) (q : Quantity) (r : Result) (h : Accounts m t) :
    Accounts m (storeResult run p q r t) := by
  unfold storeResult; dsimp only; split
  · exact accounts_queueReport _ (accounts_meas _ h)
  · exact accounts_meas _ h

theorem accounts_afterFinal (a : Active) (p : Step) (h : Accounts m t) : Accounts m (afterFinal a p t) := by
  unfold afterFinal; split
  · split
    · exact accounts_beginEnding _ _ h
    · exact accounts_startDischarging h
  · exact accounts_nextPhase _ h

theorem accounts_endMeasurement (a : Active) (p : Step) (q : Quantity) (x : Wires) (h : Accounts m t) :
    Accounts m (endMeasurement a p q x t) := by
  unfold endMeasurement; dsimp only; split
  · exact accounts_protectiveStop (accounts_storeResult _ _ _ _ h)
  · split
    · unfold afterAnother; split
      · exact h.aside rfl
      · exact h.aside rfl
    · exact accounts_afterFinal _ _ (accounts_storeResult _ _ _ _ (accounts_meas _ h))

theorem accounts_samplePair (v i : Int) (h : Accounts m t) : Accounts m (samplePair v i t) := by
  unfold samplePair takePair; split
  · exact accounts_protectiveStop h
  · split
    · split
      · dsimp only; split
        · exact accounts_meas _ h
        · split
          · exact accounts_endMeasurement _ _ _ _ (accounts_meas _ h)
          · exact accounts_meas _ h
      · exact h
    · exact h

/-! ### What notices and timers do to claims (R124 to R135) -/

theorem accounts_loseHold (h : Accounts m t) : Accounts m (loseHold t) := accounts_holdLost (accounts_leaveHolding h)

theorem accounts_followOwn (h : Accounts m t) : Accounts m (followOwn t) := by
  unfold followOwn; split
  · exact accounts_followTurn h
  · split
    · exact h
    · exact accounts_enterQueued h
  · split
    · exact h
    · exact accounts_loseHold h
  · exact h

theorem accounts_changeView (f : Claims → Claims) (h : Accounts m t) : Accounts m (changeView f t) :=
  accounts_followOwn (accounts_claims _ h)

theorem accounts_heardTake (k : StationNo) (n : Nat) (h : Accounts m t) : Accounts m (heardTake k n t) := by
  unfold heardTake; dsimp only; split
  · exact accounts_askNotice _ (accounts_changeView _ h)
  · exact accounts_changeView _ h

theorem accounts_backToQueued (h : Accounts m t) : Accounts m (backToQueued t) := by
  unfold backToQueued; split
  · exact accounts_followTurn (accounts_claims _ h)
  · exact accounts_enterQueued h

theorem accounts_ownTakeEnd (n : Nat) (h : Accounts m t) : Accounts m (ownTakeEnd n t) := by
  unfold ownTakeEnd; dsimp only; split
  · split
    · exact accounts_claims _ (accounts_claims _ h)
    · exact accounts_backToQueued (accounts_claims _ h)
  · exact accounts_followOwn (accounts_claims _ h)

theorem accounts_endReleasing (h : Accounts m t) : Accounts m (endReleasing t) := by
  unfold endReleasing; dsimp only; split
  · exact accounts_claimFromNone _ (accounts_claims _ h)
  · exact accounts_claims _ h

theorem accounts_ownHoldOver (f : Claims → Claims) (h : Accounts m t) : Accounts m (ownHoldOver f t) := by
  unfold ownHoldOver; split
  · exact accounts_endReleasing (accounts_claims _ h)
  · exact accounts_changeView f h

theorem accounts_ownStatusEnd (b : Bool) (h : Accounts m t) : Accounts m (ownStatusEnd b t) := by
  have hwaiting : Accounts m (releaseWaitingClaim (changeView (viewStatus t.station b) t)) := by
    unfold releaseWaitingClaim; split
    · exact accounts_enterQueued (accounts_changeView _ h)
    · exact accounts_changeView _ h
  unfold ownStatusEnd reclaimAfterStatus; split
  · dsimp only; split
    · exact accounts_enterQueued (accounts_claims _ hwaiting)
    · exact accounts_claims _ hwaiting
  · exact hwaiting

theorem accounts_noticeDiscarded (k : NoticeKind) (h : Accounts m t) : Accounts m (noticeDiscarded k t) := by
  unfold noticeDiscarded; split
  · exact accounts_enterQueued h
  · split
    · exact accounts_askNotice _ h
    · exact accounts_backToQueued h
  · exact accounts_ownHoldOver _ h
  · split
    · exact accounts_changeView _ (accounts_claims _ h)
    · exact h
  · split
    · exact accounts_changeView _ h
    · exact h
  · split
    · exact accounts_changeView _ h
    · exact h
  · exact h

theorem accounts_releaseAbsorbed (h : Accounts m t) : Accounts m (releaseAbsorbed t) := by
  unfold releaseAbsorbed; split
  · split
    · exact h
    · exact accounts_ownHoldOver _ h
  · exact h

theorem accounts_takeConfirm (b : Bool) (h : Accounts m t) : Accounts m (takeConfirm b t) := by
  unfold takeConfirm; dsimp only; split
  · exact accounts_enterQueued (accounts_askNotice _ (accounts_queueReport _ (accounts_claims _ h)))
  · exact accounts_headHeld (accounts_claims _ (accounts_claims _ h))

theorem accounts_takeReleaseEnd (h : Accounts m t) : Accounts m (takeReleaseEnd t) := by
  unfold takeReleaseEnd; dsimp only; split
  · unfold releaseOccupancy; dsimp only; split
    · exact accounts_releaseAbsorbed (accounts_askNotice _ (accounts_claims _ (accounts_claims _ h)))
    · exact accounts_askNotice _ (accounts_claims _ (accounts_claims _ h))
  · split
    · exact accounts_connect _ (accounts_claims _ h)
    · exact accounts_claims _ h

theorem accounts_takeOccupancyLoss (h : Accounts m t) : Accounts m (takeOccupancyLoss t) := by
  unfold takeOccupancyLoss; split
  · exact accounts_loseHold (accounts_queueReport _ (accounts_claims _ h))
  · exact h

/-! ### The timed events of the sequencer and of supervision -/

theorem accounts_takeOperateEnd (h : Accounts m t) : Accounts m (takeOperateEnd t) := by
  unfold takeOperateEnd; split
  · split
    · exact accounts_beginEnding _ _ h
    · exact accounts_startSettling _ _ h
  · exact h

theorem accounts_takeSettleEnd (h : Accounts m t) : Accounts m (takeSettleEnd t) := by
  unfold takeSettleEnd; split
  · split
    · exact accounts_beginEnding _ _ h
    · exact accounts_startSampling h
  · exact h

theorem accounts_takeDischargeEnd (h : Accounts m t) : Accounts m (takeDischargeEnd t) := by
  unfold takeDischargeEnd; split
  · split
    · exact accounts_beginEnding _ _ h
    · split
      · exact accounts_nextPhase _ h
      · exact accounts_startSettling _ _ h
  · exact h

theorem accounts_takeEndingEnd (h : Accounts m t) : Accounts m (takeEndingEnd t) := by
  unfold takeEndingEnd; split
  · exact accounts_activate (accounts_giveUp (accounts_disconnect (accounts_seq _ h)))
  · exact accounts_finishEnding _ h
  · exact h

theorem accounts_takeReport (l : Line) (word : BitVec 48) (h : Accounts m t) : Accounts m (takeReport l word t) := by
  unfold takeReport; split
  · dsimp only; split
    · exact accounts_raiseTrigger _ _ (accounts_takePosition l word h)
    · exact accounts_takePosition l word h
  · split
    · exact accounts_setSup l _ h
    · exact h

end

end Sys2Proof.Machine

/-! The cells through the notice interface, the share unit and the requests; so every step keeps each cell free or counted by
its holders (R63). -/

namespace Sys2Proof.Machine

section
variable {m : Multiset CellNo} {t : State}

/-! ### Peers, the share and what is heard on the bus -/

theorem accounts_setPresence (k : StationNo) (x : Presence) (h : Accounts m t) : Accounts m (setPresence k x t) := by
  have htold (old new : Presence) {u : State} (h : Accounts m u) : Accounts m (tellPresence k old new u) := by
    unfold tellPresence; split
    · exact accounts_changeView _ (accounts_claims _ h)
    · split
      · exact accounts_claims _ h
      · exact h
  unfold setPresence; dsimp only; split
  · exact h
  · exact htold _ _ (accounts_recompute (accounts_queueReport _ (accounts_share _ h)))

theorem accounts_peerStatus (k : StationNo) (n : Nat) (r b : Bool) (wt d a : Nat) (h : Accounts m t) :
    Accounts m (peerStatus k n r b wt d a t) := by
  have hpresence (f : Peer → Peer) (x : Presence) : Accounts m (setPresence k x (setPeer k f t)) :=
    accounts_setPresence k x (accounts_share _ h)
  unfold peerStatus; dsimp only
  refine accounts_recompute ?_
  split
  · exact accounts_changeView _ (hpresence _ _)
  · exact hpresence _ _

theorem accounts_handOn (g : GoodNotice) (h : Accounts m t) : Accounts m (handOn g t) := by
  have hpeers (k : StationNo) (n : Nat) (x : Heard) : Accounts m (handToPeers k n x t) := by
    unfold handToPeers; split
    · exact accounts_peerStatus _ _ _ _ _ _ _ h
    · exact accounts_share _ h
  have hclaims (k : StationNo) (x : Heard) {u : State} (h : Accounts m u) : Accounts m (handToClaims k x u) := by
    unfold handToClaims; split
    · exact accounts_changeView _ h
    · exact h
    · exact accounts_changeView _ h
    · exact accounts_heardTake _ _ h
    · exact accounts_changeView _ h
    · exact accounts_changeView _ h
  unfold handOn; dsimp only; split
  · exact accounts_recompute (accounts_share _ h)
  · split
    · split
      · exact h
      · exact hclaims _ _ (hpeers _ _ _)
    · exact h

theorem accounts_setCondition (c : BusCondition) (h : Accounts m t) : Accounts m (setCondition c t) := by
  unfold setCondition; dsimp only; split
  · exact h
  · exact accounts_recompute (accounts_queueReport _ (accounts_notices _ h))

theorem accounts_takeNotice (levels : List Bool) (h : Accounts m t) : Accounts m (takeNotice levels t) := by
  have hcount {u : State} (h : Accounts m u) : Accounts m (countNotice u) := by
    unfold countNotice; split
    · exact h
    · exact accounts_setCondition _ (accounts_notices _ h)
  have hduplicate (g : GoodNotice) {u : State} (h : Accounts m u) : Accounts m (reportDuplicate g u) := by
    unfold reportDuplicate; split
    · exact h
    · exact accounts_notices _ (accounts_queueReport _ h)
  have hended : Accounts m (setNotices noticeEnded t) := accounts_notices _ h
  unfold takeNotice; split
  · dsimp only; split
    · next g _ =>
      unfold takeGood; dsimp only
      refine accounts_handOn _ (hcount ?_)
      split
      · exact hduplicate g (accounts_notices _ hended)
      · exact accounts_notices _ hended
    · exact accounts_notices _ hended
  · exact h

theorem accounts_takeCompletion (h : Accounts m t) : Accounts m (takeCompletion t) := by
  have hown (a : Ask) (x : Attempt) {u : State} (h : Accounts m u) : Accounts m (handOwn a x u) := by
    unfold handOwn; split
    · exact accounts_ownStatusEnd _ (accounts_recompute (accounts_share _ (accounts_notices _ h)))
    · exact accounts_changeView _ h
    · exact accounts_ownTakeEnd _ h
    · exact accounts_changeView _ h
    · exact accounts_ownHoldOver _ h
  unfold takeCompletion; split
  · exact hown _ _ (accounts_notices _ h)
  · exact h

theorem accounts_takeLoss (h : Accounts m t) : Accounts m (takeLoss t) := by
  unfold takeLoss; split
  · next a e waiting _ _ =>
    have hlost := accounts_notices (loseAttempt (settleLoss { e with losses := e.losses + 1 } waiting).queue a) h
    have hsettled : Accounts m (match (settleLoss { e with losses := e.losses + 1 } waiting).dropped with
        | some d => reportDropped d
            (setNotices (loseAttempt (settleLoss { e with losses := e.losses + 1 } waiting).queue a) t)
        | none => setNotices (loseAttempt (settleLoss { e with losses := e.losses + 1 } waiting).queue a) t) := by
      split
      · exact accounts_noticeDiscarded _ (accounts_queueReport _ hlost)
      · exact hlost
    dsimp only; split
    · exact accounts_releaseAbsorbed hsettled
    · exact hsettled
  · exact h

theorem accounts_takeNoticePeriod (h : Accounts m t) : Accounts m (takeNoticePeriod t) := by
  unfold takeNoticePeriod noticePeriodWork askStatus
  exact accounts_askNotice _ (accounts_share _ (accounts_recompute (h.aside rfl)))

/-! ### Requests -/

theorem accounts_done (c n : Byte) (d : List Byte) (h : Accounts m t) : Accounts m (done c n d t) :=
  accounts_respond _ _ _ _ _ h
theorem accounts_refuse (c n : Byte) (d : List Byte) (h : Accounts m t) : Accounts m (refuse c n d t) :=
  accounts_respond _ _ _ _ _ h
theorem accounts_answer (c n : Byte) (a : Answer) (h : Accounts m t) : Accounts m (answer c n a t) :=
  accounts_respond _ _ _ _ _ h

theorem accounts_onLine (c n l : Byte) (f : Line → State → State) (hf : ∀ l, Accounts m (f l t)) (h : Accounts m t) :
    Accounts m (onLine c n l f t) := by
  unfold onLine; split
  · exact hf _
  · exact accounts_answer _ _ _ h

theorem accounts_setTagRequest (num index : Byte) (tag : BitVec 16) (line cls : Byte) (h : Accounts m t) :
    Accounts m (setTagRequest num index tag line cls t) := by
  have hput (x : MapIndex) (e : Option MapEntry) : Accounts m (putMap x e t) := h.aside rfl
  have hplace (x : MapIndex) (l : Line) (c : FrameClass) : Accounts m (placeTag num x tag.toNat l c t) := by
    unfold placeTag; split
    · exact accounts_refuse _ _ _ h
    · split
      · split
        · exact accounts_done _ _ _ (hput _ _)
        · exact accounts_refuse _ _ _ h
      · exact accounts_done _ _ _ (hput _ _)
  unfold setTagRequest; split
  · exact accounts_answer _ _ _ h
  · split
    · split
      · exact accounts_respond _ _ _ _ _ h
      · exact hplace _ _ _
    · exact accounts_respond _ _ _ _ _ h

theorem accounts_clearTagRequest (num index : Byte) (h : Accounts m t) : Accounts m (clearTagRequest num index t) := by
  unfold clearTagRequest; split
  · exact accounts_answer _ _ _ h
  · exact accounts_done _ _ _ (h.aside rfl)

theorem accounts_writeStep (num : Byte) (k : Slot) (p : Option Step) (h : Accounts m t) :
    Accounts m (writeStep num k p t) := by
  unfold writeStep; split
  · exact accounts_refuse _ _ _ h
  · exact accounts_done _ _ _ (accounts_seq _ h)

theorem accounts_loadStepRequest (num slot : Byte) (rec : RawStep) (h : Accounts m t) :
    Accounts m (loadStepRequest num slot rec t) := by
  unfold loadStepRequest; split
  · exact accounts_answer _ _ _ h
  · split
    · exact accounts_writeStep _ _ _ h
    · exact accounts_respond _ _ _ _ _ h

theorem accounts_emptyStepRequest (num slot : Byte) (h : Accounts m t) : Accounts m (emptyStepRequest num slot t) := by
  unfold emptyStepRequest; split
  · exact accounts_answer _ _ _ h
  · exact accounts_writeStep _ _ _ h

theorem accounts_submitRequest (n l k o : Byte) (h : Accounts m t) : Accounts m (submitRequest n l k o t) := by
  unfold submitRequest; split
  · split
    · exact accounts_refuse _ _ _ h
    · exact accounts_done _ _ _ (accounts_activate (accounts_enterTail _ (accounts_seq _ h)))
  · exact accounts_answer _ _ _ h

theorem accounts_cancelRun (id : Nat) {u : State} (hu : cancelRun id t = some u) (h : Accounts m t) : Accounts m u := by
  unfold cancelRun at hu
  split at hu
  · cases hu
    exact accounts_refreshTests (accounts_endRecord _ _ _ (accounts_seq _ h))
  · split at hu
    · cases hu; exact accounts_seq _ h
    · split at hu
      · split at hu
        · unfold cancelActive at hu
          split at hu
          · cases hu
            exact accounts_activate (accounts_refreshTests (accounts_endRecord _ _ _ (accounts_seq _ (accounts_giveUp h))))
          · split at hu
            · cases hu
            · cases hu; exact accounts_seq _ h
        · cases hu
      · cases hu

theorem accounts_cancelRequest (n i : Byte) (h : Accounts m t) : Accounts m (cancelRequest n i t) := by
  unfold cancelRequest; split
  · exact accounts_answer _ _ _ h
  · split
    · next u hu => exact accounts_done _ _ _ (accounts_cancelRun _ hu h)
    · exact accounts_refuse _ _ _ h

theorem accounts_clearFaultLine (n : Byte) (l : Line) (h : Accounts m t) : Accounts m (clearFaultLine n l t) := by
  have hcleared : Accounts m (discardFault l (setHazard l false t)) := accounts_seq _ (accounts_setHazard _ _ h)
  unfold clearFaultLine clearLineFault; dsimp only; split
  · split
    · split
      · split
        · exact accounts_refuse _ _ _ h
        · exact accounts_done _ _ _ (accounts_activate (accounts_enterTail _ hcleared))
      · exact accounts_done _ _ _ hcleared
    · exact accounts_done _ _ _ hcleared
  · exact accounts_refuse _ _ _ h

theorem accounts_clearLatch (n : Byte) (h : Accounts m t) : Accounts m (clearLatch n t) := by
  unfold clearLatch; split
  · exact accounts_done _ _ _ (accounts_seq _ h)
  · exact accounts_refuse _ _ _ h

theorem accounts_realignLine (n : Byte) (l : Line) (h : Accounts m t) : Accounts m (realignLine n l t) := by
  unfold realignLine; split
  · exact accounts_refuse _ _ _ h
  · dsimp only
    refine accounts_done _ _ _ ?_
    split
    · exact h.aside rfl
    · exact h.aside rfl

theorem accounts_requestEffect (c : Instr) (h : Accounts m t) : Accounts m (requestEffect c t) := by
  have hbar (n k : Byte) (b : Bool) (l : Line) : Accounts m (barTo k n b l t) :=
    accounts_done _ _ _ (accounts_setBarred _ _ h)
  cases c <;> simp only [requestEffect]
  case readLine n l => exact accounts_onLine _ _ _ _ (fun _ => accounts_done _ _ _ h) h
  case readStation n => exact accounts_done _ _ _ h
  case readPeers n => exact accounts_done _ _ _ h
  case readResults n l => exact accounts_onLine _ _ _ _ (fun _ => accounts_done _ _ _ h) h
  case barLine n l => exact accounts_onLine _ _ _ _ (fun _ => hbar _ _ _ _) h
  case unbarLine n l => exact accounts_onLine _ _ _ _ (fun _ => hbar _ _ _ _) h
  case setTag n x t l c => exact accounts_setTagRequest _ _ _ _ _ h
  case clearTag n x => exact accounts_clearTagRequest _ _ h
  case loadStep n k r => exact accounts_loadStepRequest _ _ _ h
  case loadStepEmpty n k => exact accounts_emptyStepRequest _ _ h
  case submitRun n l k o => exact accounts_submitRequest _ _ _ _ h
  case cancelRun n i => exact accounts_cancelRequest _ _ h
  case clearFault n l => exact accounts_onLine _ _ _ _ (fun _ => accounts_clearFaultLine _ _ h) h
  case clearFaultLatch n => exact accounts_clearLatch _ h
  case realign n l => exact accounts_onLine _ _ _ _ (fun _ => accounts_realignLine _ _ h) h
  case restart n => exact accounts_mgmt _ (accounts_respond _ _ _ _ _ h)
  case unknown c =>
    unfold unknownRequest; split
    · exact accounts_answer _ _ _ h
    · exact accounts_answer _ _ _ h
  all_goals exact h

theorem accounts_request (f : State → State) (hf : ∀ t, Accounts m t → Accounts m (f t)) (h : Accounts m t) :
    Accounts m (request f t) := by
  have hended : Accounts m (setStore endRequestFrame t) := by
    cases hrx : t.store.uplinkRx with
    | request length kept received =>
      refine (accounts_nextUplinkRx .idle (by rw [hrx]; trivial) trivial h).aside ?_
      simp only [holdings, setStore_store, setUplinkRx, endRequestFrame, hrx]
      rfl
    | _ => exact h.aside (by simp only [holdings, setStore_store, endRequestFrame, hrx]; rfl)
  unfold request; dsimp only; split
  · exact hf _ hended
  · exact hended

theorem accounts_takeRequest (c : Instr) (h : Accounts m t) : Accounts m (takeRequest c t) :=
  accounts_request _ (fun _ h => accounts_requestEffect _ h) h

theorem accounts_takeFrameEnd (p : Port) (rest : List Byte) (h : Accounts m t) : Accounts m (takeFrameEnd p rest t) := by
  unfold takeFrameEnd; split
  · exact accounts_request _ (fun _ h => accounts_requestEffect _ h) h
  · exact accounts_endFrame _ _ h

/-! ### Every command of a running part -/

theorem accounts_exec (c : Instr) (hc : isLive c = true) (h : Accounts m t) : ∃ u, exec c t = .next u ∧ Accounts m u := by
  have hlive {f : State → State} (hf : Accounts m t → Accounts m (f t)) : Accounts m (live f t) := accounts_live f hf h
  have hdue {due : State → Bool} {f : State → State} (hf : Accounts m t → Accounts m (f t)) :
      Accounts m (live (whenDue due f) t) := hlive (accounts_whenDue due f hf)
  have hrequest (d : Instr) : Accounts m (live (takeRequest d) t) := hlive (accounts_takeRequest d)
  cases c with
  | powerOn => cases hc
  | pwrgoodFall => cases hc
  | restartStart => cases hc
  | configurationReadEnd => cases hc
  | firstRecessiveRun =>
    refine ⟨_, rfl, hlive fun h => ?_⟩
    unfold takeRecessiveRun; split
    · exact h
    · exact accounts_notices _ h
  | noticeEnd b e => exact ⟨_, rfl, hlive (accounts_takeNotice _)⟩
  | duplicateNumberHoldoffExpiry => exact ⟨_, rfl, hdue (accounts_notices _)⟩
  | noticeCompletion => exact ⟨_, rfl, hlive accounts_takeCompletion⟩
  | contentionLoss => exact ⟨_, rfl, hlive accounts_takeLoss⟩
  | accessGapExpiry => exact ⟨_, rfl, hdue fun h => accounts_startHead (accounts_notices _ h)⟩
  | busQuietTimeout => exact ⟨_, rfl, hdue fun h => accounts_startHead (accounts_notices _ h)⟩
  | isolationTimerExpiry => exact ⟨_, rfl, hdue fun h => accounts_setCondition _ (accounts_notices _ h)⟩
  | noticePeriodExpiry => exact ⟨_, rfl, hdue accounts_takeNoticePeriod⟩
  | presenceTimerExpiry k => exact ⟨_, rfl, hdue (accounts_setPresence _ _)⟩
  | capacityViewExpiry => exact ⟨_, rfl, hdue (accounts_share _)⟩
  | riseCheck => exact ⟨_, rfl, hdue accounts_takeRiseCheck⟩
  | firstCellAdmission p b => exact ⟨_, rfl, hlive (accounts_admitFirst p b)⟩
  | furtherCellNeeded p b => exact ⟨_, rfl, hlive (accounts_growFrame p _)⟩
  | frameReceptionEnd p b => exact ⟨_, rfl, hlive (accounts_takeFrameEnd p _)⟩
  | frameAbortReceived p => exact ⟨_, rfl, hlive (accounts_abortFrame p)⟩
  | uplinkHeaderEnd t k n => exact ⟨_, rfl, hlive (accounts_takeHeader _)⟩
  | pacingUnderflow p => exact ⟨_, rfl, hlive (accounts_takeUnderflow p)⟩
  | uplinkTransmissionComplete => exact ⟨_, rfl, hlive accounts_completeUp⟩
  | lpRdyAsserted l => exact ⟨_, rfl, hlive fun h => accounts_checkPort l (h.aside rfl)⟩
  | lpRdyWithdrawn l => exact ⟨_, rfl, hlive fun h => h.aside rfl⟩
  | linePortTransmissionComplete l => exact ⟨_, rfl, hlive (accounts_completeDown l)⟩
  | searchMarkerFound l n => exact ⟨_, rfl, hlive (accounts_takeMarker l n)⟩
  | searchTimeExpiry l => exact ⟨_, rfl, hdue (accounts_setSync l _)⟩
  | reportPositionEnd l word => exact ⟨_, rfl, hlive (accounts_takeReport l word)⟩
  | losTriggerTimerExpiry l => exact ⟨_, rfl, hdue fun h => accounts_raiseTrigger _ _ (accounts_setSup l _ h)⟩
  | holdExpiry => exact ⟨_, rfl, hdue (accounts_changeView _)⟩
  | turnLapse => exact ⟨_, rfl, hdue (accounts_changeView _)⟩
  | confirmWindowEnd b => exact ⟨_, rfl, hdue (accounts_takeConfirm b)⟩
  | relayReleaseTimeEnd => exact ⟨_, rfl, hdue accounts_takeReleaseEnd⟩
  | ownHoldLimit => exact ⟨_, rfl, hdue fun h => accounts_limitTaken (accounts_claims _ h)⟩
  | occupancyLoss => exact ⟨_, rfl, hlive accounts_takeOccupancyLoss⟩
  | operateTimeEnd => exact ⟨_, rfl, hdue accounts_takeOperateEnd⟩
  | settleTimeEnd => exact ⟨_, rfl, hdue accounts_takeSettleEnd⟩
  | dischargeTimeEnd => exact ⟨_, rfl, hdue accounts_takeDischargeEnd⟩
  | endingDischargeEnd => exact ⟨_, rfl, hdue accounts_takeEndingEnd⟩
  | holdoffExpiry l => exact ⟨_, rfl, hdue (accounts_seq _)⟩
  | sampleTaken v i => exact ⟨_, rfl, hlive (accounts_samplePair _ _)⟩
  | sampleFrameFault => exact ⟨_, rfl, hlive (accounts_meas _)⟩
  | readLine => exact ⟨_, rfl, hrequest _⟩
  | readStation => exact ⟨_, rfl, hrequest _⟩
  | readPeers => exact ⟨_, rfl, hrequest _⟩
  | readResults => exact ⟨_, rfl, hrequest _⟩
  | barLine => exact ⟨_, rfl, hrequest _⟩
  | unbarLine => exact ⟨_, rfl, hrequest _⟩
  | setTag => exact ⟨_, rfl, hrequest _⟩
  | clearTag => exact ⟨_, rfl, hrequest _⟩
  | loadStep => exact ⟨_, rfl, hrequest _⟩
  | loadStepEmpty => exact ⟨_, rfl, hrequest _⟩
  | submitRun => exact ⟨_, rfl, hrequest _⟩
  | cancelRun => exact ⟨_, rfl, hrequest _⟩
  | clearFault => exact ⟨_, rfl, hrequest _⟩
  | clearFaultLatch => exact ⟨_, rfl, hrequest _⟩
  | realign => exact ⟨_, rfl, hrequest _⟩
  | restart => exact ⟨_, rfl, hrequest _⟩
  | unknown => exact ⟨_, rfl, hrequest _⟩
  | restartWaitTimeout => exact ⟨_, rfl, hdue (accounts_mgmt _)⟩
  | startBitRead =>
    refine ⟨_, rfl, hlive fun h => ?_⟩
    unfold takeStartBit; split
    · exact accounts_notices _ h
    · exact h
  | upstreamByteArrival l => exact ⟨_, rfl, hlive (accounts_setLine l _)⟩

/-- A part that is held or reads its configuration takes no event of its blocks (R171). -/
theorem exec_still (c : Instr) (hc : isLive c = true) (h : t.power ≠ .running) : exec c t = .next t := by
  cases c with
  | powerOn | pwrgoodFall | restartStart | configurationReadEnd => cases hc
  | _ => exact congrArg Host.Outcome.next (live_still h)

/-! ### Starts, and a fall of PWRGOOD (R171) -/

theorem balanced_dropChains (chains : List (List CellNo)) {st : Store} (h : Balanced st (cellsOf chains + m)) :
    Balanced (chains.foldl (fun st cells => dropHolder cells st) st) m := by
  induction chains generalizing st with
  | nil => rwa [cellsOf_nil, zero_add] at h
  | cons x xs ih => exact ih (Balanced.dropHolder (by rwa [cellsOf_cons, add_assoc] at h))

theorem dropChains_frame (chains : List (List CellNo)) (st : Store) :
    (chains.foldl (fun st cells => dropHolder cells st) st).up = st.up ∧
    (chains.foldl (fun st cells => dropHolder cells st) st).down = st.down ∧
    (chains.foldl (fun st cells => dropHolder cells st) st).um = st.um ∧
    (chains.foldl (fun st cells => dropHolder cells st) st).memory = st.memory := by
  induction chains generalizing st with
  | nil => exact ⟨rfl, rfl, rfl, rfl⟩
  | cons x xs ih =>
    obtain ⟨hdown, -, -, -, hup, hum, hmemory, -⟩ := dropHolder_frame x st
    obtain ⟨hup', hdown', hum', hmemory'⟩ := ih (dropHolder x st)
    exact ⟨hup'.trans hup, hdown'.trans hdown, hum'.trans hum, hmemory'.trans hmemory⟩

/-- A part whose receptions and transmissions have been cut off holds no cell there. -/
theorem portCells_cutOff (s : State) : portCells (cutOff s) = 0 := by
  simp only [portCells, cutOff, cutStore, overLines_filled _ _ sendingCells_none,
    overLines_filled (fun r => (lineRxCells r : Multiset CellNo)) LineRx.idle rfl, flightCells_none]
  rfl

/-- A fall of PWRGOOD gives up the cells of all receptions and transmissions (R171). -/
theorem accounts_cutOff (h : Accounts m t) : Accounts m (cutOff t) := by
  obtain ⟨hup, hdown, hum, -⟩ := dropChains_frame (heldChains t) t.store
  have hheld : heldCells t + m = cellsOf (heldChains t) + (heldCells (cutOff t) + m) := by
    rw [heldCells, heldCells, portCells_cutOff, cellsOf_heldChains]
    simp only [cutOff, cutStore, hup, hdown, hum]
    abel
  have hbalanced := h.balanced
  rw [hheld] at hbalanced
  exact ⟨(balanced_dropChains (heldChains t) hbalanced).congr rfl rfl, nofun⟩

/-! ### Every step (R63) -/

/-- Outside a configuration read, the law of the cells is that none is in hand. -/
theorem cellsAccounted_running (h : Accounts 0 t) (hp : t.power ≠ .reading) : CellsAccounted t :=
  cellsAccounted_iff.mpr ⟨h, fun hr => absurd hr hp⟩

theorem cellsAccounted_start (hs : t.store = startStore) {burst : Line → Nat} (hsched : t.sched = startScheduler burst)
    {map : Table (Option MapEntry) 32} (hdist : t.dist = startDistributor map) : CellsAccounted t :=
  startStore_accounted t hs (by rw [hsched]; rfl) fun l => by rw [hdist]; exact look_filled ..

/-- The ports become active: while the configuration was read no port transmitted, so the start of the transmitters gives up
no cell (R171). -/
theorem accounts_deliver (straps : BitVec 3) (b : List Byte) (h : CellsAccounted t) (hp : t.power = .reading) :
    Accounts 0 (deliver straps b t) := by
  obtain ⟨haccounts, hreading⟩ := cellsAccounted_iff.mp h
  obtain ⟨hflight, hsending⟩ := hreading hp
  have hidle : filled 12 none = t.dist.sending := table_ext fun l => by rw [look_filled, hsending]
  refine haccounts.aside ?_
  simp only [holdings, hflight, ← hidle]
  rfl

theorem cellsAccounted_endRead (straps : BitVec 3) (b : List Byte) (h : CellsAccounted t) :
    CellsAccounted (endRead straps b t) := by
  unfold endRead; split
  · next hp =>
    have hreports : Accounts 0 (startReports (deliver straps b t)) := by
      unfold startReports; dsimp only; split
      · exact accounts_queueReport _ (accounts_queueReport _ (accounts_deliver straps b h hp))
      · exact accounts_queueReport _ (accounts_deliver straps b h hp)
    exact cellsAccounted_running (accounts_settle hreports) (by rw [(opened_undisturbed straps b t).power]; nofun)
  · exact h

/-- Only the commands of a running part and the end of the configuration read have accounts to keep: every other command
starts the part anew, or cuts it off. -/
theorem cellsAccounted_exec (c : Instr) {u : State} (h : CellsAccounted t) (he : exec c t = .next u) :
    CellsAccounted u := by
  by_cases hc : isLive c = true
  · by_cases hp : t.power = .running
    · obtain ⟨v, hv, haccounts⟩ := accounts_exec c hc (cellsAccounted_iff.mp h).1
      obtain ⟨w, hw, hleads⟩ := exec_leads c hc t
      rw [he] at hv hw; cases hv; cases hw
      exact cellsAccounted_running haccounts (by rw [hleads.power, hp]; nofun)
    · rw [exec_still c hc hp] at he; cases he
      exact h
  · cases c with
    | powerOn => cases he; exact cellsAccounted_start rfl rfl rfl
    | pwrgoodFall => cases he; exact cellsAccounted_running (accounts_cutOff (cellsAccounted_iff.mp h).1) nofun
    | restartStart =>
      cases he
      unfold beginRestart; split
      · exact h
      · split
        · exact cellsAccounted_start rfl rfl rfl
        · exact h
    | configurationReadEnd straps image => cases he; exact cellsAccounted_endRead straps _ h
    | _ => exact absurd rfl hc

/-- The law reads the store, the transmitters and the power state alone. -/
theorem CellsAccounted.aside {u : State} (h : CellsAccounted t) (hu : holdings u = holdings t) (hp : u.power = t.power) :
    CellsAccounted u := by
  obtain ⟨haccounts, hreading⟩ := cellsAccounted_iff.mp h
  refine cellsAccounted_iff.mpr ⟨haccounts.aside hu, fun hr => ?_⟩
  obtain ⟨-, -, -, -, -, -, -, hflight, hsending⟩ := Holdings.mk.injEq .. ▸ hu
  rw [hflight, hsending]
  exact hreading (hp ▸ hr)

theorem cellsAccounted_idle (h : CellsAccounted t) : CellsAccounted (idleStep t) := by
  unfold idleStep; split
  · exact h
  · exact h.aside (by rw [tickClocks_eq]; rfl) (by rw [tickClocks_eq])
  · split
    · exact h.aside rfl rfl
    · exact h.aside (by rw [tickRunning_eq, tickClocks_eq]; rfl) (by rw [tickRunning_eq, tickClocks_eq])

theorem cellsAccounted_step {u : State} (h : CellsAccounted t) (hu : step t = .next u) : CellsAccounted u := by
  unfold step at hu; split at hu
  · cases hu; exact cellsAccounted_idle h
  · refine cellsAccounted_exec _ ?_ hu
    exact h.aside rfl rfl

end

/-! ### Memory, the report queue and UM (R71, R167) -/

/-- The store's bytes in canonical form, and both queues of reports within their bounds. -/
def StoreBounded (s : State) : Prop := MemoryCanonical s ∧ QueuesBounded s

section
variable {s t : State}

theorem StoreBounded.congr (h : StoreBounded s) (hmemory : t.store.memory = s.store.memory) (hum : t.store.um = s.store.um)
    (hreports : t.mgmt.reports = s.mgmt.reports) : StoreBounded t := by
  unfold StoreBounded MemoryCanonical QueuesBounded
  rw [hmemory, hum, hreports]
  exact h

theorem Change.keeps_storeBounded {sc : Scope} (h : Change sc s t) (hs : StoreBounded s) : StoreBounded t := by
  obtain ⟨hmemory, hreports, hum⟩ := hs
  cases h with
  | store f hf => exact ⟨(hf s.store).1.wf hmemory, hreports, (hf s.store).2.trans hum⟩
  | enterUm bytes w s hfits =>
    refine ⟨writeFrame_wf _ _ _ _ hmemory, hreports, ?_⟩
    simp only [fitsUm, Bool.and_eq_true, decide_eq_true_eq] at hfits
    simpa [Machine.enterUm, Machine.claimCells] using hfits.1
  | report r s hroom => exact ⟨hmemory, by simpa using hroom, hum⟩
  | mgmt f s hf => exact ⟨hmemory, hf.trans hreports, hum⟩
  | recompute => rw [recompute_eq]; exact ⟨hmemory, hreports, hum⟩
  | riseCheck =>
    cases hr : s.share.rise with
    | none => rw [takeRiseCheck_still hr]; exact ⟨hmemory, hreports, hum⟩
    | some r => rw [takeRiseCheck_eq hr]; exact ⟨hmemory, hreports, hum⟩
  | _ => exact ⟨hmemory, hreports, hum⟩

theorem storeBounded_start (hstore : t.store = startStore) (hmgmt : t.mgmt = startManagement) : StoreBounded t := by
  rw [StoreBounded, MemoryCanonical, QueuesBounded, hstore, hmgmt]
  exact ⟨rfl, Nat.zero_le _, Nat.zero_le _⟩

theorem stepKeeps_storeBounded : StepKeeps StoreBounded where
  pending _ _ hs := hs
  clocks s hs := by rw [tickClocks_eq]; exact hs
  tick s hs := hs.congr (by rw [tickRunning_eq, tickClocks_eq]) (by rw [tickRunning_eq, tickClocks_eq])
    (by rw [tickRunning_eq, tickClocks_eq])
  live c hc _ _ hs he := exec_keeps (fun _ _ _ h => h.keeps_storeBounded) hc he hs
  powerUp _ _ := storeBounded_start rfl rfl
  cutOff s hs := by
    obtain ⟨-, -, hum, hmemory⟩ := dropChains_frame (heldChains s) s.store
    exact hs.congr hmemory hum rfl
  restart _ _ := storeBounded_start rfl rfl
  opens straps b s hs := by
    have hdelivered : StoreBounded (deliver straps b s) := hs
    refine Leads.keeps (sc := Scope.none) (fun _ _ c => c.keeps_storeBounded) (leads_settle ?_) hdelivered
    unfold startReports; dsimp only; split
    · exact leads_queueReport _ (leads_queueReport _ .refl)
    · exact leads_queueReport _ .refl

end

/-- Settles O15: the bytes and the queues through the chains of elementary changes, the cells by what each effect has in hand
while a frame changes its holder. -/
theorem everyStepKeepsStoreAndReportBounds : Obligations.EveryStepKeepsStoreAndReportBounds :=
  ⟨fun _ _ hm hq => stepKeeps_storeBounded.step ⟨hm, hq⟩, fun _ _ => cellsAccounted_step⟩

end Sys2Proof.Machine

/-! The bytes of a frame in its chain of cells, and the cells of a holder given up (R62, R63). -/

namespace Sys2Proof.Machine

/-! ### Addresses (R62) -/

section
variable {cells : List CellNo} {j k a : Nat}

theorem frameAddress_eq_some : frameAddress cells k = some a ↔
    ∃ h : k / 256 < cells.length, a = 256 * cells[k / 256].val + k % 256 := by
  simp only [frameAddress, Option.map_eq_some_iff, List.getElem?_eq_some_iff, Config.cellBytes, cellAddress]
  exact ⟨fun ⟨_, ⟨h, hc⟩, ha⟩ => ⟨h, by rw [hc, ha]⟩, fun ⟨h, ha⟩ => ⟨_, ⟨h, rfl⟩, ha.symm⟩⟩

/-- Two bytes of a frame stand at one address only if they are one. -/
theorem frameAddress_inj (hnodup : cells.Nodup) (hj : frameAddress cells j = some a)
    (hk : frameAddress cells k = some a) : j = k := by
  obtain ⟨hj, ha⟩ := frameAddress_eq_some.mp hj
  obtain ⟨hk, ha'⟩ := frameAddress_eq_some.mp hk
  have hcell : cells[j / 256] = cells[k / 256] := Fin.ext (by omega)
  have hplace : j / 256 = k / 256 := (hnodup.getElem_inj_iff).mp hcell
  rw [hcell] at ha
  omega

/-- The bytes of a cell outside the chain are not the frame's. -/
theorem frameAddress_ne {c : CellNo} {o : Nat} (hc : c ∉ cells) (ho : o < 256) :
    frameAddress cells k ≠ some (256 * c.val + o) := by
  intro h
  obtain ⟨hk, ha⟩ := frameAddress_eq_some.mp h
  have hcell : c = cells[k / 256] := Fin.ext (by omega)
  exact hc (hcell ▸ List.getElem_mem hk)

end

/-! ### Bytes written and read (R62) -/

section
variable {cells : List CellNo} {m : List Host.Cell} {a : Nat}

/-- The writing of a frame's bytes leaves every address alone at which none of them stands. -/
theorem memRead_writeFrame_other (xs : List Byte) (k : Nat) (hm : memWf m = true)
    (ha : ∀ j, k ≤ j → j < k + xs.length → frameAddress cells j ≠ some a) :
    memRead (writeFrame cells m k xs) a = memRead m a := by
  induction xs generalizing m k with
  | nil => rfl
  | cons x xs ih =>
    rw [List.length_cons] at ha
    have hhere := ha k (Nat.le_refl _) (by omega)
    have hrest : ∀ j, k + 1 ≤ j → j < k + 1 + xs.length → frameAddress cells j ≠ some a :=
      fun j hj hlt => ha j (by omega) (by omega)
    unfold writeFrame
    cases haddress : frameAddress cells k with
    | none => exact ih (k + 1) hm hrest
    | some b =>
      rw [haddress] at hhere
      rw [ih (k + 1) (memWrite_wf _ _ _ hm) hrest, memRead_memWrite _ _ _ _ hm, if_neg fun h => hhere (by rw [h])]

/-- A byte of a frame is read back at its address. -/
theorem memRead_writeFrame (hnodup : cells.Nodup) (xs : List Byte) (k i : Nat) (hm : memWf m = true)
    (hi : i < xs.length) (ha : frameAddress cells (k + i) = some a) :
    memRead (writeFrame cells m k xs) a = xs[i] := by
  induction xs generalizing m k i with
  | nil => simp at hi
  | cons x xs ih =>
    unfold writeFrame
    cases i with
    | zero =>
      rw [Nat.add_zero] at ha
      rw [ha]; dsimp only
      rw [memRead_writeFrame_other xs (k + 1) (memWrite_wf _ _ _ hm), memRead_memWrite _ _ _ _ hm, if_pos rfl,
        List.getElem_cons_zero]
      intro j hj _ h
      have := frameAddress_inj hnodup h ha
      omega
    | succ i =>
      rw [Nat.add_comm i, ← Nat.add_assoc] at ha
      rw [List.length_cons] at hi
      rw [List.getElem_cons_succ]
      refine ih (k + 1) i ?_ (by omega) ha
      split
      · exact memWrite_wf _ _ _ hm
      · exact hm

/-- A frame written into a chain that is long enough is read back (R62). -/
theorem readFrame_writeFrame (hnodup : cells.Nodup) (hm : memWf m = true) (bytes : List Byte)
    (hlen : bytes.length ≤ 256 * cells.length) :
    readFrame cells (writeFrame cells m 0 bytes) bytes.length = bytes := by
  refine List.ext_getElem (by simp [readFrame]) fun i hi hi' => ?_
  have hplace : i / 256 < cells.length := by omega
  have ha := frameAddress_eq_some.mpr ⟨hplace, rfl⟩
  simp only [readFrame, List.getElem_map, List.getElem_range, ha, Option.map_some, Option.getD_some]
  exact memRead_writeFrame hnodup bytes 0 i hm hi' (by rw [Nat.zero_add]; exact ha)

end

/-! ### A holder given up (R63) -/

/-- The counts of the chain's cells fall by one, and those that reach 0 are freed in the order of the chain. -/
theorem dropHolder_eq (cells : List CellNo) (st : Store) (hnodup : cells.Nodup) : dropHolder cells st = { st with
    free := st.free ++ cells.filter fun c => decide (look st.refs c ≤ 1)
    refs := tabulate 2048 fun c => if c ∈ cells then look st.refs c - 1 else look st.refs c } := by
  induction cells generalizing st with
  | nil =>
    have hrefs : (tabulate 2048 fun c => look st.refs c) = st.refs := table_ext fun c => look_tabulate ..
    simp [dropHolder, hrefs]
  | cons c cs ih =>
    obtain ⟨hc, hcs⟩ := List.nodup_cons.mp hnodup
    have hlook (d : CellNo) (hd : d ≠ c) : look (dropCell st c).refs d = look st.refs d := by
      rw [look_dropCell, if_neg hd.symm, Nat.sub_zero]
    have hfilter : (cs.filter fun d => decide (look (dropCell st c).refs d ≤ 1)) =
        cs.filter fun d => decide (look st.refs d ≤ 1) :=
      List.filter_congr fun d hd => by rw [hlook d (fun h => hc (h ▸ hd))]
    have hfree : (dropCell st c).free ++ cs.filter (fun d => decide (look st.refs d ≤ 1)) =
        st.free ++ (c :: cs).filter fun d => decide (look st.refs d ≤ 1) := by
      rw [List.filter_cons, dropCell]; dsimp only
      by_cases hlast : look st.refs c ≤ 1
      · rw [if_pos (by omega), if_pos (by simpa using hlast), List.append_assoc, List.singleton_append]
      · rw [if_neg (by omega), if_neg (by simpa using hlast)]
    have hrefs : (tabulate 2048 fun d => if d ∈ cs then look (dropCell st c).refs d - 1 else look (dropCell st c).refs d) =
        tabulate 2048 fun d => if d ∈ c :: cs then look st.refs d - 1 else look st.refs d := by
      refine table_ext fun d => ?_
      rw [look_tabulate, look_tabulate]
      by_cases hd : d = c
      · subst hd; simp [hc, look_dropCell]
      · simp [hd, hlook d hd]
    change dropHolder cs (dropCell st c) = _
    rw [ih _ hcs, hfilter, hfree, hrefs]
    rfl

/-- Settles O37: a byte written is read back at its address, and no two bytes of a frame share one; the cells of a chain are
given up one by one. -/
theorem cellsHoldTheirFrameAndReturnToTheFreeList : Obligations.CellsHoldTheirFrameAndReturnToTheFreeList :=
  ⟨fun _ _ bytes hnodup hm hlen => ⟨readFrame_writeFrame hnodup hm bytes hlen, fun _ _ hc ho =>
    memRead_writeFrame_other bytes 0 hm fun _ _ _ => frameAddress_ne hc ho⟩, dropHolder_eq⟩

end Sys2Proof.Machine

/-! Pacing underflows, and the end of a frame on the uplink port (R72, R77, R79, R81, R88, R91, R166, R174). -/

namespace Sys2Proof.Machine

section
variable {s : State}

/-- A level within its depth is raised by a quantum and cut off at the depth (R81). -/
theorem refill_of_le {depth level : Int} (h : level ≤ depth) : refill depth level = min depth (level + 128) := by
  unfold refill Config.pacingQuantum; omega

theorem takeUnderflow_stopped (e : RoundEntry) (h : (look s.sched.counters e).running = false) :
    takeUnderflow (.entry e) s = s := by
  simp [takeUnderflow, h]

theorem takeUnderflow_entry (e : RoundEntry) (h : (look s.sched.counters e).running = true) :
    takeUnderflow (.entry e) s = underflowEntry e s := by
  simp [takeUnderflow, h]

theorem takeUnderflow_stationStopped (h : s.sched.stationCounter.running = false) : takeUnderflow .station s = s := by
  simp [takeUnderflow, h]

theorem takeUnderflow_station (h : s.sched.stationCounter.running = true) :
    takeUnderflow .station s = underflowStation s := by
  simp [takeUnderflow, h]

/-- The restart wait behind the end of a frame: it ends with the frame that carries its response (R166). -/
def waitBehind (f : UplinkFrame) : RestartWait → RestartWait
  | .waiting due => if f.endsWait = true then .ended else .waiting due
  | w => w

theorem endWaitFor_eq (f : UplinkFrame) (s : State) :
    endWaitFor f s = { s with mgmt := { s.mgmt with wait := waitBehind f s.mgmt.wait } } := by
  have hmgmt (m : Management) : { m with wait := waitBehind f m.wait } = if f.endsWait = true then endWait m else m := by
    obtain ⟨reports, missed, wait⟩ := m
    cases wait with
    | waiting due => dsimp only [waitBehind, endWait]; split <;> rfl
    | none | ended => exact (ite_self _).symm
  rw [hmgmt]
  unfold endWaitFor; split <;> rfl

/-- The end of the frame in flight, and the start opportunity of a turn that is held or paused behind it (R72, R91). -/
theorem completeUp_eq {f : UplinkFrame} (h : s.sched.inFlight = some f) : completeUp s =
    let u := endWaitFor f (releaseChain f.cells { s with sched := { s.sched with inFlight := none, lastEnd := some .close } })
    if s.sched.turn = .idle then u else startOpportunity u := by
  have hsched := (releaseChain_frame f.cells
    { s with sched := { s.sched with inFlight := none, lastEnd := some .close } }).2.2.1
  simp only [completeUp, h, endWaitFor_eq, setSched, hsched]

end

/-- Settles O45: an underflow by whether its counter runs, and the end of the frame in flight. -/
theorem underflowsRefillAndTransmissionsComplete : Obligations.UnderflowsRefillAndTransmissionsComplete := by
  refine ⟨fun s hrun => ?_, fun s f hrun hflight => ?_⟩
  · intro onward
    have honward (c : Counter) : underflowCounter c = onward c := by
      unfold underflowCounter onward
      split <;> rfl
    refine ⟨fun e => ⟨fun hc => exec_live hrun (takeUnderflow_stopped e hc), fun hc hlevel => ?_⟩,
      fun hc => exec_live hrun (takeUnderflow_stationStopped hc), fun hc hlevel => ?_⟩
    · refine exec_live hrun ((takeUnderflow_entry e hc).trans ?_)
      rw [underflowEntry, setSched, alter, alter, honward, refill_of_le hlevel]
    · refine exec_live hrun ((takeUnderflow_station hc).trans ?_)
      simp only [underflowStation, setSched, honward, refill_of_le hlevel]
  · intro s1 wait s2
    have hwait : wait = waitBehind f s1.mgmt.wait := by
      rw [show s1.mgmt.wait = s.mgmt.wait from (releaseChain_frame _ _).1.wait]
      unfold wait
      cases s.mgmt.wait <;> rfl
    have hs2 : s2 = endWaitFor f s1 := by
      rw [endWaitFor_eq, ← hwait]
    rw [hs2]
    exact exec_live hrun (completeUp_eq hflight)

end Sys2Proof.Machine

/-! The line-port transmitters: LP_RDY read, heads discarded for age, and the first fresh frame taken (R72, R73, R102 to
R104). -/

namespace Sys2Proof.Machine

section
variable {l : Line} {s : State}

/-! ### The look (R73) -/

/-- A look discards the heads that are too old, and stops at the first fresh frame (R73). -/
theorem lookAt_append {time sojourn : Nat} {old fresh : List Entry} (hold : ∀ e ∈ old, sojourn < time - e.stamp)
    (hfresh : ∀ e ∈ fresh.head?, time - e.stamp ≤ sojourn) :
    lookAt time sojourn true (old ++ fresh) = ⟨fresh, old, old.length, 0⟩ := by
  induction old with
  | nil =>
    cases fresh with
    | nil => rfl
    | cons e es => simp [lookAt, hfresh e rfl]
  | cons e es ih =>
    rw [List.cons_append, lookAt, if_pos (hold e List.mem_cons_self), ih fun x hx => hold x (List.mem_cons_of_mem _ hx)]
    rfl

/-! ### The check (R102, R103) -/

theorem wantsFrame_iff : wantsFrame s l = true ↔ look s.dist.sending l = none ∧ look s.store.down l ≠ [] := by
  simp [wantsFrame]

theorem mayTake_iff : mayTake s l = true ↔ wantsFrame s l = true ∧ look s.dist.ready l = true := by
  simp only [mayTake, wantsFrame, Bool.and_eq_true]
  tauto

/-- A transmitter that is to take no frame reads nothing. -/
theorem checkPort_idle (h : ¬ wantsFrame s l = true) : checkPort l s = s := by
  have hread : readReady l s = s := if_neg h
  rw [checkPort, hread, takeIfReady, if_neg fun htake => h (mayTake_iff.mp htake).1]

theorem readReady_eq (h : wantsFrame s l = true) : readReady l s = { s with dist := { s.dist with
    lastReady := put s.dist.lastReady l (look s.dist.ready l) } } := if_pos h

/-- A transmitter that finds LP_RDY withdrawn takes nothing (R103). -/
theorem checkPort_withdrawn (h : wantsFrame s l = true) (hready : look s.dist.ready l = false) :
    checkPort l s = { s with dist := { s.dist with lastReady := put s.dist.lastReady l false } } := by
  rw [checkPort, readReady_eq h, takeIfReady, hready]
  exact if_neg fun htake => by
    have hasserted : look s.dist.ready l = true := (mayTake_iff.mp htake).2
    rw [hready] at hasserted; cases hasserted

/-- A state in which a transmitter has found LP_RDY asserted, discarded the old heads of its queue, and taken the first fresh
frame, if there is one. -/
def portTaken (l : Line) (old fresh : List Entry) (s : State) : State :=
  { s with
    lines := alter s.lines l fun r => { r with ageDiscard := tallyBy r.ageDiscard old.length }
    store := { s.store with down := put s.store.down l (fresh.drop 1) }
    dist := { s.dist with
      sending := put s.dist.sending l fresh.head?, lastReady := put s.dist.lastReady l true } }

theorem put_put {α : Type} {n : Nat} (t : Table α n) (i : Fin n) (x y : α) : put (put t i x) i y = put t i y :=
  table_ext fun j => by
    rw [look_put, look_put, look_put]; split <;> rfl

/-- What the look of a line-port transmitter leaves: the fresh frames in the queue, and the old ones counted (R73). -/
theorem lookDown_eq {old fresh : List Entry} (hq : look s.store.down l = old ++ fresh)
    (hold : ∀ e ∈ old, s.settings.sojourn < s.time - e.stamp)
    (hfresh : ∀ e ∈ fresh.head?, s.time - e.stamp ≤ s.settings.sojourn) : ∃ u, lookDown l s = withCells { s with
      lines := alter s.lines l fun r => { r with ageDiscard := tallyBy r.ageDiscard old.length }
      store := { s.store with down := put s.store.down l fresh } } u := by
  rw [lookDown, hq, lookAt_append hold hfresh]
  exact releaseEntries_eq _ _

/-- The head taken behind a look, by an IDLE transmitter (R72, R102). -/
theorem takeDown_eq {q : List Entry} (hq : look s.store.down l = q) (hidle : look s.dist.sending l = none) :
    takeDown l s = { s with
      store := { s.store with down := put s.store.down l (q.drop 1) }
      dist := { s.dist with sending := put s.dist.sending l q.head? } } := by
  cases q with
  | nil =>
    have hdown : put s.store.down l [] = s.store.down := by rw [← hq, put_look]
    have hsending : put s.dist.sending l none = s.dist.sending := by rw [← hidle, put_look]
    simp only [takeDown, hq, List.drop_nil, List.head?_nil, hdown, hsending]
  | cons e rest =>
    simp only [takeDown, hq]
    rfl

/-- A transmitter that finds LP_RDY asserted takes the first fresh frame; beside that its check touches the cells and the
reports alone. -/
theorem checkPort_takes {old fresh : List Entry} (hq : look s.store.down l = old ++ fresh) (hsome : old ++ fresh ≠ [])
    (hidle : look s.dist.sending l = none) (hready : look s.dist.ready l = true)
    (hold : ∀ e ∈ old, s.settings.sojourn < s.time - e.stamp)
    (hfresh : ∀ e ∈ fresh.head?, s.time - e.stamp ≤ s.settings.sojourn) :
    ∃ u, checkPort l s = withCells (portTaken l old fresh s) u := by
  have hwants : wantsFrame s l = true := wantsFrame_iff.mpr ⟨hidle, by rw [hq]; exact hsome⟩
  have hread := readReady_eq hwants
  rw [hready] at hread
  obtain ⟨u, hu⟩ := lookDown_eq (l := l) (s := readReady l s) (old := old) (fresh := fresh) (by rw [hread]; exact hq)
    (by rw [hread]; exact hold) (by rw [hread]; exact hfresh)
  refine ⟨u, ?_⟩
  rw [checkPort, takeIfReady, if_pos (mayTake_iff.mpr (by rw [hread]; exact ⟨hwants, hready⟩)), hu, hread]
  rw [takeDown_eq (q := fresh) (by exact look_put_same _ _ _) (by exact hidle)]
  simp only [withCells, portTaken, put_put]

/-- The end of a line-port frame: CLOSE, its cells given up, and the next check (R103, R174). -/
theorem completeDown_eq {e : Entry} (h : look s.dist.sending l = some e) : completeDown l s =
    checkPort l (releaseChain e.cells { s with dist := { s.dist with
      sending := put s.dist.sending l none, lastEnd := put s.dist.lastEnd l (some .close) } }) := by
  simp only [completeDown, h]
  rfl

end

/-- Settles O42: each clause is a check of the port, behind LP_RDY or behind the end of the frame before, by whether a frame is
to be taken and how LP_RDY stands. -/
theorem linePortTakesTheFirstFreshFrame : Obligations.LinePortTakesTheFirstFreshFrame := by
  intro l s hrun ready finished
  have hfinished (e : Entry) : ∃ u, finished e = withCells { s with dist := { s.dist with
      sending := put s.dist.sending l none, lastEnd := put s.dist.lastEnd l (some .close) } } u := releaseChain_eq _ _
  have hidle (e : Entry) : look (finished e).dist.sending l = none := by
    obtain ⟨u, hu⟩ := hfinished e
    rw [hu]; exact look_put_same _ _ _
  refine ⟨exec_live hrun rfl, fun h => exec_live hrun (f := fun s => checkPort l (setReady l true s)) ?_,
    fun e he hempty => exec_live hrun ((completeDown_eq he).trans ?_),
    fun e he hready hsome => exec_live hrun ((completeDown_eq he).trans ?_), ?_⟩
  · refine checkPort_idle fun hwants => ?_
    obtain ⟨hnone, hq⟩ := wantsFrame_iff.mp hwants
    exact h.elim (fun hbusy => hbusy hnone) hq
  · refine checkPort_idle fun hwants => (wantsFrame_iff.mp hwants).2 ?_
    obtain ⟨u, hu⟩ := hfinished e
    change look (finished e).store.down l = []
    rw [hu]; exact hempty
  · obtain ⟨u, hu⟩ := hfinished e
    change checkPort l (finished e) = _
    rw [checkPort_withdrawn (wantsFrame_iff.mpr ⟨hidle e, by rw [hu]; exact hsome⟩) (by rw [hu]; exact hready), hu]
    rfl
  · intro old fresh hq hsome hold hfresh after
    have hage : ∀ t, (lineOf (portTaken l old fresh t) l).ageDiscard =
        min 4294967295 ((lineOf t l).ageDiscard + old.length) := fun t =>
      congrArg LineRec.ageDiscard (look_alter_same t.lines l fun r =>
        { r with ageDiscard := tallyBy r.ageDiscard old.length })
    refine ⟨fun hnone => ?_, fun e he hready => ?_⟩
    · obtain ⟨u, hu⟩ := checkPort_takes (s := ready true) hq hsome hnone (look_put_same _ _ _) hold hfresh
      refine ⟨_, exec_live hrun (f := fun s => checkPort l (setReady l true s)) hu, look_put_same _ _ _,
        look_put_same _ _ _, rfl, hage _⟩
    · obtain ⟨v, hv⟩ := hfinished e
      obtain ⟨u, hu⟩ := checkPort_takes (s := finished e) (old := old) (fresh := fresh) (by rw [hv]; exact hq) hsome
        (hidle e) (by rw [hv]; exact hready) (by rw [hv]; exact hold) (by rw [hv]; exact hfresh)
      refine ⟨_, exec_live hrun ((completeDown_eq he).trans hu), look_put_same _ _ _, look_put_same _ _ _, ?_, ?_⟩
      · rw [hv]; rfl
      · refine (hage _).trans ?_
        rw [hv]; rfl

end Sys2Proof.Machine

/-! A downstream frame on the uplink port: admission, further cells, its entry into its queues, and a line that leaves service
during its reception (R66 to R70, R100, R102). -/

namespace Sys2Proof.Machine

section
variable {l : Line} {s : State}

/-! ### Admission and further cells (R67, R68, R70) -/

theorem openDown_iff : openDown s l = true ↔ ((lineOf s l).service = .up ∨ (lineOf s l).service = .degraded) ∧
    downCells s.store l < (lineOf s l).profile.downLimit := by
  simp only [openDown, Bool.and_eq_true, inService_iff, decide_eq_true_eq]

theorem aboveReserve_iff {st : Store} : aboveReserve st = true ↔ 64 ≤ st.free.length := decide_eq_true_iff

/-- A state with a cell taken, its bytes stored, and the uplink port's reception carried on. -/
def firstStored (c : CellNo) (rest : List CellNo) (m : List Host.Cell) (r : UplinkRx) (s : State) : State :=
  { s with store := { s.store with
      free := rest, refs := put s.store.refs c 1, lowMark := min s.store.lowMark rest.length, memory := m, uplinkRx := r } }

theorem admitUplink_data {cls : FrameClass} {length : Nat} {c : CellNo} {rest : List CellNo} (b : Byte)
    (hrx : s.store.uplinkRx = .dataHeader l cls length) (hopen : openDown s l = true) (hroom : 64 ≤ s.store.free.length)
    (hfree : s.store.free = c :: rest) : admitUplink b s =
    firstStored c rest (memWrite s.store.memory (256 * c.val) b) (.data l cls length [c] 1) s := by
  simp only [admitUplink, hrx, hfree, hopen, aboveReserve_iff.mpr hroom, Bool.and_self, if_true]
  rfl

theorem admitUplink_dataRefused {cls : FrameClass} {length : Nat} (b : Byte) (hrx : s.store.uplinkRx = .dataHeader l cls length)
    (h : ¬ (openDown s l = true ∧ 64 ≤ s.store.free.length)) :
    admitUplink b s = countDrop l (setUplinkRx .discarding s) := by
  rw [← aboveReserve_iff, ← Bool.and_eq_true] at h
  cases hfree : s.store.free with
  | nil => simp only [admitUplink, hrx, hfree]
  | cons c rest => simp only [admitUplink, hrx, hfree, if_neg h]

theorem admitUplink_flood {length : Nat} {c : CellNo} {rest : List CellNo} (b : Byte)
    (hrx : s.store.uplinkRx = .floodHeader length) (hsome : floodTargets s ≠ []) (hroom : 64 ≤ s.store.free.length)
    (hfree : s.store.free = c :: rest) : admitUplink b s =
    firstStored c rest (memWrite s.store.memory (256 * c.val) b) (.flood (floodTargets s) length [c] 1) s := by
  have hgo : ¬ ((floodTargets s).isEmpty || !aboveReserve s.store) = true := by
    simp [aboveReserve_iff.mpr hroom, hsome]
  simp only [admitUplink, hrx, hfree, if_neg hgo]
  rfl

theorem admitUplink_floodRefused {length : Nat} (b : Byte) (hrx : s.store.uplinkRx = .floodHeader length)
    (h : floodTargets s = [] ∨ s.store.free.length < 64) : admitUplink b s = countFlood (setUplinkRx .discarding s) := by
  have hstop : ((floodTargets s).isEmpty || !aboveReserve s.store) = true := by
    simpa [aboveReserve_iff, Bool.eq_false_iff, Nat.not_le] using h
  cases hfree : s.store.free with
  | nil => simp only [admitUplink, hrx, hfree]
  | cons c rest => simp only [admitUplink, hrx, hfree, if_pos hstop]

theorem growUplink_data {cls : FrameClass} {length count : Nat} {c : CellNo} {cells rest : List CellNo} (bytes : List Byte)
    (hrx : s.store.uplinkRx = .data l cls length cells count) (hfree : s.store.free = c :: rest)
    (hfits : count + 256 ≤ 2048) : growUplink bytes s =
    firstStored c rest (writeFrame (cells ++ [c]) s.store.memory count bytes)
      (.data l cls length (cells ++ [c]) (count + 256)) s := by
  simp only [growUplink, hrx, hfree]
  exact if_pos hfits

theorem growUplink_flood {targets : List Line} {length count : Nat} {c : CellNo} {cells rest : List CellNo}
    (bytes : List Byte) (hrx : s.store.uplinkRx = .flood targets length cells count) (hfree : s.store.free = c :: rest)
    (hfits : count + 256 ≤ 2048) : growUplink bytes s =
    firstStored c rest (writeFrame (cells ++ [c]) s.store.memory count bytes)
      (.flood targets length (cells ++ [c]) (count + 256)) s := by
  simp only [growUplink, hrx, hfree]
  exact if_pos hfits

/-- A downstream frame that finds no free cell, or has grown past the longest frame, is dropped (R68). -/
theorem growUplink_dropData {cls : FrameClass} {length count : Nat} {cells : List CellNo} (bytes : List Byte)
    (hrx : s.store.uplinkRx = .data l cls length cells count) (h : s.store.free = [] ∨ 2048 < count + 256) :
    growUplink bytes s = releaseChain cells (countDrop l (setUplinkRx .discarding s)) := by
  cases hfree : s.store.free with
  | nil => simp only [growUplink, hrx, hfree, dropDownstream]
  | cons c rest =>
    have hlong : ¬ count + Config.cellBytes ≤ Config.maxFrame :=
      Nat.not_le.mpr (h.resolve_left (hfree ▸ List.cons_ne_nil c rest))
    simp only [growUplink, hrx, hfree, if_neg hlong, dropDownstream]

theorem growUplink_dropFlood {targets : List Line} {length count : Nat} {cells : List CellNo} (bytes : List Byte)
    (hrx : s.store.uplinkRx = .flood targets length cells count) (h : s.store.free = [] ∨ 2048 < count + 256) :
    growUplink bytes s = releaseChain cells (countFlood (setUplinkRx .discarding s)) := by
  cases hfree : s.store.free with
  | nil => simp only [growUplink, hrx, hfree, dropDownstream]
  | cons c rest =>
    have hlong : ¬ count + Config.cellBytes ≤ Config.maxFrame :=
      Nat.not_le.mpr (h.resolve_left (hfree ▸ List.cons_ne_nil c rest))
    simp only [growUplink, hrx, hfree, if_neg hlong, dropDownstream]

/-! ### The end (R69, R70, R100) -/

theorem endsGood_iff {n length : Nat} : endsGood n length = true ↔ n = length ∧ 64 ≤ length := by
  simp only [endsGood, Bool.and_eq_true, decide_eq_true_eq]
  exact and_congr_right fun h => by rw [h]; rfl

/-- The end of a downstream frame that is not an MGMT frame goes to the uplink port. -/
theorem takeFrameEnd_uplink {rest : List Byte} (hshort : rest.length ≤ 255)
    (hrx : ∀ length kept received, s.store.uplinkRx ≠ .request length kept received) :
    takeFrameEnd .uplink rest s = endUplink rest s := by
  unfold takeFrameEnd; split
  · next h => exact absurd h (hrx _ _ _)
  · rw [endFrame, List.take_of_length_le hshort]

/-- A state whose uplink reception has ended with a frame in the queues of its targets. -/
def frameEntered (targets : List Line) (e : Entry) (rest : List Byte) (count : Nat) (s : State) : State :=
  setUplinkRx .idle (setStore (fun st => enterDown targets e (storeMore e.cells count rest st)) s)

theorem endUplink_data {cls : FrameClass} {length count : Nat} {cells : List CellNo} {rest : List Byte}
    (hrx : s.store.uplinkRx = .data l cls length cells count) (hlength : count + rest.length = length) (h64 : 64 ≤ length) :
    endUplink rest s =
      checkPort l (frameEntered [l] ⟨cells, count + rest.length, s.time, cls, false⟩ rest count s) := by
  simp only [endUplink, hrx]
  exact if_pos (endsGood_iff.mpr ⟨hlength, h64⟩)

theorem endUplink_flood {targets : List Line} {length count : Nat} {cells : List CellNo} {rest : List Byte}
    (hrx : s.store.uplinkRx = .flood targets length cells count) (hlength : count + rest.length = length)
    (h64 : 64 ≤ length) : endUplink rest s = targets.foldl (fun s l => checkPort l s)
      (frameEntered targets ⟨cells, count + rest.length, s.time, .normal, false⟩ rest count s) := by
  simp only [endUplink, hrx]
  exact if_pos (endsGood_iff.mpr ⟨hlength, h64⟩)

theorem endsGood_of_bad {n length : Nat} (h : n ≠ length ∨ length < 64) : ¬ endsGood n length = true := fun hgood => by
  obtain ⟨heq, h64⟩ := endsGood_iff.mp hgood
  omega

/-- A downstream frame of another length than its header's, or shorter than the least frame, is dropped (R69, R100). -/
theorem endUplink_dropData {cls : FrameClass} {cells : List CellNo} {length count : Nat} {rest : List Byte}
    (hrx : s.store.uplinkRx = .data l cls length cells count) (h : count + rest.length ≠ length ∨ length < 64) :
    endUplink rest s = releaseChain cells (countDrop l (setUplinkRx .idle s)) := by
  simp only [endUplink, hrx, if_neg (endsGood_of_bad h), dropDownstream]

theorem endUplink_dropFlood {targets : List Line} {cells : List CellNo} {length count : Nat} {rest : List Byte}
    (hrx : s.store.uplinkRx = .flood targets length cells count) (h : count + rest.length ≠ length ∨ length < 64) :
    endUplink rest s = releaseChain cells (countFlood (setUplinkRx .idle s)) := by
  simp only [endUplink, hrx, if_neg (endsGood_of_bad h), dropDownstream]

/-- A frame enters behind the last HIGH frame when it is HIGH, and at the tail when it is NORMAL (R66). -/
theorem placeDown_eq (q : List Entry) (e : Entry) : placeDown q e = match e.cls with
    | .normal => q ++ [e]
    | .high => q.takeWhile (fun x => x.cls = .high) ++ e :: q.dropWhile (fun x => x.cls = .high) := by
  have hhigh : isHigh = fun x => decide (x.cls = .high) := funext fun x => by
    unfold isHigh; cases x.cls <;> rfl
  unfold placeDown
  cases hcls : e.cls with
  | normal => simp [isHigh, hcls]
  | high => rw [if_pos (by simp [isHigh, hcls]), hhigh]

theorem placeDown_ne_nil (q : List Entry) (e : Entry) : placeDown q e ≠ [] := by
  unfold placeDown; split <;> simp

theorem look_placed {targets : List Line} (hnodup : targets.Nodup) (e : Entry) (d : Table (List Entry) 12) (k : Line) :
    look (targets.foldl (fun d l => alter d l fun q => placeDown q e) d) k =
      if k ∈ targets then placeDown (look d k) e else look d k := by
  induction targets generalizing d with
  | nil => simp
  | cons l ls ih =>
    obtain ⟨hl, hls⟩ := List.nodup_cons.mp hnodup
    rw [List.foldl_cons, ih hls, look_alter]
    by_cases hk : l = k
    · subst hk; simp [hl]
    · simp [hk, Ne.symm hk]

/-- One more holder of a chain without repetitions raises each of its counts by one. -/
theorem look_holderAdded {cells : List CellNo} (hnodup : cells.Nodup) (t : Table Nat 2048) (c : CellNo) :
    look (cells.foldl (fun t c => alter t c (· + 1)) t) c = if c ∈ cells then look t c + 1 else look t c := by
  induction cells generalizing t with
  | nil => simp
  | cons d ds ih =>
    obtain ⟨hd, hds⟩ := List.nodup_cons.mp hnodup
    rw [List.foldl_cons, ih hds, look_alter]
    by_cases hc : d = c
    · subst hc; simp [hd]
    · simp [hc, Ne.symm hc]

theorem look_holdersAdded {cells : List CellNo} (hnodup : cells.Nodup) (ls : List Line) (t : Table Nat 2048) (c : CellNo) :
    look (ls.foldl (fun t _ => cells.foldl (fun t c => alter t c (· + 1)) t) t) c =
      if c ∈ cells then look t c + ls.length else look t c := by
  induction ls generalizing t with
  | nil => simp
  | cons l ls ih =>
    rw [List.foldl_cons, ih, look_holderAdded hnodup]
    split
    · rw [List.length_cons]; omega
    · rfl

/-- A frame's entry into its queues, as an equation of states. -/
theorem frameEntered_eq (targets : List Line) (e : Entry) (rest : List Byte) (count : Nat) (s : State) :
    frameEntered targets e rest count s = { s with store := { s.store with
      uplinkRx := .idle, memory := writeFrame e.cells s.store.memory count rest
      refs := (targets.drop 1).foldl (fun t _ => e.cells.foldl (fun t c => alter t c (· + 1)) t) s.store.refs
      down := targets.foldl (fun d l => alter d l fun q => placeDown q e) s.store.down } } := by
  simp only [frameEntered, setUplinkRx, setStore, enterDown, addHolders_eq, storeMore]

end

/-! ### The checks of the ports behind a flood (R102, R103) -/

section
variable {s : State}

/-- Ports that all find LP_RDY withdrawn: those that are IDLE read it, and nothing else changes. -/
theorem checkPorts_withdrawn (ls : List Line) (hready : ∀ l, look s.dist.ready l = false)
    (hsome : ∀ l ∈ ls, look s.store.down l ≠ []) :
    ∃ last, ls.foldl (fun s l => checkPort l s) s = { s with dist := { s.dist with lastReady := last } } ∧
      ∀ k, look last k = if k ∈ ls ∧ look s.dist.sending k = none then false else look s.dist.lastReady k := by
  induction ls generalizing s with
  | nil => exact ⟨s.dist.lastReady, rfl, by simp⟩
  | cons l ls ih =>
    rw [List.foldl_cons]
    by_cases hidle : look s.dist.sending l = none
    · rw [checkPort_withdrawn (wantsFrame_iff.mpr ⟨hidle, hsome l List.mem_cons_self⟩) (hready l)]
      obtain ⟨last, hfold, hlast⟩ := ih (s := { s with dist := { s.dist with
        lastReady := put s.dist.lastReady l false } }) hready fun k hk => hsome k (List.mem_cons_of_mem _ hk)
      refine ⟨last, hfold, fun k => ?_⟩
      rw [hlast, look_put]
      by_cases hk : l = k
      · subst hk; simp [hidle]
      · simp [hk, Ne.symm hk]
    · rw [checkPort_idle fun hwants => hidle (wantsFrame_iff.mp hwants).1]
      obtain ⟨last, hfold, hlast⟩ := ih hready fun k hk => hsome k (List.mem_cons_of_mem _ hk)
      refine ⟨last, hfold, fun k => ?_⟩
      rw [hlast]
      by_cases hk : k = l
      · subst hk; simp [hidle]
      · simp [hk]

/-- What a line-port transmitter works on: its frame, its queue, LP_RDY, and LP_RDY as last read. -/
structure PortView where
  sending : Option Entry
  queue : List Entry
  ready : Bool
  lastReady : Bool

def portOf (s : State) (l : Line) : PortView :=
  ⟨look s.dist.sending l, look s.store.down l, look s.dist.ready l, look s.dist.lastReady l⟩

/-- A port that an entry has come to, checked: an IDLE transmitter reads LP_RDY, and takes the entry if it is asserted. -/
def PortView.checked (e : Entry) (p : PortView) : PortView :=
  if p.sending = none then
    if p.ready then { p with sending := some e, queue := [], lastReady := true } else { p with lastReady := false }
  else p

/-- A port that takes an entry it has just been given finds it alone in its queue. -/
def Enterable (e : Entry) (p : PortView) : Prop :=
  p.queue ≠ [] ∧ (p.ready = true → p.sending = none → p.queue = [e])

theorem PortView.checked_sending (e : Entry) (p : PortView) : (p.checked e).sending =
    if p.ready = true ∧ p.sending = none then some e else p.sending := by
  unfold checked; split
  · next hidle => cases hready : p.ready <;> simp [hidle]
  · next hbusy => simp [hbusy]

theorem PortView.checked_queue (e : Entry) (p : PortView) : (p.checked e).queue =
    if p.ready = true ∧ p.sending = none then [] else p.queue := by
  unfold checked; split
  · next hidle => cases hready : p.ready <;> simp [hidle]
  · next hbusy => simp [hbusy]

theorem PortView.checked_lastReady (e : Entry) (p : PortView) : (p.checked e).lastReady =
    if p.sending = none then p.ready else p.lastReady := by
  unfold checked; split
  · cases hready : p.ready <;> rfl
  · rfl

/-- The check of a port that an entry has just come to: it concerns the port alone. -/
theorem checkPort_view {e : Entry} {l : Line} (hstamp : e.stamp = s.time) (h : Enterable e (portOf s l)) :
    (∀ k, portOf (checkPort l s) k = if k = l then (portOf s k).checked e else portOf s k) ∧
    (checkPort l s).time = s.time ∧ (checkPort l s).store.uplinkRx = s.store.uplinkRx := by
  obtain ⟨hsome, halone⟩ := h
  by_cases hidle : look s.dist.sending l = none
  · cases hready : look s.dist.ready l with
    | false =>
      rw [checkPort_withdrawn (wantsFrame_iff.mpr ⟨hidle, hsome⟩) hready]
      refine ⟨fun k => ?_, rfl, rfl⟩
      split
      · next hk =>
        subst hk
        simp [portOf, PortView.checked, hidle, hready]
      · next hk => simp [portOf, look_put, Ne.symm hk]
    | true =>
      obtain ⟨u, hu⟩ := checkPort_takes (s := s) (l := l) (old := []) (fresh := [e]) (halone hready hidle) (by simp) hidle
        hready (by simp) (by simp [hstamp])
      rw [hu]
      refine ⟨fun k => ?_, rfl, rfl⟩
      split
      · next hk =>
        subst hk
        simp [portOf, withCells, portTaken, PortView.checked, hidle, hready]
      · next hk => simp [portOf, withCells, portTaken, look_put, Ne.symm hk]
  · rw [checkPort_idle fun hwants => hidle (wantsFrame_iff.mp hwants).1]
    refine ⟨fun k => ?_, rfl, rfl⟩
    split
    · next hk =>
      subst hk
      exact (if_neg hidle).symm
    · rfl

/-- The checks of several ports that an entry has just come to. -/
theorem checkPorts_view {e : Entry} {ls : List Line} (hnodup : ls.Nodup) (hstamp : e.stamp = s.time)
    (h : ∀ l ∈ ls, Enterable e (portOf s l)) :
    (∀ k, portOf (ls.foldl (fun s l => checkPort l s) s) k =
      if k ∈ ls then (portOf s k).checked e else portOf s k) ∧
    (ls.foldl (fun s l => checkPort l s) s).store.uplinkRx = s.store.uplinkRx := by
  induction ls generalizing s with
  | nil => simp
  | cons l ls ih =>
    obtain ⟨hl, hls⟩ := List.nodup_cons.mp hnodup
    obtain ⟨hport, htime, hrx⟩ := checkPort_view hstamp (h l List.mem_cons_self)
    have hothers : ∀ k ∈ ls, portOf (checkPort l s) k = portOf s k := fun k hk => by
      have hne : k ≠ l := fun heq => hl (heq ▸ hk)
      rw [hport, if_neg hne]
    obtain ⟨hfold, hfoldRx⟩ := ih (s := checkPort l s) hls (hstamp.trans htime.symm) fun k hk => by
      rw [hothers k hk]; exact h k (List.mem_cons_of_mem _ hk)
    refine ⟨fun k => ?_, hfoldRx.trans hrx⟩
    rw [List.foldl_cons, hfold]
    by_cases hk : k ∈ ls
    · rw [if_pos hk, if_pos (List.mem_cons_of_mem _ hk), hothers k hk]
    · simp only [hport, List.mem_cons, hk, if_false, or_false]

end

/-! ### The checks behind a frame's entry (R69, R70, R102) -/

section
variable {l : Line} {targets : List Line} {e : Entry} {rest : List Byte} {count : Nat} {s : State}

theorem look_frameEntered (hnodup : targets.Nodup) (k : Line) : look (frameEntered targets e rest count s).store.down k =
    if k ∈ targets then placeDown (look s.store.down k) e else look s.store.down k := by
  rw [frameEntered_eq]; exact look_placed hnodup e s.store.down k

theorem look_frameEntered_line : look (frameEntered [l] e rest count s).store.down l = placeDown (look s.store.down l) e :=
  (look_frameEntered (List.nodup_singleton l) l).trans (if_pos List.mem_cons_self)

/-- A DATA frame whose transmitter is not ready for it stands in its queue (R103, R104). -/
theorem checkPort_frameEntered_waits (hwait : look s.dist.ready l = false ∨ look s.dist.sending l ≠ none) :
    checkPort l (frameEntered [l] e rest count s) = { frameEntered [l] e rest count s with
      dist := if look s.dist.sending l = none then { s.dist with lastReady := put s.dist.lastReady l false }
        else s.dist } := by
  split
  · next hidle =>
    refine checkPort_withdrawn (wantsFrame_iff.mpr ⟨hidle, ?_⟩) (hwait.resolve_right (not_not.mpr hidle))
    rw [look_frameEntered_line]; exact placeDown_ne_nil _ _
  · next hbusy => exact checkPort_idle fun hwants => hbusy (wantsFrame_iff.mp hwants).1

/-- A DATA frame that finds its queue empty is taken by a transmitter that waits with LP_RDY asserted (R103). -/
theorem checkPort_frameEntered_takes (hstamp : e.stamp = s.time) (hready : look s.dist.ready l = true)
    (hidle : look s.dist.sending l = none) (hempty : look s.store.down l = []) :
    ∃ u, checkPort l (frameEntered [l] e rest count s) = withCells (portTaken l [] [e] (frameEntered [l] e rest count s)) u := by
  refine checkPort_takes ?_ (by simp) hidle hready (by simp) ?_
  · rw [look_frameEntered_line, hempty, placeDown]; split <;> rfl
  · rintro x ⟨⟩
    rw [hstamp]; exact (Nat.sub_self s.time).trans_le (Nat.zero_le _)

/-- A FLOOD frame is taken at once by each of its ports that waits with LP_RDY asserted, and stands in the queues of the
others. -/
theorem checkPorts_frameEntered (hnodup : targets.Nodup) (hcls : e.cls = .normal) (hstamp : e.stamp = s.time)
    (hempty : ∀ l ∈ targets, look s.dist.ready l = true → look s.dist.sending l = none → look s.store.down l = [])
    {t : State} (ht : targets.foldl (fun s l => checkPort l s) (frameEntered targets e rest count s) = t) :
    t.store.uplinkRx = .idle ∧ ∀ k, portOf t k =
      if k ∈ targets then PortView.checked e { portOf s k with queue := look s.store.down k ++ [e] } else portOf s k := by
  have hplaced (q : List Entry) : placeDown q e = q ++ [e] := by rw [placeDown_eq, hcls]
  have hentered (k : Line) : portOf (frameEntered targets e rest count s) k =
      if k ∈ targets then { portOf s k with queue := look s.store.down k ++ [e] } else portOf s k := by
    rw [portOf, look_frameEntered hnodup, hplaced]
    split <;> rfl
  obtain ⟨hports, hrx⟩ := checkPorts_view (s := frameEntered targets e rest count s) hnodup hstamp fun l hl => by
    rw [hentered, if_pos hl]
    refine ⟨by simp, fun hready hidle => ?_⟩
    have hq : look s.store.down l = [] := hempty l hl hready hidle
    rw [hq]; rfl
  rw [ht] at hports hrx
  refine ⟨hrx, fun k => ?_⟩
  rw [hports, hentered]
  split <;> rfl

end

/-! ### A line that leaves service during a reception (R9, R14, R70) -/

section
variable {l : Line} {s t : State}

/-- What the reception on the uplink port is judged by: its state, the line's drops and the flood drops. -/
def dropsOf (l : Line) (s : State) : UplinkRx × Nat × Nat :=
  (s.store.uplinkRx, (lineOf s l).admissionDrop, s.store.floodDrop)

theorem dropsOf_withCells (s u : State) : dropsOf l (withCells s u) = dropsOf l s := rfl

theorem dropsOf_releaseChain (cells : List CellNo) (s : State) : dropsOf l (releaseChain cells s) = dropsOf l s := by
  obtain ⟨u, hu⟩ := releaseChain_eq cells s
  rw [hu, dropsOf_withCells]

theorem dropsOf_countDrop (s : State) : dropsOf l (countDrop l s) =
    (s.store.uplinkRx, min 4294967295 ((lineOf s l).admissionDrop + 1), s.store.floodDrop) := by
  simp only [dropsOf, countDrop, lineOf_setLine_same]
  rfl

/-- A change of a line's record that keeps its drops. -/
theorem dropsOf_setLine (f : LineRec → LineRec) (hf : ∀ r, (f r).admissionDrop = r.admissionDrop) (s : State) :
    dropsOf l (setLine l f s) = dropsOf l s := by
  simp only [dropsOf, lineOf_setLine_same, hf]
  rfl

theorem dropsOf_flushLine (s : State) : dropsOf l (flushLine l s) = dropsOf l s := by
  obtain ⟨u, hu⟩ := releaseEntries_eq (look s.store.up l ++ look s.store.down l)
    (setLine l (fun x => { x with flush := tallyBy x.flush (look s.store.up l ++ look s.store.down l).length })
      (setStore (fun st => { st with up := put st.up l [], down := put st.down l [] }) s))
  rw [flushLine, hu, dropsOf_withCells]
  exact dropsOf_setLine _ (by exact fun _ => rfl) _

theorem dropsOf_abandonFrame (s : State) : dropsOf l (abandonFrame l s) = dropsOf l s := by
  unfold abandonFrame; split
  · rw [dropsOf_releaseChain]
    exact dropsOf_setLine _ (by exact fun _ => rfl) _
  · rfl

theorem dropsOf_stopLine (s : State) : dropsOf l (stopLine l s) = dropsOf l s := by
  obtain ⟨sc, hsc, -⟩ := stopLine_eq l s
  rw [hsc]; rfl

/-- A line without a frame in reception leaves service: the reception on the uplink port fares as its drop for the line says. -/
theorem dropsOf_leaveService (hrx : ∀ cells count, look s.store.lineRx l ≠ .receiving cells count) :
    dropsOf l (leaveService l s) = dropsOf l (dropUplinkRx l (flushLine l s)) := by
  have hstands : dropLineRx l (flushLine l s) = flushLine l s := by
    have hlineRx : look (flushLine l s).store.lineRx l = look s.store.lineRx l := by
      obtain ⟨u, hu⟩ := releaseEntries_eq (look s.store.up l ++ look s.store.down l)
        (setLine l (fun x => { x with flush := tallyBy x.flush (look s.store.up l ++ look s.store.down l).length })
          (setStore (fun st => { st with up := put st.up l [], down := put st.down l [] }) s))
      rw [flushLine, hu]; rfl
    unfold dropLineRx; split
    · next cells count h => exact absurd (hlineRx.symm.trans h) (hrx cells count)
    · rfl
  rw [leaveService, dropsOf_setLine, dropsOf_stopLine, dropsOf_abandonFrame, hstands]
  exact fun _ => rfl

/-- So it does in the state that the derivation leaves, its report included (R7, R12). -/
theorem dropsOf_rederive (hold : inService (lineOf s l).service = true) (hnew : inService (deriveService (lineOf s l)) = false)
    (hrx : ∀ cells count, look s.store.lineRx l ≠ .receiving cells count) :
    ∃ t, dropsOf l t = dropsOf l s ∧ dropsOf l (rederive l s) = dropsOf l (dropUplinkRx l t) := by
  refine ⟨flushLine l (setLine l (fun x => { x with service := deriveService (lineOf s l) }) s), ?_, ?_⟩
  · rw [dropsOf_flushLine]
    exact dropsOf_setLine _ (by exact fun _ => rfl) _
  · obtain ⟨u, hu⟩ := rederive_eq_withCells (ne_of_leaving hold hnew)
    rw [hu, dropsOf_withCells, rederived, serviceEffects_leaving _ _ hold hnew, ← dropsOf_leaveService (by exact hrx)]
    split <;> rfl

/-- A DATA frame in reception for the line is dropped, and counted for it (R14, R68). -/
theorem dropsOf_dropUplinkRx_data {cls : FrameClass} {length count : Nat} {cells : List CellNo}
    (hrx : t.store.uplinkRx = .data l cls length cells count) : dropsOf l (dropUplinkRx l t) =
      (.discarding, min 4294967295 ((lineOf t l).admissionDrop + 1), t.store.floodDrop) := by
  simp only [dropUplinkRx, hrx, if_true, dropsOf_releaseChain, dropsOf_countDrop]
  rfl

/-- A FLOOD frame in reception loses the line, which is counted for it, and is dropped with its last target (R70). -/
theorem dropsOf_dropUplinkRx_flood {targets : List Line} {length count : Nat} {cells : List CellNo}
    (hrx : t.store.uplinkRx = .flood targets length cells count) (hl : l ∈ targets) : dropsOf l (dropUplinkRx l t) =
      if targets.filter (· ≠ l) = [] then
        (.discarding, min 4294967295 ((lineOf t l).admissionDrop + 1), min 4294967295 (t.store.floodDrop + 1))
      else (.flood (targets.filter (· ≠ l)) length cells count, min 4294967295 ((lineOf t l).admissionDrop + 1),
        t.store.floodDrop) := by
  have hcount (r : UplinkRx) : dropsOf l (countDrop l (setStore (fun st => { st with uplinkRx := r }) t)) =
      (r, min 4294967295 ((lineOf t l).admissionDrop + 1), t.store.floodDrop) := dropsOf_countDrop _
  simp only [dropUplinkRx, hrx, if_pos hl, List.isEmpty_iff]
  split
  · rw [dropsOf_releaseChain]
    have h := hcount .discarding
    simp only [dropsOf, Prod.mk.injEq] at h ⊢
    obtain ⟨hdiscards, hdrop, hflood⟩ := h
    exact ⟨hdiscards, hdrop, congrArg tally hflood⟩
  · exact hcount _

end

/-- Settles O40: admission, growth and end each by its equation for the case at hand; behind the entry into the queues the
checks of the ports, each of which concerns its own port alone; and a line that leaves service by what becomes of the reception
when it is dropped for the line. -/
theorem downstreamFrameIsAdmittedGrownAndQueued : Obligations.DownstreamFrameIsAdmittedGrownAndQueued := by
  refine ⟨fun s hrun => ?_, fun rest s hrun hshort => ?_, fun l s hold hnew hlineRx => ?_⟩
  · intro st takes isOpen dropped lost
    have hopen (l : Line) : openDown s l = true ↔ isOpen l := openDown_iff
    have htargets : floodTargets s = (indices 12).filter fun l => isOpen l :=
      List.filter_congr fun l _ => by rw [Bool.eq_iff_iff, hopen, decide_eq_true_iff]
    refine ⟨fun b l cls length hrx => ⟨fun c rest hl hroom hfree => ?_, fun hno => ?_⟩,
      fun b length hrx => ⟨fun c rest targets ht hsome hroom hfree => ?_, fun hno => ?_⟩,
      fun bytes l cls length cells count hrx => ⟨fun c rest hfree hfits => ?_, fun hno => ?_⟩,
      fun bytes targets length cells count hrx => ⟨fun c rest hfree hfits => ?_, fun hno => ?_⟩⟩
    · exact exec_live hrun (admitUplink_data b hrx ((hopen l).mpr hl) hroom hfree)
    · refine exec_live hrun (admitUplink_dataRefused b hrx fun hyes => ?_)
      exact hno.elim (fun h => h ((hopen l).mp hyes.1)) (Nat.not_lt.mpr hyes.2)
    · rw [ht, ← htargets] at hsome ⊢
      exact exec_live hrun (admitUplink_flood b hrx hsome hroom hfree)
    · refine exec_live hrun (admitUplink_floodRefused b hrx (hno.imp_left fun hnone => ?_))
      exact List.filter_eq_nil_iff.mpr fun l _ hl => hnone l ((hopen l).mp hl)
    · exact exec_live hrun (growUplink_data bytes.toList hrx hfree hfits)
    · exact exec_live hrun (growUplink_dropData bytes.toList hrx hno)
    · exact exec_live hrun (growUplink_flood bytes.toList hrx hfree hfits)
    · exact exec_live hrun (growUplink_dropFlood bytes.toList hrx hno)
  · intro st
    refine ⟨fun l cls length cells count hrx => ?_, fun targets length cells count hrx => ?_⟩
    · intro e q placed stored
      have hend : takeFrameEnd .uplink rest s = endUplink rest s :=
        takeFrameEnd_uplink hshort (by intro _ _ _ h; rw [hrx] at h; cases h)
      have hentered : frameEntered [l] e rest count s =
          { s with store := { stored with down := put st.down l placed } } := by
        rw [frameEntered_eq, show placed = placeDown q e from (placeDown_eq q e).symm]; rfl
      refine ⟨fun hlength h64 => ⟨fun hwait => ?_, fun hready hidle hempty => ?_⟩, fun hbad => ?_⟩
      · refine exec_live hrun ((hend.trans (endUplink_data hrx hlength h64)).trans ?_)
        rw [checkPort_frameEntered_waits hwait, hentered]
      · obtain ⟨u, hu⟩ := checkPort_frameEntered_takes (e := e) (rest := rest) (count := count) rfl hready hidle hempty
        have hstands := undisturbed_settle (withCells (portTaken l [] [e] (frameEntered [l] e rest count s)) u)
        refine ⟨_, exec_live hrun ((hend.trans (endUplink_data hrx hlength h64)).trans hu), ?_⟩
        rw [hentered] at hstands ⊢
        refine ⟨hstands.dist, hstands.down.trans ?_, hstands.uplinkRx⟩
        exact (put_put _ _ _ _).trans (hempty ▸ put_look _ _)
      · exact exec_live hrun (hend.trans (endUplink_dropData hrx hbad))
    · intro e
      have hend : takeFrameEnd .uplink rest s = endUplink rest s :=
        takeFrameEnd_uplink hshort (by intro _ _ _ h; rw [hrx] at h; cases h)
      have hdown (hnodup : targets.Nodup) (k : Line) : look (frameEntered targets e rest count s).store.down k =
          if k ∈ targets then look st.down k ++ [e] else look st.down k := by
        rw [look_frameEntered hnodup, placeDown_eq]
      refine ⟨fun hlength h64 hnodup hcells hsome hready => ?_, fun hlength h64 hnodup hsome halone => ?_, fun hbad => ?_⟩
      · obtain ⟨last, hchecks, hlast⟩ := checkPorts_withdrawn (s := frameEntered targets e rest count s) targets hready
          fun l hl => by rw [hdown hnodup, if_pos hl]; simp
        refine ⟨_, exec_live hrun ((hend.trans (endUplink_flood hrx hlength h64)).trans hchecks), hdown hnodup,
          fun c => ?_, hlast, by rw [frameEntered_eq]⟩
        rw [frameEntered_eq]
        refine (look_holdersAdded hcells (targets.drop 1) st.refs c).trans ?_
        rw [List.length_drop, Nat.add_sub_assoc (List.length_pos_iff.mpr hsome)]
      · refine ⟨_, exec_live hrun (hend.trans (endUplink_flood hrx hlength h64)), ?_⟩
        obtain ⟨hidleRx, hports⟩ := checkPorts_frameEntered (e := e) hnodup rfl rfl halone rfl
        refine ⟨hidleRx, fun k => ?_⟩
        have hsending := congrArg PortView.sending (hports k)
        have hqueue := congrArg PortView.queue (hports k)
        have hlast := congrArg PortView.lastReady (hports k)
        by_cases hk : k ∈ targets
        · rw [if_pos hk, PortView.checked_sending] at hsending
          rw [if_pos hk, PortView.checked_queue] at hqueue
          rw [if_pos hk, PortView.checked_lastReady] at hlast
          simp only [hk, true_and]
          refine ⟨hsending, ?_, hlast⟩
          by_cases htakes : look s.dist.ready k = true ∧ look s.dist.sending k = none
          · rw [if_neg (not_not.mpr htakes), halone k hk htakes.1 htakes.2]
            exact hqueue.trans (if_pos htakes)
          · rw [if_pos htakes]
            exact hqueue.trans (if_neg htakes)
        · rw [if_neg hk] at hsending hqueue hlast
          simp only [hk, false_and, if_false]
          exact ⟨hsending, hqueue, hlast⟩
      · exact exec_live hrun (hend.trans (endUplink_dropFlood hrx hbad))
  · intro t
    obtain ⟨u, hu, ht⟩ := dropsOf_rederive hold hnew hlineRx
    simp only [dropsOf, Prod.mk.injEq] at hu
    obtain ⟨hrxu, hdrop, hflood⟩ := hu
    refine ⟨fun cls length cells count hrx => ?_, fun targets length cells count hrx hl => ?_⟩
    · rw [dropsOf_dropUplinkRx_data (hrxu.trans hrx), hdrop] at ht
      exact ⟨congrArg (·.1) ht, congrArg (·.2.1) ht⟩
    · intro left
      rw [dropsOf_dropUplinkRx_flood (hrxu.trans hrx) hl, hdrop, hflood] at ht
      by_cases hleft : left = []
      · rw [if_pos hleft] at ht
        exact ⟨congrArg (·.2.1) ht, fun h => absurd hleft h, fun _ => ⟨congrArg (·.1) ht, congrArg (·.2.2) ht⟩⟩
      · rw [if_neg hleft] at ht
        exact ⟨congrArg (·.2.1) ht, fun _ => ⟨congrArg (·.1) ht, congrArg (·.2.2) ht⟩, fun h => absurd h hleft⟩

end Sys2Proof.Machine

/-! The pace of a counter, and the depth of the station bucket (R78, R82). -/

namespace Sys2Proof.Machine

/-! ### The pace of a counter (R78) -/

/-- One less than the ceiling of a quotient is a floor. -/
theorem ceilDiv_sub_one {a b : Nat} (ha : 0 < a) (hb : 0 < b) : ceilDiv a b - 1 = (a - 1) / b := by
  rw [ceilDiv, Nat.sub_add_comm ha, Nat.add_div_right _ hb, Nat.succ_sub_one]

theorem paceOf_fast {rate : Nat} (h : 16 ≤ rate) : paceOf rate = (.fast, 1023999 / rate) := by
  rw [paceOf, if_pos h, ceilDiv_sub_one (by decide) (by omega)]

theorem paceOf_slow {rate : Nat} (hpos : 0 < rate) (h : rate < 16) : paceOf rate = (.slow, 15999 / rate) := by
  rw [paceOf, if_neg (by omega), ceilDiv_sub_one (by decide) hpos]

/-- The floor of a quotient is the least `n` whose `n + 1` multiples of the divisor pass the dividend. -/
theorem floor_least (a : Nat) {b : Nat} (hb : 0 < b) : a + 1 ≤ b * (a / b + 1) ∧ b * (a / b) < a + 1 :=
  ⟨Nat.lt_mul_div_succ a hb, Nat.lt_succ_of_le (Nat.mul_div_le a b)⟩

/-- Settles O44: on either clock the reload value is a floor, which is the least by `floor_least`. -/
theorem achievedRateNeverExceedsTheRateAskedFor : Obligations.AchievedRateNeverExceedsTheRateAskedFor := by
  intro rate hpos hmax n
  rcases Nat.lt_or_ge rate 16 with hslow | hfast
  · have hn : n = 15999 / rate := congrArg Prod.snd (paceOf_slow hpos hslow)
    have hfits : n ≤ 15999 := hn ▸ Nat.div_le_self ..
    rw [paceOf_slow hpos hslow, if_neg (by omega), hn]
    exact ⟨by omega, rfl, fun h => by omega, fun _ => floor_least 15999 hpos⟩
  · have hn : n = 1023999 / rate := congrArg Prod.snd (paceOf_fast hfast)
    have hfits : n ≤ 1023999 / 16 := hn ▸ Nat.div_le_div_left hfast (by decide)
    obtain ⟨hreaches, hbelow⟩ := floor_least 1023999 hpos
    rw [paceOf_fast hfast, if_pos hfast, hn]
    exact ⟨hn ▸ hfits, rfl, fun _ => ⟨hreaches, hbelow, fun h => Nat.div_eq_of_lt_le (by omega) (by omega)⟩,
      fun h => by omega⟩

/-! ### The depth of the station bucket (R82) -/

/-- Settles O43: the depth by its clamps, the level as the lower of the two, and the counter as one that is given a rate. -/
theorem stationBucketDepthFollowsTheAllowance : Obligations.StationBucketDepthFollowsTheAllowance := by
  intro a sc t
  have hdepth : t.stationDepth = min 65535 (max 4096 (a * 10 / 8)) := rfl
  have hlevel : t.stationLevel = min sc.stationLevel t.stationDepth := rfl
  have hcounter : t.stationCounter = giveRate a sc.stationCounter := rfl
  refine ⟨hdepth, fun hcut => hlevel.trans (min_eq_right hcut.le), fun hkept => hlevel.trans (min_eq_left hkept),
    fun hlow => ?_, fun hhigh => ?_, fun hworked => ?_, fun hrun => ?_, fun hkept => ?_, fun s hchange => ?_⟩
  · omega
  · omega
  · omega
  · rw [hcounter, giveRate_running hrun]
    exact ⟨rfl, rfl, rfl⟩
  · rw [hlevel, min_eq_left hkept, refill_of_le hkept]
  · rw [changeAllowance_eq, if_neg hchange]

end Sys2Proof.Machine

/-! The search of the round (R84, R85, R89). -/

namespace Sys2Proof.Machine

section
variable {s : State}

theorem ready_iff (e : RoundEntry) : ready s e = true ↔ queueOf s e ≠ [] ∧ 0 < look s.sched.levels e := by
  simp [ready]

/-- The search finds the first entry of the round, from the pointer on, that passes its test (R85). -/
theorem find_roundFrom (p : RoundEntry) {test : RoundEntry → Bool} {k : Nat} (hk : k < 13)
    (hpasses : test (p + Fin.ofNat 13 k) = true) (hfirst : ∀ j < k, ¬ test (p + Fin.ofNat 13 j) = true) :
    (roundFrom p).find? test = some (p + Fin.ofNat 13 k) := by
  have hfind : (List.range 13).find? (test ∘ fun j => p + Fin.ofNat 13 j) = some k := by
    rw [List.find?_range_eq_some]
    exact ⟨hpasses, List.mem_range.mpr hk, fun j hj => by simpa using hfirst j hj⟩
  rw [roundFrom, List.find?_map, hfind, Option.map_some]

theorem searchUpTo_busy (n : Nat) (h : s.sched.turn ≠ .idle) : searchUpTo n s = s := by
  cases n with
  | zero => rfl
  | succ n => exact if_neg h

theorem searchUpTo_none (n : Nat) (h : ∀ e, ¬ ready s e = true) : searchUpTo n s = s := by
  cases n with
  | zero => rfl
  | succ n =>
    have hnone : (roundFrom s.sched.pointer).find? (ready s) = none := List.find?_eq_none.mpr fun e _ => h e
    simp only [searchUpTo, hnone, ite_self]

theorem searchUpTo_found {e : RoundEntry} (n : Nat) (hidle : s.sched.turn = .idle)
    (h : (roundFrom s.sched.pointer).find? (ready s) = some e) :
    searchUpTo (n + 1) s = searchUpTo n (startOpportunity (takeTurn e s)) := by
  simp only [searchUpTo, if_pos hidle, h]

theorem settle_running (h : s.power = .running) : settle s = searchUpTo 512 s := by
  rw [settle, h]

theorem settle_still (h : s.power ≠ .running) : settle s = s := by
  unfold settle; split
  · next hr => exact absurd hr h
  · rfl

/-- Where a search of any number of turns finds nothing to do, neither does the end of the step. -/
theorem settle_of_searchUpTo (h : ∀ n, searchUpTo n s = s) : settle s = s := by
  by_cases hrun : s.power = .running
  · rw [settle_running hrun, h]
  · exact settle_still hrun

end

end Sys2Proof.Machine

/-! A look at an entry's queue in the round (R73, R83). -/

namespace Sys2Proof.Machine

section
variable {e : RoundEntry} {s : State}

/-! ### What a look finds -/

/-- A look discards every frame of a queue of frames that are too old. -/
theorem lookAt_old {time sojourn : Nat} (mapped : Bool) {q : List Entry} (hold : ∀ x ∈ q, sojourn < time - x.stamp) :
    lookAt time sojourn mapped q = ⟨[], q, q.length, 0⟩ := by
  induction q with
  | nil => rfl
  | cons x xs ih =>
    rw [lookAt, if_pos (hold x List.mem_cons_self), ih fun y hy => hold y (List.mem_cons_of_mem _ hy)]
    rfl

/-- A look at the queue of a line without a map entry discards every frame: the old ones for their age, the others as
unmapped (R83). -/
theorem lookAt_unmapped (time sojourn : Nat) (q : List Entry) : lookAt time sojourn false q =
    ⟨[], q, (q.filter fun x => decide (sojourn < time - x.stamp)).length,
      (q.filter fun x => decide (¬ sojourn < time - x.stamp)).length⟩ := by
  induction q with
  | nil => rfl
  | cons x xs ih =>
    rw [lookAt, ih]
    by_cases hx : sojourn < time - x.stamp
    · rw [if_pos hx, List.filter_cons_of_pos (by exact decide_eq_true hx),
        List.filter_cons_of_neg (by simpa only [decide_eq_true_eq, not_not] using hx)]
      rfl
    · rw [if_neg hx, List.filter_cons_of_neg (by simpa only [decide_eq_true_eq] using hx),
        List.filter_cons_of_pos (by exact decide_eq_true hx)]
      rfl

theorem lookedAt_old (hold : ∀ x ∈ queueOf s e, s.settings.sojourn < s.time - x.stamp) :
    lookedAt s e = ⟨[], queueOf s e, (queueOf s e).length, 0⟩ := lookAt_old _ hold

theorem primaryTag_eq_none {map : Table (Option MapEntry) 32} {l : Line} (h : ∀ i, ∀ x ∈ look map i, x.line ≠ l) :
    primaryTag map l = none := by
  have hentries : entriesOf map l = [] := List.filterMap_eq_nil_iff.mpr fun i _ => by
    split
    · next x hx => exact if_neg (h i x hx)
    · rfl
  rw [primaryTag, hentries]; rfl

theorem lookedAt_unmapped {l : Line} (hl : lineOfEntry e = some l) (h : primaryTag s.dist.map l = none) :
    lookedAt s e = ⟨[], queueOf s e, ((queueOf s e).filter fun x => decide (s.settings.sojourn < s.time - x.stamp)).length,
      ((queueOf s e).filter fun x => decide (¬ s.settings.sojourn < s.time - x.stamp)).length⟩ := by
  rw [← lookAt_unmapped]
  simp only [lookedAt, hl, h, Option.isSome_none]

/-- M, and a line with a primary tag, lose the heads that are too old, up to the first fresh one. -/
theorem lookedAt_mapped {old : List Entry} {h : Entry} {rest : List Entry}
    (hmapped : ∀ l, lineOfEntry e = some l → ∃ tag, primaryTag s.dist.map l = some tag)
    (hq : queueOf s e = old ++ h :: rest) (hold : ∀ x ∈ old, s.settings.sojourn < s.time - x.stamp)
    (hfresh : s.time - h.stamp ≤ s.settings.sojourn) : lookedAt s e = ⟨h :: rest, old, old.length, 0⟩ := by
  have hlook : lookedAt s e = lookAt s.time s.settings.sojourn true (queueOf s e) := by
    cases hl : lineOfEntry e with
    | none => simp only [lookedAt, hl]
    | some l =>
      obtain ⟨tag, htag⟩ := hmapped l hl
      simp only [lookedAt, hl, htag, Option.isSome_some]
  rw [hlook, hq]
  refine lookAt_append hold ?_
  rintro x ⟨⟩
  exact hfresh

/-! ### What a look leaves -/

/-- With no report waiting, room is offered to none (R167). -/
theorem offer_of_no_reports (h : s.mgmt.reports = []) : offer s = s := by
  rw [offer, h]; rfl

/-- The queue of an entry is read from the upstream queues and UM alone. -/
theorem queueOf_congr {s t : State} (hup : t.store.up = s.store.up) (hum : t.store.um = s.store.um) (e : RoundEntry) :
    queueOf t e = queueOf s e := by
  unfold queueOf; rw [hup, hum]

theorem queueOf_putQueue (e : RoundEntry) (q : List Entry) (s : State) : queueOf (setStore (putQueue e q) s) e = q := by
  unfold queueOf putQueue
  cases lineOfEntry e with
  | none => rfl
  | some l => exact look_put_same _ _ _

/-- The counts of a look touch the line table and the reports-missed flag alone. -/
theorem countLook_keeps (e : RoundEntry) (r : Looked) (s : State) :
    (countLook e r s).store = s.store ∧ (countLook e r s).sched = s.sched ∧
    (countLook e r s).mgmt.reports = s.mgmt.reports := by
  unfold countLook; split
  · exact ⟨rfl, rfl, rfl⟩
  · split <;> exact ⟨rfl, rfl, rfl⟩

/-- A look leaves the scheduler as it is. -/
theorem lookQueue_sched (e : RoundEntry) (s : State) : (lookQueue e s).sched = s.sched :=
  (releaseEntries_frame _ _).2.2.1.trans (countLook_keeps e _ _).2.1

/-- A look counts a line's discarded frames, for their age and as unmapped. -/
theorem lineOf_lookQueue {l : Line} (hl : lineOfEntry e = some l) : lineOf (lookQueue e s) l =
    { lineOf s l with
      ageDiscard := min 4294967295 ((lineOf s l).ageDiscard + (lookedAt s e).old)
      unmapped := min 4294967295 ((lineOf s l).unmapped + (lookedAt s e).unmapped) } := by
  rw [lineOf, lookQueue, (releaseEntries_frame _ _).2.1]
  simp only [countLook, hl]
  exact look_alter_same _ _ _

/-- With no report waiting, a look is its counts, the frames kept, and the cells of the others given up. -/
theorem lookQueue_eq (h : s.mgmt.reports = []) : lookQueue e s = setStore (dropEntries (lookedAt s e).gone)
    (countLook e (lookedAt s e) (setStore (putQueue e (lookedAt s e).kept) s)) :=
  offer_of_no_reports ((countLook_keeps e _ _).2.2.trans h)

theorem lookQueue_reports (h : s.mgmt.reports = []) : (lookQueue e s).mgmt.reports = [] := by
  rw [lookQueue_eq h]
  exact (countLook_keeps e _ _).2.2.trans h

theorem queueOf_lookQueue (h : s.mgmt.reports = []) : queueOf (lookQueue e s) e = (lookedAt s e).kept := by
  obtain ⟨-, -, -, -, hup, hum, -⟩ := dropEntries_frame (lookedAt s e).gone
    (countLook e (lookedAt s e) (setStore (putQueue e (lookedAt s e).kept) s)).store
  rw [lookQueue_eq h]
  refine (queueOf_congr (s := setStore (putQueue e (lookedAt s e).kept) s) ?_ ?_ e).trans (queueOf_putQueue e _ s)
  · exact hup.trans (congrArg Store.up (countLook_keeps e _ _).1)
  · exact hum.trans (congrArg Store.um (countLook_keeps e _ _).1)

/-- A frame of UM that a look discards sets the reports-missed flag (R83). -/
theorem lookQueue_missed (h : s.mgmt.reports = []) (he : lineOfEntry e = none) (hold : 0 < (lookedAt s e).old) :
    (lookQueue e s).mgmt.missed = true := by
  rw [lookQueue_eq h]
  simp only [countLook, he, if_pos hold, setStore_mgmt, setMgmt_mgmt]

end

end Sys2Proof.Machine

/-! A turn of the round: its start opportunity (R86 to R88, R91). -/

namespace Sys2Proof.Machine

/-- The turn of an entry behind the start of a frame: ended by a cause of R87, or held on. -/
def turnTested (e : RoundEntry) (s : State) : State := (turnOver s e).elim (holdTurn .held s) fun clear => endTurn clear s

section
variable {e : RoundEntry} {s : State} {h : Entry} {rest : List Entry}

/-! ### The causes that end a turn (R87) -/

theorem turnOver_empty (hq : queueOf s e = []) : turnOver s e = some true := by
  simp only [turnOver, hq]

theorem turnOver_blocked (hq : queueOf s e = h :: rest)
    (hblocked : look s.sched.deficits e < h.length ∨ look s.sched.levels e ≤ 0) : turnOver s e = some false := by
  simp only [turnOver, hq]
  rcases hblocked with hdeficit | hlevel
  · rw [if_pos hdeficit]
  · rw [if_pos hlevel, ite_self]

theorem turnOver_free (hq : queueOf s e = h :: rest) (hdeficit : h.length ≤ look s.sched.deficits e)
    (hlevel : 0 < look s.sched.levels e) : turnOver s e = none := by
  simp only [turnOver, hq, if_neg hdeficit.not_gt, if_neg hlevel.not_ge]

/-- The test of a turn touches the deficits, the pointer and the turn alone. -/
theorem turnTested_moves (e : RoundEntry) (s : State) : ∃ deficits pointer turn, turnTested e s =
    { s with sched := { s.sched with deficits := deficits, pointer := pointer, turn := turn } } := by
  unfold turnTested
  cases turnOver s e with
  | none => exact ⟨_, _, _, rfl⟩
  | some clear => exact ⟨_, _, _, rfl⟩

theorem turnTested_empty (hq : queueOf s e = []) : turnTested e s = endTurn true s := by
  rw [turnTested, turnOver_empty hq]; rfl

theorem turnTested_blocked (hq : queueOf s e = h :: rest)
    (hblocked : look s.sched.deficits e < h.length ∨ look s.sched.levels e ≤ 0) : turnTested e s = endTurn false s := by
  rw [turnTested, turnOver_blocked hq hblocked]; rfl

theorem turnTested_free (hq : queueOf s e = h :: rest) (hdeficit : h.length ≤ look s.sched.deficits e)
    (hlevel : 0 < look s.sched.levels e) : turnTested e s = holdTurn .held s := by
  rw [turnTested, turnOver_free hq hdeficit hlevel]; rfl

/-- A turn behind which frames wait keeps its deficit (R87). -/
theorem turnTested_deficits (hq : queueOf s e = h :: rest) : (turnTested e s).sched.deficits = s.sched.deficits := by
  by_cases hblocked : look s.sched.deficits e < h.length ∨ look s.sched.levels e ≤ 0
  · rw [turnTested_blocked hq hblocked]; rfl
  · rw [not_or, not_lt, not_le] at hblocked
    rw [turnTested_free hq hblocked.1 hblocked.2]; rfl

/-! ### A start opportunity by what its look leaves -/

/-- A look leaves the service state of a line. -/
theorem entryInService_lookQueue (e : RoundEntry) (s : State) :
    entryInService (lookQueue e s) e = entryInService s e := by
  unfold entryInService
  split
  · next l _ => rw [((undisturbed_lookQueue e s).inputsStand l).service]
  · rfl

theorem startOpportunity_empty (hq : queueOf (lookQueue s.sched.pointer s) s.sched.pointer = []) :
    startOpportunity s = endTurn true (lookQueue s.sched.pointer s) := by
  simp only [startOpportunity, turnOver_empty hq]

theorem startOpportunity_blocked (hq : queueOf (lookQueue s.sched.pointer s) s.sched.pointer = h :: rest)
    (hblocked : look s.sched.deficits s.sched.pointer < h.length ∨ look s.sched.levels s.sched.pointer ≤ 0) :
    startOpportunity s = endTurn false (lookQueue s.sched.pointer s) := by
  simp only [startOpportunity, turnOver_blocked hq (by rwa [lookQueue_sched])]

/-- A head within the deficit, of an entry with a level above 0: the turn waits for the transmitter, is paused, or starts the
frame (R86, R88). -/
theorem startOpportunity_free (hq : queueOf (lookQueue s.sched.pointer s) s.sched.pointer = h :: rest)
    (hserved : entryInService s s.sched.pointer = true) (hdeficit : h.length ≤ look s.sched.deficits s.sched.pointer)
    (hlevel : 0 < look s.sched.levels s.sched.pointer) : startOpportunity s =
      if s.sched.inFlight.isSome then holdTurn .held (lookQueue s.sched.pointer s)
      else if s.sched.stationLevel ≤ 0 then holdTurn .paused (lookQueue s.sched.pointer s)
      else offer (turnTested s.sched.pointer
        (startFrame s.sched.pointer h rest (lookQueue s.sched.pointer s))) := by
  have hsched := lookQueue_sched s.sched.pointer s
  have hfree := turnOver_free hq (by rwa [hsched]) (by rwa [hsched])
  simp only [startOpportunity, hfree, hq, entryInService_lookQueue, hserved, hsched, Bool.not_true, Bool.false_eq_true,
    if_false]
  congr 3
  unfold turnTested
  cases turnOver (startFrame s.sched.pointer h rest (lookQueue s.sched.pointer s)) s.sched.pointer with
  | none => rfl
  | some clear => rfl

end

end Sys2Proof.Machine

/-! The frame that a turn starts, and the statement of the round (R83 to R91). -/

namespace Sys2Proof.Machine

section
variable {e : RoundEntry} {s : State} {h : Entry} {rest : List Entry}

/-! ### The frame started (R86, R91) -/

theorem headerOf_line {l : Line} (hl : lineOfEntry e = some l) (n : Nat) : headerOf s e n =
    bytes16 (BitVec.ofNat 16 ((primaryTag s.dist.map l).getD 0)) ++ [1] ++ bytes16 (BitVec.ofNat 16 n) := by
  simp only [headerOf, headerBytes, tagOf, kindOf, hl, two_eq, Option.isSome_some, if_true]

theorem headerOf_management (he : lineOfEntry e = none) (n : Nat) : headerOf s e n =
    bytes16 (BitVec.ofNat 16 s.settings.mgmtTag) ++ [3] ++ bytes16 (BitVec.ofNat 16 n) := by
  simp only [headerOf, headerBytes, tagOf, kindOf, he, two_eq, Option.isSome_none, Bool.false_eq_true, if_false]

/-- A look leaves the map and the management tag. -/
theorem headerOf_lookQueue (n : Nat) : headerOf (lookQueue e s) e n = headerOf s e n := by
  have hlook := undisturbed_lookQueue e s
  cases hl : lineOfEntry e with
  | none => rw [headerOf_management hl, headerOf_management hl, State.settings, hlook.loader, State.settings]
  | some l => rw [headerOf_line hl, headerOf_line hl, hlook.dist]

/-- The scheduler behind the start of a frame: three debits, and the frame in flight with its header (R81, R86, R91). -/
theorem startFrame_lookQueue_sched : (startFrame e h rest (lookQueue e s)).sched = { s.sched with
    levels := alter s.sched.levels e (debit h.length)
    stationLevel := debit h.length s.sched.stationLevel
    deficits := alter s.sched.deficits e (· - h.length)
    inFlight := some ⟨h.cells, h.length, headerOf s e h.length, h.endsWait⟩ } := by
  rw [startFrame, setSched_sched, setStore_sched, lookQueue_sched, headerOf_lookQueue]

/-- The debits of the entry whose frame starts (R86). -/
theorem startFrame_debits :
    look (startFrame e h rest (lookQueue e s)).sched.deficits e = look s.sched.deficits e - h.length ∧
    look (startFrame e h rest (lookQueue e s)).sched.levels e = debit h.length (look s.sched.levels e) := by
  rw [startFrame_lookQueue_sched]
  exact ⟨look_alter_same _ _ _, look_alter_same _ _ _⟩

theorem queueOf_startFrame : queueOf (startFrame e h rest s) e = rest := queueOf_putQueue e rest s

/-- A level is above 0 behind a debit exactly where it was above the length. -/
theorem debit_le_zero (n : Nat) (level : Int) : debit n level ≤ 0 ↔ level ≤ n := by
  unfold debit Config.bucketFloor; omega

/-- With no report waiting, a frame that may start starts, and the turn is tested behind it. -/
theorem startOpportunity_starts (hreports : s.mgmt.reports = [])
    (hq : queueOf (lookQueue s.sched.pointer s) s.sched.pointer = h :: rest)
    (hserved : entryInService s s.sched.pointer = true) (hdeficit : h.length ≤ look s.sched.deficits s.sched.pointer)
    (hlevel : 0 < look s.sched.levels s.sched.pointer) (hidle : s.sched.inFlight = none)
    (hstation : 0 < s.sched.stationLevel) :
    startOpportunity s =
      turnTested s.sched.pointer (startFrame s.sched.pointer h rest (lookQueue s.sched.pointer s)) := by
  rw [startOpportunity_free hq hserved hdeficit hlevel, if_neg (by simp [hidle]), if_neg hstation.not_ge]
  obtain ⟨_, _, _, htested⟩ := turnTested_moves s.sched.pointer
    (startFrame s.sched.pointer h rest (lookQueue s.sched.pointer s))
  refine offer_of_no_reports ?_
  rw [htested]
  exact lookQueue_reports hreports

/-! ### What a start opportunity counts -/

/-- With no report waiting, what a start opportunity does beside its look is in the scheduler and the queues. -/
theorem startOpportunity_moves (hreports : s.mgmt.reports = []) : ∃ sched store, startOpportunity s =
    { lookQueue s.sched.pointer s with sched := sched, store := store } := by
  unfold startOpportunity; dsimp only; split
  · exact ⟨_, _, rfl⟩
  · split
    · exact ⟨_, _, rfl⟩
    · next x rest _ =>
      split_ifs
      · exact ⟨_, _, rfl⟩
      · exact ⟨_, _, rfl⟩
      · exact ⟨_, _, rfl⟩
      · split
        · rw [offer_of_no_reports (by exact lookQueue_reports hreports)]
          exact ⟨_, _, rfl⟩
        · rw [offer_of_no_reports (by exact lookQueue_reports hreports)]
          exact ⟨_, _, rfl⟩

theorem lineOf_startOpportunity (hreports : s.mgmt.reports = []) {l : Line} (hl : lineOfEntry s.sched.pointer = some l) :
    lineOf (startOpportunity s) l = { lineOf s l with
      ageDiscard := min 4294967295 ((lineOf s l).ageDiscard + (lookedAt s s.sched.pointer).old)
      unmapped := min 4294967295 ((lineOf s l).unmapped + (lookedAt s s.sched.pointer).unmapped) } := by
  obtain ⟨_, _, hmoves⟩ := startOpportunity_moves hreports
  rw [hmoves, ← lineOf_lookQueue hl]; rfl

theorem startOpportunity_missed (hreports : s.mgmt.reports = []) (he : lineOfEntry s.sched.pointer = none)
    (hold : 0 < (lookedAt s s.sched.pointer).old) : (startOpportunity s).mgmt.missed = true := by
  obtain ⟨_, _, hmoves⟩ := startOpportunity_moves hreports
  rw [hmoves]
  exact lookQueue_missed hreports he hold

/-- A look that discards every frame ends the turn, and clears its deficit (R87). -/
theorem startOpportunity_discards (hreports : s.mgmt.reports = []) (hgone : (lookedAt s s.sched.pointer).kept = []) :
    (startOpportunity s).sched = { s.sched with
      pointer := s.sched.pointer + 1, turn := .idle, deficits := put s.sched.deficits s.sched.pointer 0 } ∧
    queueOf (startOpportunity s) s.sched.pointer = [] := by
  have hq : queueOf (lookQueue s.sched.pointer s) s.sched.pointer = [] := by rw [queueOf_lookQueue hreports, hgone]
  rw [startOpportunity_empty hq]
  refine ⟨?_, hq⟩
  rw [endTurn, setSched_sched, lookQueue_sched]; rfl

end

/-- Settles O46: the search by its test, and a start opportunity by what its look leaves: nothing, a head that ends the turn,
or a head that waits, pauses or starts. -/
theorem turnStartsFramesWithinDeficitAndLevels : Obligations.TurnStartsFramesWithinDeficitAndLevels := by
  refine ⟨fun n s => ?_, fun e s => ?_, fun s hreports => ?_, fun s old h rest => ?_⟩
  · intro isReady
    have hready (e : RoundEntry) : ready s e = true ↔ isReady e := ready_iff e
    refine ⟨settle_still, fun hbusy => ⟨settle_of_searchUpTo fun n => searchUpTo_busy n hbusy, searchUpTo_busy n hbusy⟩,
      fun hnone => ?_, fun k hk hidle hfound hfirst => ?_⟩
    · have hsearch (n : Nat) : searchUpTo n s = s := searchUpTo_none n fun e => (hready e).not.mpr (hnone e)
      exact ⟨settle_of_searchUpTo hsearch, hsearch n⟩
    · have hfind := find_roundFrom s.sched.pointer hk ((hready _).mpr hfound) fun j hj => (hready _).not.mpr (hfirst j hj)
      refine ⟨searchUpTo_found n hidle hfind, fun hrun => ?_⟩
      rw [settle_running hrun]
      exact searchUpTo_found 511 hidle hfind
  · refine ⟨fun l hl => ?_, fun he => ?_, rfl⟩
    · simp only [quantumOf, hl, Nat.mul_comm]
    · simp only [quantumOf, he]
  · intro e t passed isOld
    refine ⟨fun hold => ?_, fun l hl hmap => ?_⟩
    · have hlook : lookedAt s e = ⟨[], queueOf s e, (queueOf s e).length, 0⟩ := lookedAt_old hold
      obtain ⟨hsched, hempty⟩ := startOpportunity_discards hreports (congrArg Looked.kept hlook)
      refine ⟨hsched, hempty, fun l hl => ?_, fun he hsome => startOpportunity_missed hreports he ?_⟩
      · rw [lineOf_startOpportunity hreports hl, hlook]
      · rw [hlook]; exact List.length_pos_iff.mpr hsome
    · have hlook := lookedAt_unmapped hl (primaryTag_eq_none hmap)
      obtain ⟨hsched, hempty⟩ := startOpportunity_discards hreports (congrArg Looked.kept hlook)
      rw [lineOf_startOpportunity hreports hl, hlook]
      exact ⟨hsched, hempty, rfl, rfl⟩
  · intro e deficit level t hq hold hfresh hreports hline
    have hlook : lookedAt s e = ⟨h :: rest, old, old.length, 0⟩ :=
      lookedAt_mapped (fun l hl => (hline l hl).2) hq hold hfresh
    have hhead : queueOf (lookQueue e s) e = h :: rest := by rw [queueOf_lookQueue hreports, hlook]
    have hserved : entryInService s e = true := by
      unfold entryInService; split
      · next l hl => exact (hline l hl).1
      · rfl
    refine ⟨fun l hl => ?_, fun he hsome => startOpportunity_missed hreports he ?_, fun hblocked => ?_,
      fun hdeficit hlevel => ⟨fun hbusy => ?_, fun hidle hstation => ?_, fun hidle hstation => ?_⟩⟩
    · rw [lineOf_startOpportunity hreports hl, hlook]
    · rw [hlook]; exact List.length_pos_iff.mpr hsome
    · have ht : t = endTurn false (lookQueue e s) := startOpportunity_blocked hhead hblocked
      rw [ht, endTurn, setSched_sched, lookQueue_sched]; rfl
    · have ht : t = _ := startOpportunity_free hhead hserved hdeficit hlevel
      rw [ht, if_pos (Option.isSome_iff_ne_none.mpr hbusy), holdTurn, setSched_sched, lookQueue_sched]
    · have ht : t = _ := startOpportunity_free hhead hserved hdeficit hlevel
      rw [ht, if_neg (by simp [hidle]), if_pos hstation, holdTurn, setSched_sched, lookQueue_sched]
    · have ht : t = turnTested e (startFrame e h rest (lookQueue e s)) :=
        startOpportunity_starts hreports hhead hserved hdeficit hlevel hidle hstation
      have hsched := startFrame_lookQueue_sched (s := s) (e := e) (h := h) (rest := rest)
      have hwaits : queueOf (startFrame e h rest (lookQueue e s)) e = rest := queueOf_startFrame
      have hpointer : (startFrame e h rest (lookQueue e s)).sched.pointer = e := by rw [hsched]
      obtain ⟨hleft, hdebited⟩ := startFrame_debits (s := s) (e := e) (h := h) (rest := rest)
      obtain ⟨_, _, _, hmoves⟩ := turnTested_moves e (startFrame e h rest (lookQueue e s))
      rw [ht]
      refine ⟨by rw [hmoves]; exact hwaits, ?_, by rw [hmoves]; exact hdebited, by rw [hmoves, hsched]; rfl,
        fun hempty => ?_, fun hsome => ?_, fun x more hmore hends => ?_, fun x more hmore hfits habove => ?_⟩
      · rw [hmoves, hsched]
        cases hl : lineOfEntry e with
        | none => rw [headerOf_management hl]; rfl
        | some l => rw [headerOf_line hl]; rfl
      · rw [turnTested_empty (hwaits.trans hempty)]
        exact ⟨by rw [endTurn, setSched_sched, hpointer]; exact look_put_same _ _ _, rfl, congrArg (· + 1) hpointer⟩
      · obtain ⟨x, more, hmore⟩ := List.exists_cons_of_ne_nil hsome
        rw [turnTested_deficits (hwaits.trans hmore), hleft]
      · rw [turnTested_blocked (hwaits.trans hmore) (by rwa [hleft, hdebited, debit_le_zero])]
        exact ⟨rfl, congrArg (· + 1) hpointer⟩
      · rw [turnTested_free (hwaits.trans hmore) (by rwa [hleft])
          (by rw [hdebited, ← not_le, debit_le_zero, not_le]; exact habove)]
        exact ⟨rfl, hpointer⟩

end Sys2Proof.Machine

/-! The line map as a start checks it, and its law through every step (R94 to R96). -/

namespace Sys2Proof.Machine

/-! ### The check at a start (R95) -/

section
variable {mgmtTag : Nat} {map : Table (Option MapEntry) 32}

/-- What the check at a start asks of an entry at an index, beside a line in range: a tag that is neither 0 nor the
management tag, and that no entry at a lower index of the map holds (R95). -/
def Admissible (mgmtTag : Nat) (map : Table (Option MapEntry) 32) (i : Nat) (e : MapEntry) : Prop :=
  e.tag ≠ 0 ∧ e.tag ≠ mgmtTag ∧ ∀ j : MapIndex, j.val < i → ∀ f ∈ look map j, f.tag ≠ e.tag

/-- An entry is admissible by what stands below its index alone. -/
theorem Admissible.congr {map' : Table (Option MapEntry) 32} {i : Nat} {e : MapEntry}
    (h : ∀ j : MapIndex, j.val < i → look map' j = look map j) :
    Admissible mgmtTag map' i e ↔ Admissible mgmtTag map i e := by
  refine and_congr_right fun _ => and_congr_right fun _ => forall₂_congr fun j hj => ?_
  rw [h j hj]

theorem look_admitEntry_ne {i : Nat} (raw : Nat × Nat × FrameClass) {j : MapIndex} (hj : j.val ≠ i) :
    look (admitEntry mgmtTag map i raw) j = look map j := by
  unfold admitEntry; split
  · split
    · rfl
    · exact look_put_ne _ _ _ _ fun h => hj (congrArg Fin.val h).symm
  · rfl

/-- A map that is empty from an index on holds a tag only below it. -/
theorem holderOfTag_eq_none_iff {i : Nat} {tag : Nat} (hempty : ∀ j : MapIndex, i ≤ j.val → look map j = none) :
    holderOfTag map tag = none ↔ ∀ j : MapIndex, j.val < i → ∀ f ∈ look map j, f.tag ≠ tag := by
  refine ⟨fun h j _ => holderOfTag_none h j, fun h => holderOfTag_eq_none fun j f hf => ?_⟩
  by_cases hj : j.val < i
  · exact h j hj f hf
  · rw [hempty j (Nat.le_of_not_lt hj)] at hf; cases hf

/-- The entry examined is kept at its index exactly if its line is in range and it is admissible (R95). -/
theorem look_admitEntry_same (raw : Nat × Nat × FrameClass) {j : MapIndex} {e : MapEntry}
    (hempty : ∀ k : MapIndex, j.val ≤ k.val → look map k = none) :
    look (admitEntry mgmtTag map j.val raw) j = some e ↔
      raw = (e.tag, e.line.val, e.cls) ∧ Admissible mgmtTag map j.val e := by
  obtain ⟨tag, line, cls⟩ := raw
  have hnone : look map j ≠ some e := by rw [hempty j (Nat.le_refl _)]; exact nofun
  unfold admitEntry; dsimp only; split
  · split
    · next hbad =>
      refine iff_of_false hnone fun ⟨hraw, hzero, hmgmt, hfree⟩ => ?_
      cases hraw
      rw [(holderOfTag_eq_none_iff hempty).mpr hfree] at hbad
      simp [hzero, hmgmt] at hbad
    · next hgood =>
      simp only [not_or, Bool.not_eq_true, Option.isSome_eq_false_iff, Option.isNone_iff_eq_none] at hgood
      obtain ⟨hzero, hmgmt, hfree⟩ := hgood
      rw [look_put_same]
      constructor
      · intro he
        cases he
        exact ⟨rfl, hzero, hmgmt, (holderOfTag_eq_none_iff hempty).mp hfree⟩
      · rintro ⟨hraw, -⟩
        cases hraw
        rfl
  · next hline =>
    refine iff_of_false hnone fun ⟨hraw, _⟩ => hline ⟨j.isLt, ?_⟩
    cases hraw
    exact e.line.isLt

theorem look_admitEntries_below (raws : List (Nat × Nat × FrameClass)) {i : Nat} {j : MapIndex} (hj : j.val < i) :
    look (admitEntries mgmtTag map i raws) j = look map j := by
  induction raws generalizing map i with
  | nil => rfl
  | cons raw rest ih => exact (ih (Nat.lt_succ_of_lt hj)).trans (look_admitEntry_ne raw hj.ne)

/-- Of the entries examined from an index on, exactly those in range and admissible in the map that results are kept, each
at its own index (R95). -/
theorem look_admitEntries_from (raws : List (Nat × Nat × FrameClass)) {i : Nat} {j : MapIndex} {e : MapEntry}
    (hempty : ∀ k : MapIndex, i ≤ k.val → look map k = none) (hj : i ≤ j.val) :
    look (admitEntries mgmtTag map i raws) j = some e ↔ raws[j.val - i]? = some (e.tag, e.line.val, e.cls) ∧
      Admissible mgmtTag (admitEntries mgmtTag map i raws) j.val e := by
  induction raws generalizing map i with
  | nil => exact iff_of_false (by rw [admitEntries, hempty j hj]; exact nofun) fun h => by simp at h
  | cons raw rest ih =>
    rcases hj.eq_or_lt with rfl | hlt
    · have hbelow (k : MapIndex) (hk : k.val < j.val) :
          look (admitEntries mgmtTag map j.val (raw :: rest)) k = look map k := look_admitEntries_below _ hk
      rw [Admissible.congr hbelow, admitEntries, look_admitEntries_below rest (Nat.lt_succ_self _),
        look_admitEntry_same raw hempty]
      simp
    · have hrest (k : MapIndex) (hk : i + 1 ≤ k.val) : look (admitEntry mgmtTag map i raw) k = none := by
        rw [look_admitEntry_ne raw (by omega), hempty k (by omega)]
      have hindex : (raw :: rest)[j.val - i]? = rest[j.val - (i + 1)]? := by
        rw [show j.val - i = j.val - (i + 1) + 1 by omega, List.getElem?_cons_succ]
      rw [hindex]
      exact ih hrest hlt

/-- The map that POWER-ON loads, entry by entry (R95). -/
theorem look_startMap_powerOn (kept : Table (Option MapEntry) 32) (image : List (Nat × Nat × FrameClass)) (i : MapIndex)
    (e : MapEntry) : look (startMap .powerOn mgmtTag kept image) i = some e ↔
      image[i.val]? = some (e.tag, e.line.val, e.cls) ∧
      Admissible mgmtTag (startMap .powerOn mgmtTag kept image) i.val e :=
  look_admitEntries_from image (fun _ _ => look_filled ..) (Nat.zero_le _)

/-! ### The law of the map (R94) -/

/-- The law of the line map, of a map and a management tag alone. -/
def SoundMap (mgmtTag : Nat) (map : Table (Option MapEntry) 32) : Prop :=
  ∀ i, ∀ e ∈ look map i, e.tag ≠ 0 ∧ e.tag ≠ mgmtTag ∧ ∀ j, j ≠ i → ∀ f ∈ look map j, f.tag ≠ e.tag

theorem mapSound_iff (s : State) : MapSound s ↔ SoundMap s.settings.mgmtTag s.dist.map := Iff.rfl

/-- A map whose every entry is admissible is sound: of two entries, the one at the higher index has another tag than the
one at the lower. -/
theorem soundMap_of_admissible (h : ∀ i : MapIndex, ∀ e ∈ look map i, Admissible mgmtTag map i.val e) :
    SoundMap mgmtTag map := by
  intro i e he
  obtain ⟨hzero, hmgmt, hbelow⟩ := h i e he
  refine ⟨hzero, hmgmt, fun j hji f hf => ?_⟩
  rcases lt_or_gt_of_ne hji with hlt | hgt
  · exact hbelow j hlt f hf
  · obtain ⟨-, -, hbelow⟩ := h j f hf
    exact (hbelow i hgt e he).symm

theorem soundMap_startMap_powerOn (kept : Table (Option MapEntry) 32) (image : List (Nat × Nat × FrameClass)) :
    SoundMap mgmtTag (startMap .powerOn mgmtTag kept image) :=
  soundMap_of_admissible fun i e he => ((look_startMap_powerOn kept image i e).mp he).2

/-- RESTART empties the index of an entry that holds the newly loaded management tag, and no other (R95). -/
theorem look_startMap_restart (kept : Table (Option MapEntry) 32) (image : List (Nat × Nat × FrameClass)) (i : MapIndex)
    (e : MapEntry) : look (startMap .restart mgmtTag kept image) i = some e ↔ look kept i = some e ∧ e.tag ≠ mgmtTag := by
  rw [startMap, look_tabulate]
  cases look kept i with
  | none => simp
  | some x =>
    dsimp only; split
    · next hx => exact iff_of_false nofun fun ⟨he, hne⟩ => hne (Option.some.inj he ▸ hx)
    · next hx => exact ⟨fun he => ⟨he, Option.some.inj he ▸ hx⟩, And.left⟩

/-- A sound map stays sound at a RESTART, whatever management tag is loaded (R95). -/
theorem soundMap_startMap_restart {old : Nat} {kept : Table (Option MapEntry) 32} (h : SoundMap old kept)
    (image : List (Nat × Nat × FrameClass)) : SoundMap mgmtTag (startMap .restart mgmtTag kept image) := by
  intro i e he
  obtain ⟨hlook, hmgmt⟩ := (look_startMap_restart kept image i e).mp he
  obtain ⟨hzero, -, honce⟩ := h i e hlook
  exact ⟨hzero, hmgmt, fun j hji f hf => honce j hji f ((look_startMap_restart kept image j f).mp hf).1⟩

theorem soundMap_startMap {old : Nat} {kept : Table (Option MapEntry) 32} (h : SoundMap old kept) (kind : StartKind)
    (image : List (Nat × Nat × FrameClass)) : SoundMap mgmtTag (startMap kind mgmtTag kept image) := by
  cases kind with
  | powerOn => exact soundMap_startMap_powerOn kept image
  | restart => exact soundMap_startMap_restart h image

end

/-- Settles O10: what POWER-ON loads is sound because every entry that it keeps is admissible; from the valid count on the
image has none. -/
theorem startMapIsSound : Obligations.StartMapIsSound := by
  refine fun mgmtTag kept image => ⟨⟨soundMap_startMap_powerOn kept image, look_startMap_powerOn kept image, fun i hi => ?_⟩,
    fun i => look_tabulate ..⟩
  refine Option.eq_none_iff_forall_ne_some.mpr fun e he => ?_
  obtain ⟨himage, -⟩ := (look_startMap_powerOn kept image i e).mp he
  rw [List.getElem?_eq_none hi] at himage
  cases himage

/-! ### Every step (R94 to R96) -/

section
variable {s t : State}

theorem MapSound.congr (h : MapSound s) (hmap : t.dist.map = s.dist.map) (hloader : t.loader = s.loader) : MapSound t := by
  rw [mapSound_iff, State.settings, hmap, hloader]
  exact h

/-- An entry that may be put at an index leaves the map sound: its tag stands nowhere, or at that index alone (R96). -/
theorem MapSound.placed {x : MapIndex} {e : Option MapEntry} (h : MapSound s) (hplace : Placeable s x e) :
    MapSound (setDist (fun d => { d with map := put d.map x e }) s) := by
  have hother (m : MapEntry) (hm : m ∈ e) (j : MapIndex) (hj : j ≠ x) (f : MapEntry) (hf : f ∈ look s.dist.map j) :
      f.tag ≠ m.tag := by
    obtain ⟨-, -, hnowhere | ⟨n, hn, htag⟩⟩ := hplace m hm
    · exact hnowhere j f hf
    · obtain ⟨-, -, honce⟩ := h x n hn
      exact htag ▸ honce j hj f hf
  intro i m hm
  change m ∈ look (put s.dist.map x e) i at hm
  change _ ∧ _ ∧ ∀ j, j ≠ i → ∀ f ∈ look (put s.dist.map x e) j, f.tag ≠ m.tag
  by_cases hi : i = x
  · subst hi
    rw [look_put_same] at hm
    obtain ⟨hzero, hmgmt, -⟩ := hplace m hm
    refine ⟨hzero, hmgmt, fun j hj f hf => ?_⟩
    rw [look_put_ne _ _ _ _ hj.symm] at hf
    exact hother m hm j hj f hf
  · rw [look_put_ne _ _ _ _ (Ne.symm hi)] at hm
    obtain ⟨hzero, hmgmt, honce⟩ := h i m hm
    refine ⟨hzero, hmgmt, fun j hj f hf => ?_⟩
    by_cases hjx : j = x
    · subst hjx
      rw [look_put_same] at hf
      exact (hother f hf i hi m hm).symm
    · rw [look_put_ne _ _ _ _ (Ne.symm hjx)] at hf
      exact honce j hj f hf

/-- Of the elementary changes, only an entry put touches the map (R96, R97). -/
theorem Change.keeps_mapSound {sc : Scope} (h : Change sc s t) (hs : MapSound s) : MapSound t := by
  obtain ⟨-, -, -, -, -, -, hloader⟩ := h.other
  cases h with
  | map x e _ _ hplace => exact hs.placed hplace
  | dist f _ hf => exact hs.congr hf hloader
  | recompute => exact hs.congr (by rw [(recompute_rest s).1]) hloader
  | riseCheck => exact hs.congr (by rw [(takeRiseCheck_frame s).1]) hloader
  | _ => exact hs.congr rfl hloader

theorem mapSound_powerUp (s : State) : MapSound (powerUp s) := fun i e he => by
  have hempty : look (powerUp s).dist.map i = none := look_filled ..
  rw [hempty] at he; cases he

/-- The end of the configuration read checks the map against the management tag that it delivers (R95, R169). -/
theorem mapSound_deliver (straps : BitVec 3) (b : List Byte) (hs : MapSound s) : MapSound (deliver straps b s) :=
  soundMap_startMap hs s.start (takeImage b).map

theorem stepKeeps_mapSound : StepKeeps MapSound where
  pending _ _ hs := hs
  clocks s hs := by rw [tickClocks_eq]; exact hs
  tick s hs := hs.congr (by rw [tickRunning_eq, tickClocks_eq]) (by rw [tickRunning_eq, tickClocks_eq])
  live c hc _ _ hs he := exec_keeps (fun _ _ _ h => h.keeps_mapSound) hc he hs
  powerUp s _ := mapSound_powerUp s
  cutOff _ hs := hs
  restart _ hs := hs
  opens straps b s hs := by
    have hund := opened_undisturbed straps b s
    exact (mapSound_deliver straps b hs).congr (congrArg Distributor.map hund.dist) hund.loader

end

/-- Settles O19: through the chains of elementary changes and through the check of the map at a start. -/
theorem everyStepKeepsTheLineMapSound : Obligations.EveryStepKeepsTheLineMapSound :=
  fun _ _ hs ht => stepKeeps_mapSound.step hs ht

end Sys2Proof.Machine

/-! SET TAG and CLEAR TAG (R96, R97). -/

namespace Sys2Proof.Machine

section
variable {s : State} {num index line cls : Byte} {tag : BitVec 16} {x : MapIndex} {l : Line} {c : FrameClass}

theorem indexOperand_eq_none (h : 31 < index.toNat) : indexOperand index = none := by
  simp only [indexOperand]; exact dif_neg (by omega)

theorem indexOperand_eq_some (h : index.toNat = x.val) : indexOperand index = some x := by
  simp only [indexOperand, h, x.isLt, dite_true]

/-! ### CLEAR TAG (R97) -/

theorem clearTagRequest_outOfRange (h : 31 < index.toNat) :
    clearTagRequest num index s = respond 8 num .refusedRange [] false s := by
  rw [clearTagRequest, indexOperand_eq_none h, answer]

theorem clearTagRequest_inRange (h : index.toNat = x.val) :
    clearTagRequest num index s = respond 8 num .done (mapEntryBytes (look s.dist.map x)) false (putMap x none s) := by
  rw [clearTagRequest, indexOperand_eq_some h]; rfl

/-! ### SET TAG (R96) -/

theorem setTagRequest_outOfRange (h : 31 < index.toNat) :
    setTagRequest num index tag line cls s = respond 7 num .refusedRange [] false s := by
  rw [setTagRequest, indexOperand_eq_none h, answer]

/-- A line, tag or class out of range, with an index in range. -/
theorem setTagRequest_badEntry (hx : index.toNat = x.val) (h : line.toNat > 11 ∨ tag = 0 ∨ classOperand cls = none) :
    setTagRequest num index tag line cls s =
      respond 7 num .refusedRange (mapEntryBytes (look s.dist.map x)) false s := by
  rw [setTagRequest, indexOperand_eq_some hx]; dsimp only; split
  · next hl hc =>
    rcases h with h | h | h
    · rw [lineOperand_eq_none h] at hl; cases hl
    · rw [if_pos h, mapAt]
    · rw [h] at hc; cases hc
  · rw [mapAt]

theorem setTagRequest_inRange (hx : index.toNat = x.val) (hl : line.toNat = l.val) (hc : classOperand cls = some c)
    (htag : tag ≠ 0) : setTagRequest num index tag line cls s = placeTag num x tag.toNat l c s := by
  simp only [setTagRequest, indexOperand_eq_some hx, lineOperand_eq_some hl, hc, if_neg htag]

theorem placeTag_management {n : Nat} (h : n = s.settings.mgmtTag) :
    placeTag num x n l c s = respond 7 num .refusedState (mapEntryBytes (look s.dist.map x)) false s := by
  rw [placeTag, if_pos h, refuse, mapAt]

theorem placeTag_heldElsewhere {y : MapIndex} {e : MapEntry} (hmap : MapSound s) (hmgmt : e.tag ≠ s.settings.mgmtTag)
    (he : e ∈ look s.dist.map y) (hne : y ≠ x) : placeTag num x e.tag l c s =
      respond 7 num .refusedState (mapEntryBytes (look s.dist.map x) ++ [byteOf y.val]) false s := by
  rw [placeTag, if_neg hmgmt, holderOfTag_of_look hmap he]
  exact if_neg hne

/-- A tag that no other index holds is placed, whether the index itself holds it or not. -/
theorem placeTag_free {n : Nat} (hmgmt : n ≠ s.settings.mgmtTag)
    (hfree : ∀ y, y ≠ x → ∀ e ∈ look s.dist.map y, e.tag ≠ n) : placeTag num x n l c s =
      respond 7 num .done (mapEntryBytes (some ⟨n, l, c⟩)) false (putMap x (some ⟨n, l, c⟩) s) := by
  rw [placeTag, if_neg hmgmt]; split
  · next y e hholder =>
    obtain ⟨hlook, htag⟩ := holderOfTag_some hholder
    have hyx : y = x := by_contra fun hne => hfree y hne e hlook htag
    rw [if_pos hyx, done]
  · rw [done]

end

/-- Settles O11: each clause is the request's equation for its case. -/
theorem setTagAndClearTagWriteOneIndex : Obligations.SetTagAndClearTagWriteOneIndex := by
  intro num index line cls tag s htakes hmap
  refine ⟨fun hindex => ⟨?_, ?_⟩, fun x hx => ⟨?_, fun hbad => ?_, fun l c hl hc htag => ⟨fun hmgmt => ?_,
    fun hmgmt y hne e he heq => ?_, fun hmgmt hfree => ?_⟩⟩⟩
  · exact exec_request htakes (setTagRequest_outOfRange hindex)
  · exact exec_request htakes (clearTagRequest_outOfRange hindex)
  · exact exec_request htakes (clearTagRequest_inRange hx)
  · exact exec_request htakes (setTagRequest_badEntry hx hbad)
  · exact exec_request htakes ((setTagRequest_inRange hx hl hc htag).trans (placeTag_management hmgmt))
  · refine exec_request htakes ((setTagRequest_inRange hx hl hc htag).trans ?_)
    rw [← heq] at hmgmt ⊢
    exact placeTag_heldElsewhere hmap hmgmt he hne
  · exact exec_request htakes ((setTagRequest_inRange hx hl hc htag).trans (placeTag_free hmgmt hfree))

end Sys2Proof.Machine

/-! The bytes of requests, and the MGMT frame that brings them (R101, R163, R175, R176). -/

namespace Sys2Proof.Machine

/-! ### The kinds of request, and their fixed lengths (R163, R165, R176) -/

/-- The fixed length of the contents whose first byte is the code of a kind of request. -/
def kindLength (b : List Byte) : Option Nat :=
  match b with
  | [] => none
  | code :: _ =>
    match code.toNat with
    | 1 | 4 | 5 | 6 | 8 | 11 | 12 | 13 => some 3
    | 2 | 3 | 14 => some 2
    | 7 => some 7
    | 9 => some 20
    | 10 => some 5
    | _ => none

theorem kindLength_le {b : List Byte} {n : Nat} (h : kindLength b = some n) : n ≤ 20 := by
  unfold kindLength at h
  split at h
  · cases h
  · split at h <;> cases h <;> omega

/-- What is read as a request has the length of its kind, and is not UNKNOWN. -/
theorem decodeArguments_eq_some {b : List Byte} {c : Instr} (h : decodeArguments b = some c) :
    kindLength b = some b.length ∧ ∀ u, c ≠ .unknown u := by
  unfold decodeArguments at h; split at h
  case h_9 | h_12 =>
    cases h
    refine ⟨rfl, fun u => ?_⟩
    split <;> exact nofun
  case h_15 => cases h
  all_goals
    cases h
    exact ⟨rfl, nofun⟩

theorem kindLength_of_decodeArguments {b : List Byte} {c : Instr} (h : decodeArguments b = some c) :
    kindLength b = some b.length := (decodeArguments_eq_some h).1

/-- Contents of another length than the fixed one of their kind are not those of a request. -/
theorem decodeArguments_eq_none {b : List Byte} (h : kindLength b ≠ some b.length) : decodeArguments b = none :=
  Option.eq_none_iff_forall_ne_some.mpr fun _ hc => h (kindLength_of_decodeArguments hc)

/-- Contents of the fixed length of their kind are those of a request. -/
theorem decodeArguments_isSome {b : List Byte} (h : kindLength b = some b.length) : (decodeArguments b).isSome := by
  cases b with
  | nil => cases h
  | cons code args =>
    have hcode {k : Nat} (hk : code.toNat = k) : code = BitVec.ofNat 8 k := by rw [← hk]; simp
    simp only [kindLength, List.length_cons] at h
    split at h
    case h_1 hk | h_2 hk | h_3 hk | h_4 hk | h_5 hk | h_6 hk | h_7 hk | h_8 hk =>
      obtain ⟨n, x, rfl⟩ := List.length_eq_two.mp (Nat.succ.inj (Option.some.inj h)).symm
      rw [hcode hk]; rfl
    case h_9 hk | h_10 hk | h_11 hk =>
      obtain ⟨n, rfl⟩ := List.length_eq_one_iff.mp (Nat.succ.inj (Option.some.inj h)).symm
      rw [hcode hk]; rfl
    case h_12 hk =>
      have hargs : args.length = 6 := (Nat.succ.inj (Option.some.inj h)).symm
      match args, hargs with
      | [_, _, _, _, _, _], _ => rw [hcode hk]; rfl
    case h_13 hk =>
      have hargs : args.length = 19 := (Nat.succ.inj (Option.some.inj h)).symm
      match args, hargs with
      | [_, _, _, _, _, _, _, _, _, _, _, _, _, _, _, _, _, _, _], _ => rw [hcode hk]; rfl
    case h_14 hk =>
      have hargs : args.length = 4 := (Nat.succ.inj (Option.some.inj h)).symm
      match args, hargs with
      | [_, _, _, _], _ => rw [hcode hk]; rfl
    case h_15 => cases h

/-! ### Requests written and read (R1, R163, R175) -/

theorem word16_extract (w : BitVec 16) : word16 (w.extractLsb' 8 8) (w.extractLsb' 0 8) = w := by
  refine BitVec.eq_of_getLsbD_eq fun i hi => ?_
  simp only [word16, BitVec.getLsbD_append, BitVec.getLsbD_extractLsb']
  grind

theorem word32_extract (w : BitVec 32) :
    word32 (w.extractLsb' 24 8) (w.extractLsb' 16 8) (w.extractLsb' 8 8) (w.extractLsb' 0 8) = w := by
  refine BitVec.eq_of_getLsbD_eq fun i hi => ?_
  simp only [word32, BitVec.getLsbD_append, BitVec.getLsbD_extractLsb']
  grind

theorem decodeArguments_setTag (n x t1 t0 l k : Byte) :
    decodeArguments [7, n, x, t1, t0, l, k] = some (.setTag n x (word16 t1 t0) l k) := rfl

theorem decodeArguments_loadStep (n k m w q o s1 s0 c1 c0 nx l3 l2 l1 l0 h3 h2 h1 h0 : Byte) :
    decodeArguments [9, n, k, m, w, q, o, s1, s0, c1, c0, nx, l3, l2, l1, l0, h3, h2, h1, h0] =
      some (if m = 0 then .loadStepEmpty n k else
        .loadStep n k ⟨m, w, q, o, word16 s1 s0, word16 c1 c0, nx, word32 l3 l2 l1 l0, word32 h3 h2 h1 h0⟩) := rfl

/-- The arguments of a request are read back as they are written. -/
theorem decodeArguments_encodeRequest {c : Instr} {b : List Byte} (hwf : wellFormed c = true)
    (h : encodeRequest c = some b) : decodeArguments b = some c := by
  cases c with
  | setTag n x tag l k =>
    cases h
    exact (decodeArguments_setTag ..).trans (by rw [word16_extract])
  | loadStep n k r =>
    cases h
    have hmark : r.mark ≠ 0 := by simpa [wellFormed] using hwf
    exact (decodeArguments_loadStep ..).trans
      (by rw [if_neg hmark, word16_extract, word16_extract, word32_extract, word32_extract])
  | clearFault n l =>
    cases h
    have hline : l ≠ 255 := by simpa [wellFormed] using hwf
    exact congrArg some (if_neg hline)
  | readLine | readStation | readPeers | readResults | barLine | unbarLine | clearTag | loadStepEmpty | submitRun
  | cancelRun | clearFaultLatch | realign | restart => cases h; rfl
  | _ => cases h

theorem decodeRequest_of_decodeArguments {c : Instr} {b : List Byte} (h : decodeArguments b = some c) :
    decodeRequest b.length b.length b = c := by
  have hshort := kindLength_le (kindLength_of_decodeArguments h)
  rw [decodeRequest, if_neg (by omega), h, Option.getD_some]

/-- What is UNKNOWN (R163): contents that are not of their kind's length, or not as many as the length field says. -/
theorem decodeRequest_unknown {length received : Nat} {b : List Byte}
    (h : kindLength b ≠ some b.length ∨ length ≠ b.length ∨ received ≠ b.length) :
    decodeRequest length received b = .unknown (b.take 64) := by
  unfold decodeRequest; split
  · rfl
  · next hcounts =>
    have hkind : kindLength b ≠ some b.length := h.resolve_right (by omega)
    rw [decodeArguments_eq_none hkind, Option.getD_none, List.take_of_length_le (by omega)]

/-- Contents of their kind's length that are as many as the length field says are not UNKNOWN (R163). -/
theorem decodeRequest_ne_unknown {b : List Byte} (h : kindLength b = some b.length) (u : List Byte) :
    decodeRequest b.length b.length b ≠ .unknown u := by
  obtain ⟨c, hc⟩ := Option.isSome_iff_exists.mp (decodeArguments_isSome h)
  rw [decodeRequest_of_decodeArguments hc]
  exact (decodeArguments_eq_some hc).2 u

/-! ### What an MGMT frame carries (R101, R163) -/

theorem carried_request {c : Instr} {kept rest : List Byte} (hwf : wellFormed c = true)
    (h : encodeRequest c = some (kept ++ rest)) : carried (kept.length + rest.length) kept kept.length rest = c := by
  have hargs := decodeArguments_encodeRequest hwf h
  have hshort := kindLength_le (kindLength_of_decodeArguments hargs)
  rw [carried, List.take_of_length_le (by omega), ← List.length_append, decodeRequest_of_decodeArguments hargs]

/-- The contents kept are those of a request only if they are all of the frame's contents. -/
theorem carried_unknown {length received : Nat} {kept rest : List Byte} (h : 64 < length ∨
    received + rest.length ≠ length ∨ kindLength (kept ++ rest) ≠ some (kept ++ rest).length) :
    carried length kept received rest = .unknown ((kept ++ rest).take 64) := by
  have hbad : kindLength ((kept ++ rest).take 64) ≠ some ((kept ++ rest).take 64).length ∨
      length ≠ ((kept ++ rest).take 64).length ∨ received + rest.length ≠ ((kept ++ rest).take 64).length := by
    by_contra hgood
    simp only [not_or, ne_eq, not_not] at hgood
    obtain ⟨hkind, hlength, hreceived⟩ := hgood
    have hshort := kindLength_le hkind
    have hall : (kept ++ rest).take 64 = kept ++ rest := by
      rw [List.length_take] at hshort
      exact List.take_of_length_le (by omega)
    rcases h with h | h | h
    · omega
    · omega
    · exact h (hall ▸ hkind)
  rw [carried, decodeRequest_unknown hbad, List.take_take, Nat.min_self]

/-! ### The commands that bring a request (R101, R163, assumption 17) -/

/-- The contents that a command of the management agent stands for: those of its request, or those of UNKNOWN. -/
def Carries (c : Instr) (b : List Byte) : Prop := encodeRequest c = some b ∨ c = .unknown b

theorem exec_eq_takeRequest {c : Instr} {b : List Byte} (h : Carries c b) (s : State) :
    exec c s = .next (live (takeRequest c) s) := by
  cases c with
  | readLine | readStation | readPeers | readResults | barLine | unbarLine | setTag | clearTag | loadStep | loadStepEmpty
  | submitRun | cancelRun | clearFault | clearFaultLatch | realign | restart | unknown => rfl
  | _ => exact h.elim nofun nofun

theorem contentsOf_eq {c : Instr} {b : List Byte} (h : Carries c b) : contentsOf c = b := by
  rcases h with h | rfl
  · unfold contentsOf; split
    · cases h
    · rw [h, Option.getD_some]
  · rfl

section
variable {s : State} {length received : Nat} {kept : List Byte} (hrun : s.power = .running)
  (hrx : s.store.uplinkRx = .request length kept received)

include hrx

/-- A request taken ends the MGMT frame that has brought it (R101). -/
theorem request_endsFrame (f : State → State) : request f s = request f (setUplinkRx .idle s) := by
  have hends : setStore endRequestFrame s = setUplinkRx .idle s := by
    simp only [setStore, endRequestFrame, hrx, setUplinkRx]
  rw [request, hends]; rfl

/-- A request command, while an MGMT frame is in reception, acts as what the frame is received as (assumption 17). -/
theorem asReceived_eq {c : Instr} {b : List Byte} (h : Carries c b) : asReceived s c =
    if received = 0 ∧ length = b.length then c else .unknown ((kept ++ b).take 64) := by
  rw [← contentsOf_eq h, asReceived, hrx]

include hrun

/-- A request taken at the end of an MGMT frame is the same as one taken with no frame in reception. -/
theorem exec_between_frames {c : Instr} {b : List Byte} (h : Carries c b) :
    exec c (setUplinkRx .idle s) = .next (settle (request (requestEffect c) s)) := by
  have hidle : (setUplinkRx .idle s).power = .running := hrun
  rw [exec_eq_takeRequest h, live_running hidle, request_endsFrame hrx]; rfl

theorem exec_frameReceptionEnd_request {c : Instr} {b rest : List Byte} (hc : Carries c b) (hrest : rest.length ≤ 255)
    (h : carried length kept received rest = c) :
    exec (.frameReceptionEnd .uplink rest) s = exec c (setUplinkRx .idle s) := by
  have htake : takeFrameEnd .uplink rest s = request (requestEffect c) s := by
    simp only [takeFrameEnd, hrx, List.take_of_length_le hrest, h]
  rw [exec_between_frames hrun hrx hc, exec, execFrameReceptionEnd, live_running hrun, htake]

theorem exec_requestCommand {c d : Instr} {b u : List Byte} (hc : Carries c b) (hd : Carries d u)
    (h : asReceived s c = d) : exec c s = exec d (setUplinkRx .idle s) := by
  rw [exec_between_frames hrun hrx hd, exec_eq_takeRequest hc, live_running hrun, takeRequest, h]

/-- The first contents byte of an MGMT frame is counted and kept; one after it does nothing (assumption 4). -/
theorem exec_firstCellAdmission_request (x : Byte) : exec (.firstCellAdmission .uplink x) s = .next (settle
    (if received = 0 then setUplinkRx (.request length ((kept ++ [x]).take 64) 1) s else s)) := by
  have htake : admitUplink x s = if received = 0 then setUplinkRx (.request length ((kept ++ [x]).take 64) 1) s else s := by
    unfold admitUplink
    cases received with
    | zero => simp only [hrx]; rfl
    | succ n => simp only [hrx]; rfl
  rw [exec, execFirstCellAdmission, live_running hrun, admitFirst, htake]

theorem exec_furtherCellNeeded_request (x : Vector Byte 256) : exec (.furtherCellNeeded .uplink x) s = .next (settle
    (setUplinkRx (.request length ((kept ++ x.toList).take 64) (received + 256)) s)) := by
  have htake : growUplink x.toList s =
      setUplinkRx (.request length ((kept ++ x.toList).take 64) (received + 256)) s := by
    simp only [growUplink, hrx, keepRequest, Vector.length_toList]
  rw [exec, execFurtherCellNeeded, live_running hrun, growFrame, htake]

end

/-- Settles O55: the contents of a request read back argument by argument, and the commands that bring them are those of
the request that the frame carries. -/
theorem everyEncodedRequestReadsBack : Obligations.EveryEncodedRequestReadsBack := by
  unfold Obligations.EveryEncodedRequestReadsBack
  intro fixed
  have hfixed : fixed = kindLength := rfl
  clear_value fixed
  subst hfixed
  refine ⟨fun c b hwf h => ?_, fun length received b => ⟨decodeRequest_unknown, decodeRequest_ne_unknown⟩,
    fun s length kept received hrun hrx => ⟨exec_firstCellAdmission_request hrun hrx,
      exec_furtherCellNeeded_request hrun hrx, fun rest hrest => ⟨fun c hwf h hreceived hlength => ?_, fun hbad => ?_⟩,
      fun c b h => ?_⟩⟩
  · have hargs := decodeArguments_encodeRequest hwf h
    have hkind := kindLength_of_decodeArguments hargs
    exact ⟨(kindLength_le hkind).trans (by decide), hkind, decodeRequest_of_decodeArguments hargs⟩
  · subst hreceived hlength
    exact exec_frameReceptionEnd_request hrun hrx (.inl h) hrest (carried_request hwf h)
  · exact exec_frameReceptionEnd_request hrun hrx (.inr rfl) hrest (carried_unknown hbad)
  · have hreceived := asReceived_eq hrx h
    split
    · next hall =>
      exact exec_requestCommand hrun hrx h h (hreceived.trans (if_pos hall))
    · next hpart =>
      exact exec_requestCommand hrun hrx h (.inr rfl) (hreceived.trans (if_neg hpart))

end Sys2Proof.Machine

/-! What the frames and the reports of the part leave alone of all that supervision and the test sequencer read and write. -/

namespace Sys2Proof.Machine

/-! ### The part of the state that supervision and the test sequencer share -/

/-- A line record with all that frames, run records and the derivation of its service state change set aside. -/
def bareLine (r : LineRec) : LineRec :=
  { r with
    test := .none, service := .vacant, demand := 0, admissionDrop := 0, ageDiscard := 0, flush := 0, unmapped := 0 }

/-- Supervision and the bare line records, which the test sequencer does not write unless it holds the bus. -/
structure Watch where
  sup : Table Supervision 12
  line : Line → LineRec

def watch (s : State) : Watch := ⟨s.sup, fun k => bareLine (lineOf s k)⟩

/-- Supervision and the bare line records, with the blocks that a cause is raised to and the settings. -/
structure Sight where
  watch : Watch
  time : Nat
  loader : Loader
  claims : Claims
  seq : Sequencer
  meas : Measurement

def sight (s : State) : Sight := ⟨watch s, s.time, s.loader, s.claims, s.seq, s.meas⟩

section
variable {s t : State}

theorem sight_eq (hwatch : watch t = watch s) (htime : t.time = s.time) (hloader : t.loader = s.loader)
    (hclaims : t.claims = s.claims) (hseq : t.seq = s.seq) (hmeas : t.meas = s.meas) : sight t = sight s := by
  simp only [sight, hwatch, htime, hloader, hclaims, hseq, hmeas]

theorem watch_eq (hsup : t.sup = s.sup) (hline : ∀ k, bareLine (lineOf t k) = bareLine (lineOf s k)) :
    watch t = watch s := by
  simp only [watch, hsup, hline]

theorem supOf_of_watch (h : watch t = watch s) (k : Line) : supOf t k = supOf s k :=
  congrArg (fun x : Watch => look x.sup k) h

theorem bareLine_of_watch (h : watch t = watch s) (k : Line) : bareLine (lineOf t k) = bareLine (lineOf s k) :=
  congrArg (fun x : Watch => x.line k) h

theorem watch_of_sight (h : sight t = sight s) : watch t = watch s := congrArg Sight.watch h
theorem seq_of_sight (h : sight t = sight s) : t.seq = s.seq := congrArg Sight.seq h
theorem claims_of_sight (h : sight t = sight s) : t.claims = s.claims := congrArg Sight.claims h
theorem time_of_sight (h : sight t = sight s) : t.time = s.time := congrArg Sight.time h
theorem settings_of_sight (h : sight t = sight s) : t.settings = s.settings :=
  congrArg (fun x : Sight => x.loader.settings) h

/-- What a bare record shows of a line's record. -/
structure SameMarks (r x : LineRec) : Prop where
  equipped : x.equipped = r.equipped
  hazard : x.hazard = r.hazard
  sync : x.sync = r.sync
  attainable : x.attainable = r.attainable
  es : x.es = r.es
  ses : x.ses = r.ses

theorem sameMarks_of_bareLine {r x : LineRec} (h : bareLine x = bareLine r) : SameMarks r x := by
  simp only [bareLine, LineRec.mk.injEq] at h
  obtain ⟨hequipped, -, -, hhazard, hsync, -, -, -, -, hattainable, hes, hses, -⟩ := h
  exact ⟨hequipped, hhazard, hsync, hattainable, hes, hses⟩

theorem marks_of_sight (h : sight t = sight s) (k : Line) : SameMarks (lineOf s k) (lineOf t k) :=
  sameMarks_of_bareLine (bareLine_of_watch (watch_of_sight h) k)

theorem supOf_of_sight (h : sight t = sight s) (k : Line) : supOf t k = supOf s k :=
  supOf_of_watch (watch_of_sight h) k

end

/-! ### Blocks that it does not hold -/

section
variable (s : State)

@[simp] theorem sight_setStore (f : Store → Store) : sight (setStore f s) = sight s := rfl
@[simp] theorem sight_setSched (f : Scheduler → Scheduler) : sight (setSched f s) = sight s := rfl
@[simp] theorem sight_setDist (f : Distributor → Distributor) : sight (setDist f s) = sight s := rfl
@[simp] theorem sight_withCells (u : State) : sight (withCells s u) = sight s := rfl

theorem watch_setLine (l : Line) {f : LineRec → LineRec} (hf : ∀ r, bareLine (f r) = bareLine r) :
    watch (setLine l f s) = watch s :=
  watch_eq rfl fun k => by rw [lineOf_setLine]; split <;> simp only [hf]

theorem sight_setLine (l : Line) {f : LineRec → LineRec} (hf : ∀ r, bareLine (f r) = bareLine r) :
    sight (setLine l f s) = sight s := sight_eq (watch_setLine s l hf) rfl rfl rfl rfl rfl

theorem sight_of_undisturbed {s t : State} (h : Undisturbed s t) : sight t = sight s :=
  sight_eq (watch_eq h.sup fun k => (congrArg bareLine (h.lines k) :)) h.clocks.1 h.loader h.claims h.seq h.meas

@[simp] theorem sight_queueReport (body : ReportBody) : sight (queueReport body s) = sight s :=
  sight_of_undisturbed (queueReport_frame body s).1
@[simp] theorem sight_releaseEntries (es : List Entry) : sight (releaseEntries es s) = sight s :=
  sight_of_undisturbed (releaseEntries_frame es s).1
@[simp] theorem sight_releaseChain (cells : List CellNo) : sight (releaseChain cells s) = sight s :=
  sight_of_undisturbed (releaseChain_frame cells s).1
@[simp] theorem sight_settle : sight (settle s) = sight s := sight_of_undisturbed (undisturbed_settle s)

/-! ### Lines that leave service (R7 to R12) -/

@[simp] theorem sight_countDrop (l : Line) : sight (countDrop l s) = sight s := sight_setLine s l fun _ => rfl
@[simp] theorem sight_countFlood : sight (countFlood s) = sight s := rfl

@[simp] theorem sight_flushLine (l : Line) : sight (flushLine l s) = sight s := by
  unfold flushLine; dsimp only
  rw [sight_releaseEntries, sight_setLine _ l (by exact fun _ => rfl), sight_setStore]

@[simp] theorem sight_dropLineRx (l : Line) : sight (dropLineRx l s) = sight s := by
  unfold dropLineRx; split <;> simp

@[simp] theorem sight_dropUplinkRx (l : Line) : sight (dropUplinkRx l s) = sight s := by
  unfold dropUplinkRx; split
  · split <;> simp
  · split
    · dsimp only; split <;> simp
    · rfl
  · rfl

@[simp] theorem sight_abandonFrame (l : Line) : sight (abandonFrame l s) = sight s := by
  unfold abandonFrame; split
  · rw [sight_releaseChain, sight_setLine _ l (by exact fun _ => rfl), sight_setDist]
  · rfl

@[simp] theorem sight_stopLine (l : Line) : sight (stopLine l s) = sight s := by
  obtain ⟨sc, hstop, -⟩ := stopLine_eq l s
  rw [hstop]; rfl

@[simp] theorem sight_leaveService (l : Line) : sight (leaveService l s) = sight s := by
  unfold leaveService
  rw [sight_setLine _ l (by exact fun _ => rfl)]
  simp

variable {s}

/-- The effects of a change to a service state other than TESTING. -/
theorem sight_serviceEffects (l : Line) (old : Service) {new : Service} (hnew : new ≠ .testing) :
    sight (serviceEffects l old new s) = sight s := by
  by_cases h : inService old = true ∧ inService new = false
  · rw [serviceEffects_leaving l s h.1 h.2, if_neg hnew, sight_leaveService]
  · rw [serviceEffects_staying l s h, if_neg hnew]; split <;> rfl

/-- The derivation on a line that does not enter TESTING. -/
theorem sight_rederive {l : Line} (h : deriveService (lineOf s l) = .testing → (lineOf s l).service = .testing) :
    sight (rederive l s) = sight s := by
  by_cases hsame : (lineOf s l).service = deriveService (lineOf s l)
  · rw [rederive_same hsame]
  · obtain ⟨u, hu⟩ := rederive_eq_withCells hsame
    have hnew : deriveService (lineOf s l) ≠ .testing := fun hd => hsame ((h hd).trans hd.symm)
    rw [hu, sight_withCells, rederived, sight_serviceEffects l _ hnew, sight_setLine s l (by exact fun _ => rfl)]

end

/-! ### Changes of one line made alike -/

section
variable {s t : State} {l : Line}

theorem sight_setSup_congr (f : Supervision → Supervision) (h : sight t = sight s) :
    sight (setSup l f t) = sight (setSup l f s) := by
  obtain ⟨hwatch, htime, hloader, hclaims, hseq, hmeas⟩ := Sight.mk.inj h
  have hsup : t.sup = s.sup := congrArg Watch.sup hwatch
  exact sight_eq (watch_eq (by simp only [setSup_sup, hsup]) fun k => by exact bareLine_of_watch hwatch k)
    htime hloader hclaims hseq hmeas

/-- A change of the record that does not read what has been set aside. -/
theorem sight_setLine_congr {f : LineRec → LineRec} (hf : ∀ r, bareLine (f (bareLine r)) = bareLine (f r))
    (h : sight t = sight s) :
    sight (setLine l f t) = sight (setLine l f s) := by
  obtain ⟨hwatch, htime, hloader, hclaims, hseq, hmeas⟩ := Sight.mk.inj h
  refine sight_eq (watch_eq (congrArg Watch.sup hwatch) fun k => ?_) htime hloader hclaims hseq hmeas
  have hline := bareLine_of_watch hwatch k
  rw [lineOf_setLine, lineOf_setLine]; split
  · rw [← hf, hline, hf]
  · exact hline

end

end Sys2Proof.Machine

/-! Reports by the blocks that they read, and run records as a TRIGGERED run enters the queue (R119, R120, R142, R144, R146,
R148). -/

namespace Sys2Proof.Machine

/-! ### Reports (R167, R168) -/

section
variable {s t : State}

theorem offerUpTo_congr (n : Nat) (htime : t.time = s.time) (hstore : t.store = s.store) (hmgmt : t.mgmt = s.mgmt) :
    (offerUpTo n t).mgmt = (offerUpTo n s).mgmt ∧ (offerUpTo n t).store = (offerUpTo n s).store := by
  induction n generalizing s t with
  | zero => exact ⟨hmgmt, hstore⟩
  | succ n ih =>
    unfold offerUpTo
    rw [hmgmt, hstore]; split
    · exact ⟨hmgmt, hstore⟩
    · next r rest _ =>
      split
      · exact ih (s := sendReport r rest s) (t := sendReport r rest t) htime
          (by simp only [sendReport, setMgmt_store, setStore_store, htime, hstore, hmgmt])
          (by simp only [sendReport, setMgmt_mgmt, setStore_mgmt, hmgmt])
      · exact ⟨hmgmt, hstore⟩

/-- A report depends on the time, the frame store and the reports that wait alone. -/
theorem queueReport_congr (body : ReportBody) (htime : t.time = s.time) (hstore : t.store = s.store)
    (hmgmt : t.mgmt = s.mgmt) : (queueReport body t).mgmt = (queueReport body s).mgmt ∧
      (queueReport body t).store = (queueReport body s).store := by
  unfold queueReport
  dsimp only
  rw [htime, hmgmt]; split
  · exact ⟨by simp only [setMgmt_mgmt, hmgmt], hstore⟩
  · split
    · rw [offer, offer, setMgmt_mgmt, setMgmt_mgmt, hmgmt]
      exact offerUpTo_congr _ htime hstore (by simp only [setMgmt_mgmt, hmgmt])
    · exact ⟨by simp only [setMgmt_mgmt, hmgmt], hstore⟩

end

/-! ### Records of runs (R142, R148) -/

section
variable {s : State} (r : Run) (o : RunOutcome) (k : Slot)

/-- A TRIGGERED run that ends starts its line's holdoff (R152). -/
theorem endRecord_seq (s : State) : (endRecord r o k s).seq = { s.seq with
    holdoffs := if r.origin = .triggered then
      put s.seq.holdoffs r.line (some (s.time + 60000 * s.settings.holdoff)) else s.seq.holdoffs } := by
  have hseq : (queueReport (.runEnded r o k) s).seq = s.seq := (queueReport_frame _ s).1.seq
  have htriggered : isTriggered r = true ↔ r.origin = .triggered := by simp [isTriggered]
  simp only [endRecord, htriggered, Nat.mul_comm 60000]
  split
  · rw [setSeq_seq, setMeas_seq, hseq]
  · exact hseq

theorem endRecord_lastRun (s : State) :
    look (endRecord r o k s).meas.lastRuns r.line = some ⟨r.id, r.origin, o, s.time⟩ := by
  unfold endRecord; dsimp only; split <;> exact look_put_same _ _ _

theorem endRecord_reports (s : State) : (endRecord r o k s).mgmt = (queueReport (.runEnded r o k) s).mgmt ∧
    (endRecord r o k s).store = (queueReport (.runEnded r o k) s).store := by
  unfold endRecord; dsimp only; split <;> exact ⟨rfl, rfl⟩

theorem watch_endRecord (s : State) : watch (endRecord r o k s) = watch s := by
  have hreport := watch_of_sight (sight_queueReport s (.runEnded r o k))
  unfold endRecord; dsimp only; split <;> exact hreport

theorem watch_refreshTests (s : State) : watch (refreshTests s) = watch s :=
  watch_eq rfl fun k => by rw [refreshTests, lineOf_setAllLines]; split <;> rfl

theorem refreshTests_service (s : State) (l : Line) : (lineOf (refreshTests s) l).service = (lineOf s l).service := by
  rw [refreshTests, lineOf_setAllLines]; split <;> rfl

/-- With room in the queue (R142). -/
theorem enterFront_room (h : s.seq.queue.length < 16) :
    enterFront r s = refreshTests (setSeq (fun q => { q with queue := placeFront q.queue r }) s) := by
  have hroom : roomIn s.seq.queue = s.seq.queue := if_pos h
  have hnone : displaced s.seq.queue = none := if_pos h
  simp only [enterFront, hnone, setSeq, hroom]

/-- At a full queue (R142): the run at the tail ends CANCELLED. -/
theorem enterFront_full {body : List Run} {d : Run} (hq : s.seq.queue = body ++ [d]) (h : 16 ≤ s.seq.queue.length) :
    enterFront r s = refreshTests (endRecord d .cancelled (firstSlot d)
      (setSeq (fun q => { q with queue := placeFront body r }) s)) := by
  have hroom : roomIn s.seq.queue = body :=
    (if_neg (Nat.not_lt.mpr h)).trans (by rw [hq, List.dropLast_concat])
  have hlast : displaced s.seq.queue = some d :=
    (if_neg (Nat.not_lt.mpr h)).trans (by rw [hq, List.getLast?_concat])
  simp only [enterFront, hlast, setSeq, hroom]

theorem enterFront_room_frame (h : s.seq.queue.length < 16) : (enterFront r s).mgmt = s.mgmt ∧
    ∀ k, (lineOf (enterFront r s) k).service = (lineOf s k).service ∧
      (lineOf (enterFront r s) k).hazard = (lineOf s k).hazard := by
  rw [enterFront_room r h]
  exact ⟨rfl, fun k => ⟨refreshTests_service _ k, refreshTests_hazard _ k⟩⟩

theorem enterFront_room_seq (h : s.seq.queue.length < 16) :
    (enterFront r s).seq = { s.seq with queue := placeFront s.seq.queue r } := by rw [enterFront_room r h]; rfl

theorem enterFront_full_seq {body : List Run} {d : Run} (hq : s.seq.queue = body ++ [d])
    (h : 16 ≤ s.seq.queue.length) : (enterFront r s).seq = { s.seq with
      queue := placeFront body r
      holdoffs := if d.origin = .triggered then
        put s.seq.holdoffs d.line (some (s.time + 60000 * s.settings.holdoff)) else s.seq.holdoffs } := by
  rw [enterFront_full r hq h]
  exact endRecord_seq _ _ _ _

theorem enterFront_active (s : State) :
    (enterFront r s).seq.active = s.seq.active ∧ (enterFront r s).seq.closing = s.seq.closing := by
  unfold enterFront; dsimp only; split
  · next d _ =>
    have hseq := endRecord_seq d .cancelled (firstSlot d)
      (setSeq (fun q => { q with queue := placeFront (roomIn q.queue) r }) s)
    exact ⟨(congrArg Sequencer.active hseq :), (congrArg Sequencer.closing hseq :)⟩
  · exact ⟨rfl, rfl⟩

theorem watch_enterFront (s : State) : watch (enterFront r s) = watch s := by
  unfold enterFront; rw [watch_refreshTests]; split
  · rw [watch_endRecord]; rfl
  · rfl

theorem enterFront_claims (s : State) : (enterFront r s).claims = s.claims := by
  unfold enterFront; rw [refreshTests_claims]; split
  · rw [endRecord_claims]; rfl
  · rfl

theorem firstSlot_eq : firstSlot r = if r.status = .suspended then r.resume.getD r.start else r.start := by
  unfold firstSlot
  cases r.status with
  | suspended => rfl
  | _ => rfl

/-- An OPERATOR run returned to the queue stands behind the TRIGGERED run that displaces it (R142, R146). -/
theorem placeFront_behind (q : List Run) (a : Run) (hr : isTriggered r = true) :
    placeFront (placeFront q r) a = q.takeWhile isTriggered ++ r :: a :: q.dropWhile isTriggered := by
  induction q with
  | nil => simp [placeFront, hr]
  | cons x q ih =>
    by_cases hx : isTriggered x = true
    · simp only [placeFront, List.takeWhile_cons_of_pos hx, List.dropWhile_cons_of_pos hx, List.cons_append,
        List.cons.injEq, true_and] at ih ⊢
      exact ih
    · simp [placeFront, hr, hx]

end

/-! ### Triggered requests (R119, R120, R144) -/

/-- The conditions that suppress a cause of a line (R119, R120). -/
def Suppressed (l : Line) (s : State) : Prop :=
  let holds (r : Run) := r.origin = .triggered ∧ r.line = l
  s.settings.triggerDelay = 0 ∨ (lineOf s l).equipped = false ∨ look s.seq.holdoffs l ≠ none ∨
    s.seq.latch = true ∨ (lineOf s l).hazard = true ∨ (∃ r ∈ s.seq.queue, holds r) ∨
    (∃ a, s.seq.active = some a ∧ holds a.run)

/-- The TRIGGERED run that a cause forms (R144). -/
def triggeredRun (l : Line) (c : Cause) (s : State) : Run :=
  ⟨assignedId s.seq, l, s.settings.triggerSlot, .triggered, .new, none, true, some c, 0, 0⟩

section
variable {l : Line} {c : Cause} {s : State}

theorem raiseTrigger_suppressed (h : Suppressed l s) : raiseTrigger l c s = s := by
  unfold raiseTrigger
  refine if_pos ?_
  simpa [Suppressed, isTriggered, Option.isSome_iff_ne_none] using h

theorem raiseTrigger_raised (h : ¬ Suppressed l s) : raiseTrigger l c s = triggeredRequest l c s := by
  unfold raiseTrigger
  refine if_neg ?_
  simpa [Suppressed, isTriggered, Option.isSome_iff_ne_none] using h

theorem latch_of_not_suppressed (h : ¬ Suppressed l s) : s.seq.latch = false :=
  Bool.eq_false_iff.mpr fun hl => h (.inr (.inr (.inr (.inl hl))))

/-- With a MALFORMED chain the run is ended at once (R144). -/
theorem raiseTrigger_malformed (h : ¬ Suppressed l s)
    (hgood : (chainFrom s.seq.steps s.settings.triggerSlot).good = false) : raiseTrigger l c s =
      endRecord (triggeredRun l c s) .malformed s.settings.triggerSlot (takeId s) := by
  rw [raiseTrigger_raised h, triggeredRequest, latch_of_not_suppressed h]
  simp only [newRun, hgood]
  rfl

/-- With a good one it enters the queue, where it may take the place of an OPERATOR run that waits for the bus (R144,
R146). -/
theorem raiseTrigger_queues (h : ¬ Suppressed l s)
    (hgood : (chainFrom s.seq.steps s.settings.triggerSlot).good = true) : raiseTrigger l c s =
      activate (displaceWaiting (enterFront (triggeredRun l c s) (takeId s))) := by
  rw [raiseTrigger_raised h, triggeredRequest, latch_of_not_suppressed h]
  simp only [newRun, hgood]
  rfl

/-- A TRIGGERED run, and one that no longer waits for the bus, keeps its place (R146). -/
theorem displaceWaiting_stays (h : ∀ a, s.seq.active = some a → a.phase ≠ .waitingBus ∨ a.run.origin = .triggered) :
    displaceWaiting s = s := by
  unfold displaceWaiting; split
  · next a ha =>
    refine if_neg fun hwaits => ?_
    rcases h a ha with hphase | htriggered
    · exact hphase hwaits.1
    · rw [htriggered] at hwaits; cases hwaits.2
  · rfl

theorem displaceWaiting_returns {a : Active} (ha : s.seq.active = some a) (hphase : a.phase = .waitingBus)
    (ho : a.run.origin = .operator) : displaceWaiting s = enterFront a.run (clearActive s) := by
  simp only [displaceWaiting, ha, hphase, ho]
  rfl

/-- No run is activated while the record of one that has returned to the queue discharges (R146, R150). -/
theorem activate_closing (h : s.seq.closing ≠ none) : activate s = s := by
  unfold activate
  cases s.seq.queue.length with
  | zero => rfl
  | succ n => exact if_pos (by simp [Option.isSome_iff_ne_none.mpr h])

/-- Where no OPERATOR run waits for the bus, the run keeps the place that it has found (R142, R146). -/
theorem raiseTrigger_stands (h : ¬ Suppressed l s)
    (hgood : (chainFrom s.seq.steps s.settings.triggerSlot).good = true)
    (hactive : ∀ a, s.seq.active = some a → a.phase ≠ .waitingBus ∨ a.run.origin = .triggered) :
    raiseTrigger l c s = activate (enterFront (triggeredRun l c s) (takeId s)) := by
  rw [raiseTrigger_queues h hgood, displaceWaiting_stays]
  rw [(enterFront_active _ _).1]
  exact hactive

/-- And with a run active, or one that discharges, nothing is activated. -/
theorem raiseTrigger_behind (h : ¬ Suppressed l s)
    (hgood : (chainFrom s.seq.steps s.settings.triggerSlot).good = true)
    (hactive : ∀ a, s.seq.active = some a → a.phase ≠ .waitingBus ∨ a.run.origin = .triggered)
    (hbusy : s.seq.active ≠ none ∨ s.seq.closing ≠ none) :
    raiseTrigger l c s = enterFront (triggeredRun l c s) (takeId s) := by
  rw [raiseTrigger_stands h hgood hactive]
  obtain ⟨ha, hc⟩ := enterFront_active (triggeredRun l c s) (takeId s)
  rcases hbusy with hbusy | hbusy
  · exact activate_active (by rw [ha]; exact hbusy)
  · exact activate_closing (by rw [hc]; exact hbusy)

/-- The state in which an OPERATOR run that waits for the bus has returned to the queue behind the run that takes its
place. -/
def displacedBy (r : Run) (a : Active) (s : State) : State :=
  enterFront a.run (clearActive (enterFront r (takeId s)))

/-- With room for both, the queue holds the TRIGGERED run and then the returned one; nothing ends. -/
theorem displacedBy_seq {r : Run} (a : Active) (hr : isTriggered r = true) (hroom : s.seq.queue.length < 15) :
    (displacedBy r a s).seq = { s.seq with
      counter := assignedId s.seq, active := none
      queue := s.seq.queue.takeWhile isTriggered ++ r :: a.run :: s.seq.queue.dropWhile isTriggered } ∧
    (displacedBy r a s).mgmt = s.mgmt ∧
    ∀ k, (lineOf (displacedBy r a s) k).service = (lineOf s k).service ∧
      (lineOf (displacedBy r a s) k).hazard = (lineOf s k).hazard := by
  have hfirst := enterFront_room_seq (s := takeId s) r (Nat.lt_succ_of_lt hroom)
  obtain ⟨hmgmt, hlines⟩ := enterFront_room_frame (s := takeId s) r (Nat.lt_succ_of_lt hroom)
  have hseq : (clearActive (enterFront r (takeId s))).seq = { s.seq with
      counter := assignedId s.seq, active := none, queue := placeFront s.seq.queue r } := by
    rw [clearActive, setSeq_seq, hfirst]; rfl
  have hroom' : (clearActive (enterFront r (takeId s))).seq.queue.length < 16 := by
    rw [hseq]; exact (placeFront_length _ r).trans_lt (Nat.succ_lt_succ hroom)
  obtain ⟨hmgmt', hlines'⟩ := enterFront_room_frame a.run hroom'
  refine ⟨?_, hmgmt'.trans hmgmt, fun k => ⟨(hlines' k).1.trans (hlines k).1, (hlines' k).2.trans (hlines k).2⟩⟩
  rw [displacedBy, enterFront_room_seq _ hroom', hseq, placeFront_behind _ _ _ hr]

theorem displacedBy_claims (r : Run) (a : Active) (s : State) : (displacedBy r a s).claims = s.claims :=
  (enterFront_claims _ _).trans (enterFront_claims _ _)

/-- An OPERATOR run that waits for the bus returns to the queue, behind the run that takes its place (R142, R146). -/
theorem raiseTrigger_displaces {a : Active} (h : ¬ Suppressed l s)
    (hgood : (chainFrom s.seq.steps s.settings.triggerSlot).good = true) (ha : s.seq.active = some a)
    (hphase : a.phase = .waitingBus) (ho : a.run.origin = .operator) : raiseTrigger l c s =
      activate (displacedBy (triggeredRun l c s) a s) := by
  rw [raiseTrigger_queues h hgood, displaceWaiting_returns _ hphase ho]
  · rfl
  rw [(enterFront_active _ _).1]
  exact ha

end

end Sys2Proof.Machine

/-! SEARCH, and the loss-of-signal trigger timer (R107 to R109, R115, R119, R120, R142, R144, R146, R152). -/

namespace Sys2Proof.Machine

/-! ### A sync condition taken (R115, R117) -/

/-- The window in progress behind a sync condition taken: a change to or from OUT discards it (R117). -/
def windowAfter (old new : Sync) (w : Window) : Window :=
  if new ≠ old ∧ (new = .outOfSync ∨ old = .outOfSync) then ⟨0, 0⟩ else w

/-- The supervision of a line whose sync condition has taken a value: the window, and the trigger timer as it has been
started, stopped or left (R117, R119). -/
def syncedSup (old new : Sync) (start : Option Nat) (x : Supervision) : Supervision :=
  { x with window := windowAfter old new x.window, timerFrom := start }

section
variable {s t : State} {l : Line} {new : Sync}

theorem serviceDerived_of_leads {sc : Scope} (h : Leads sc s t) (hs : ServiceDerived s) : ServiceDerived t :=
  h.keeps (fun _ _ c => c.keeps_serviceDerived) hs

/-- A line does not enter TESTING by its sync condition (R7). -/
theorem testing_of_setLine_sync (h : (lineOf s l).service = deriveService (lineOf s l)) {f : Supervision → Supervision}
    (hd : deriveService (lineOf (setSup l f (setLine l (fun r => { r with sync := new }) s)) l) = .testing) :
    (lineOf (setSup l f (setLine l (fun r => { r with sync := new }) s)) l).service = .testing := by
  rw [lineOf_setSup, lineOf_setLine_same] at hd ⊢
  rw [deriveService_eq] at hd
  change (lineOf s l).service = _
  rw [h, deriveService_eq]
  cases new <;> split_ifs at hd ⊢ <;> simp_all

theorem setLine_same {f : LineRec → LineRec} (h : f (lineOf s l) = lineOf s l) : setLine l f s = s := by
  unfold lineOf at h
  simp only [setLine, alter_same h]

/-- The trigger timer followed is its start set. -/
theorem followTimer_sets (l : Line) (s : State) :
    ∃ start, followTimer l s = setSup l (fun x => { x with timerFrom := start }) s :=
  ⟨if timerRuns s l then some ((supOf s l).timerFrom.getD s.time) else none, rfl⟩

theorem setSync_changed (h : new ≠ (lineOf s l).sync) : setSync l new s = followTimer l (rederive l
    (setSup l (fun x => { x with window := windowAfter (lineOf s l).sync new x.window })
      (setLine l (fun r => { r with sync := new }) s))) := by
  unfold setSync; dsimp only
  rw [if_neg h]
  by_cases hout : new = .outOfSync ∨ (lineOf s l).sync = .outOfSync
  · simp only [windowAfter, hout, h, ne_eq, not_false_eq_true, and_self, if_true]
  · simp only [windowAfter, hout, and_false, if_false]
    rw [setSup_same (by rfl)]

/-- What the sync condition taken shows: the value, the window and the trigger timer. -/
theorem sight_setSync (h : (lineOf s l).service = deriveService (lineOf s l)) (new : Sync) :
    ∃ start, sight (setSync l new s) =
      sight (setSup l (syncedSup (lineOf s l).sync new start) (setLine l (fun r => { r with sync := new }) s)) := by
  by_cases hsame : new = (lineOf s l).sync
  · refine ⟨(supOf s l).timerFrom, ?_⟩
    rw [setLine_same (by rw [hsame]), setSup_same (by simp [syncedSup, windowAfter, hsame]), setSync]
    exact congrArg sight (if_pos hsame)
  · rw [setSync_changed hsame]
    obtain ⟨start, hstart⟩ := followTimer_sets l (rederive l
      (setSup l (fun x => { x with window := windowAfter (lineOf s l).sync new x.window })
        (setLine l (fun r => { r with sync := new }) s)))
    refine ⟨start, ?_⟩
    rw [hstart, sight_setSup_congr _ (sight_rederive (testing_of_setLine_sync h)), setSup_setSup]
    rfl

end

/-! ### SEARCH (R108, R109) -/

section
variable {l : Line} {s : State} {position : Nat}

theorem takeMarker_ignored (h : (supOf s l).suspended = true ∨ (supOf s l).aligned = true) :
    takeMarker l position s = s := by
  refine if_neg ?_
  rcases h with h | h <;> simp [searching, h]

theorem takeMarker_searching (hs : (supOf s l).suspended = false) (ha : (supOf s l).aligned = false) :
    takeMarker l position s = match searchResult s.settings.mimicCheck (supOf s l) position with
      | .pending => setSup l (recordMarker false position) s
      | .rejected => setSup l (recordMarker true position) s
      | .confirmed mimicked => confirm l mimicked position s := by
  unfold takeMarker
  exact if_pos (by simp [searching, hs, ha])

/-- The candidate that a marker follows (R108). -/
def Follows (x : Supervision) (position : Nat) : Prop := 48 ≤ position ∧ position - 48 ∈ x.candidates

/-- A marker between a candidate and the one that follows it (R108). -/
def Mimicked (x : Supervision) (position : Nat) : Prop := ∃ c ∈ x.candidates, position - 48 < c ∧ c < position

section
variable (hs : (supOf s l).suspended = false) (ha : (supOf s l).aligned = false)
include hs ha

theorem takeMarker_candidate (h : ¬ Follows (supOf s l) position) :
    takeMarker l position s = setSup l (recordMarker false position) s := by
  have hresult : searchResult s.settings.mimicCheck (supOf s l) position = .pending :=
    if_pos (by rw [Follows, not_and_or, Nat.not_le] at h; exact h)
  rw [takeMarker_searching hs ha, hresult]

/-- A marker that follows a candidate is rejected where the mimic check finds a mimic, and confirms it otherwise. -/
theorem takeMarker_follows (h : Follows (supOf s l) position) : ∃ b, (b = true ↔ Mimicked (supOf s l) position) ∧
    takeMarker l position s = if s.settings.mimicCheck = true ∧ b = true then setSup l (recordMarker true position) s
      else confirm l b position s := by
  obtain ⟨hpos, hmem⟩ := h
  refine ⟨(supOf s l).candidates.any fun c => decide (position - 48 < c) && decide (c < position), by simp [Mimicked], ?_⟩
  rw [takeMarker_searching hs ha, searchResult, if_neg (by simp [hmem]; omega)]
  simp only [Bool.and_eq_true]
  split_ifs <;> rfl

end

/-- The confirmation of a candidate (R109): what is reported of a moved offset is what the state before would report. -/
theorem confirm_moved {o : Nat} (mimicked : Bool) (ho : (supOf s l).lastOffset = some o) (hne : o ≠ position % 48) :
    confirm l mimicked position s = queueReport
      (.alignmentChange l o (position % 48) ((supOf s l).mimicRecord || mimicked))
      (setSup l (confirmMarker mimicked position) s) := by
  simp only [confirm, ho, if_neg hne, supOf_setSup_same]
  rfl

theorem confirm_kept (mimicked : Bool) (h : ∀ o ∈ (supOf s l).lastOffset, o = position % 48) :
    confirm l mimicked position s = setSup l (confirmMarker mimicked position) s := by
  unfold confirm; dsimp only; split
  · rfl
  · next o ho => exact if_pos (h o ho)

theorem sight_confirm (mimicked : Bool) :
    sight (confirm l mimicked position s) = sight (setSup l (confirmMarker mimicked position) s) := by
  unfold confirm; dsimp only; split
  · rfl
  · split
    · rfl
    · exact sight_queueReport _ _

end

/-! ### The commands of SEARCH -/

section
variable {l : Line} {s : State} {position : Nat}

theorem exec_searchTimeExpiry_not_due (hrun : s.power = .running) (h : ¬ Due s (.searchTimeExpiry l)) :
    exec (.searchTimeExpiry l) s = .next (settle s) :=
  exec_live hrun (whenDue_not (Bool.eq_false_iff.mpr fun hd => h ((searchTimeDue_iff s l).mp hd)) _)

theorem supOf_settle (s : State) (k : Line) : supOf (settle s) k = supOf s k := supOf_of_sight (sight_settle s) k

/-- The end of a search takes the line OUT (R107, R115). -/
theorem exec_searchTimeExpiry_due (hrun : s.power = .running) (h : Due s (.searchTimeExpiry l)) :
    exec (.searchTimeExpiry l) s = .next (settle (setSync l .outOfSync s)) :=
  exec_live hrun (whenDue_due ((searchTimeDue_iff s l).mpr h) _)

theorem not_inService_of_out {r : LineRec} (h : r.sync = .outOfSync) : inService (deriveService r) = false := by
  rw [deriveService_eq, h]
  split_ifs <;> rfl

/-- A line taken OUT is not in service, and of its supervision only the window and the trigger timer have changed. -/
theorem settle_setSync_out (hsync : (lineOf s l).sync ≠ .outOfSync) (hs : ServiceDerived s) :
    let t := settle (setSync l .outOfSync s)
    (lineOf t l).sync = .outOfSync ∧ inService (lineOf t l).service = false ∧
      supOf t l = { supOf s l with window := ⟨0, 0⟩, timerFrom := (supOf t l).timerFrom } ∧
      ∀ k, k ≠ l → supOf t k = supOf s k := by
  intro t
  obtain ⟨start, hsight⟩ := sight_setSync (hs l) .outOfSync
  have hsight := (sight_settle _).trans hsight
  have hout : (lineOf t l).sync = .outOfSync := by
    rw [(marks_of_sight hsight l).sync, lineOf_setSup, lineOf_setLine_same]
  have hderived : ServiceDerived t :=
    serviceDerived_of_undisturbed (undisturbed_settle _) (serviceDerived_of_leads (leads_setSync (sc := .none) l _ .refl) hs)
  have hsup : supOf t l = { supOf s l with window := ⟨0, 0⟩, timerFrom := start } := by
    rw [supOf_of_sight hsight, supOf_setSup_same, supOf_setLine, syncedSup, windowAfter,
      if_pos ⟨Ne.symm hsync, .inl rfl⟩]
  refine ⟨hout, ?_, ?_, fun k hk => ?_⟩
  · rw [hderived l]; exact not_inService_of_out hout
  · rw [hsup]
  · rw [supOf_of_sight hsight, supOf_setSup_ne _ _ _ _ hk.symm, supOf_setLine]

end

/-! ### The loss-of-signal trigger timer (R119, R120, R144) -/

/-- The trigger timer started again (R119). -/
def timed (l : Line) (s : State) : State := setSup l (fun x => { x with timerFrom := some s.time }) s

section
variable {l : Line} {s u : State}

theorem exec_losTriggerTimerExpiry_due (hrun : s.power = .running) (h : Due s (.losTriggerTimerExpiry l)) {t : State}
    (ht : raiseTrigger l .lossOfSignal (timed l s) = t) :
    exec (.losTriggerTimerExpiry l) s = .next (settle t) :=
  exec_live hrun ((whenDue_due ((losTimerDue_iff s l).mpr h) _).trans ht)

/-- A run ended in a state that has the time and the reports of `s`: its outcome, and its report. -/
theorem endRecord_ends (r : Run) (o : RunOutcome) (k : Slot) (htime : u.time = s.time) (hstore : u.store = s.store)
    (hmgmt : u.mgmt = s.mgmt) :
    look (endRecord r o k u).meas.lastRuns r.line = some ⟨r.id, r.origin, o, s.time⟩ ∧
    (endRecord r o k u).mgmt = (queueReport (.runEnded r o k) s).mgmt ∧
    (endRecord r o k u).store = (queueReport (.runEnded r o k) s).store := by
  obtain ⟨hm, hs⟩ := endRecord_reports r o k u
  obtain ⟨hm', hs'⟩ := queueReport_congr (.runEnded r o k) htime hstore hmgmt
  exact ⟨htime ▸ endRecord_lastRun r o k u, hm.trans hm', hs.trans hs'⟩

end

section
variable {l : Line} {s : State} {position : Nat}

/-- A confirmed candidate (R109): the line is aligned, and a moved offset is reported. -/
theorem confirm_aligns (b : Bool) (s1 : State) (hs1 : confirm l b position s = s1) :
    let t := settle s1
    (∀ o, (supOf s l).lastOffset = some o → o ≠ position % 48 →
      let reported := queueReport (.alignmentChange l o (position % 48) (supOf t l).mimic) s
      s1.mgmt = reported.mgmt ∧ s1.store = reported.store) ∧
    ((∀ o ∈ (supOf s l).lastOffset, o = position % 48) → s1.mgmt = s.mgmt ∧ s1.store = s.store) ∧
    supOf t l = confirmMarker b position (supOf s l) ∧ (∀ k, k ≠ l → supOf t k = supOf s k) ∧
    ∀ k, (lineOf t k).sync = (lineOf s k).sync := by
  intro t
  subst hs1
  have hsight : sight t = sight (setSup l (confirmMarker b position) s) := (sight_settle _).trans (sight_confirm b)
  have hsup : supOf t l = confirmMarker b position (supOf s l) := by
    rw [supOf_of_sight hsight, supOf_setSup_same]
  refine ⟨fun o ho hne => ?_, fun hkept => ?_, hsup, fun k hk => ?_, fun k => ?_⟩
  · rw [hsup, confirm_moved b ho hne]
    exact queueReport_congr _ rfl rfl rfl
  · rw [confirm_kept b hkept]
    exact ⟨rfl, rfl⟩
  · rw [supOf_of_sight hsight, supOf_setSup_ne _ _ _ _ hk.symm]
  · rw [(marks_of_sight hsight k).sync, lineOf_setSup]

end

theorem only_active {s : State} {a : Active} (ha : s.seq.active = some a) {P : Active → Prop} (h : P a) (b : Active)
    (hb : s.seq.active = some b) : P b := Option.some.inj (ha.symm.trans hb) ▸ h

/-- Settles O48: a marker by whether it follows a candidate and is mimicked, the end of the search by the sync condition
taken, and the cause by whether it is suppressed, by its chain, and by the place that the TRIGGERED run finds. -/
theorem searchAlignsOrTakesTheLineOut : Obligations.SearchAlignsOrTakesTheLineOut := by
  intro l s hrun x
  refine ⟨fun h position => ⟨exec_live hrun (takeMarker_ignored h), exec_searchTimeExpiry_not_due hrun fun hd => ?_⟩,
    fun position hs ha => ?_, fun hd hderived => ⟨_, exec_searchTimeExpiry_due hrun hd, settle_setSync_out hd.2.2.2 hderived⟩,
    fun hd => ?_, fun hd => exec_live hrun (whenDue_due ((holdoffDue_iff s l).mpr hd) _)⟩
  · obtain ⟨hs, ha, -⟩ := hd
    rcases h with h | h
    · exact absurd h (by rw [hs]; decide)
    · exact absurd h (by rw [ha]; decide)
  · intro follows mimicked recorded
    have hrecorded (b : Bool) : setSup l (recordMarker b position) s = recorded b := rfl
    refine ⟨fun hf => exec_live hrun ?_, fun hf hm hcheck => exec_live hrun ?_, fun hf hm => ?_⟩
    · rw [takeMarker_candidate hs ha hf, hrecorded]
    · obtain ⟨b, hb, htake⟩ := takeMarker_follows hs ha hf
      rw [htake, if_pos ⟨hcheck, hb.mpr hm⟩, hrecorded]
    · obtain ⟨b, hb, htake⟩ := takeMarker_follows hs ha hf
      rw [if_neg fun h => hm ⟨hb.mp h.2, h.1⟩] at htake
      obtain ⟨hmoved, hkept, hsup, hothers, hsync⟩ := confirm_aligns b _ htake.symm
      refine ⟨_, _, exec_live hrun rfl, rfl, hmoved, hkept, ?_⟩
      simp only [hsup]
      exact ⟨rfl, rfl, rfl, rfl, rfl, rfl, rfl, rfl, rfl, by simp [confirmMarker, hb, x, mimicked, Mimicked], hothers, hsync⟩
  · intro holds timed' suppressed good r ends triggered others
    refine ⟨fun h => exec_losTriggerTimerExpiry_due hrun hd (raiseTrigger_suppressed h), fun h hgood => ?_,
      fun h hgood hroom => ⟨fun a ha hkeeps => ?_, fun hnone => ?_⟩, fun body d a h hgood hq hfull ha hphase => ?_,
      fun a h hgood hroom ha hphase ho => ?_⟩
    · refine ⟨_, exec_losTriggerTimerExpiry_due hrun hd (raiseTrigger_malformed h hgood), ?_, ?_⟩
      · rw [endRecord_seq]
        rfl
      · exact endRecord_ends r .malformed _ rfl rfl rfl
    · have hbehind : raiseTrigger l .lossOfSignal (timed l s) = enterFront r (takeId (timed l s)) :=
        raiseTrigger_behind h hgood (only_active ha hkeeps) (.inl (Option.ne_none_iff_exists'.mpr ⟨a, ha⟩))
      refine ⟨_, exec_losTriggerTimerExpiry_due hrun hd hbehind, ?_, ?_⟩
      · exact (undisturbed_settle _).seq.trans (enterFront_room_seq r hroom)
      · rw [supOf_settle, supOf_of_watch (watch_enterFront r _)]
        exact congrArg Supervision.timerFrom (supOf_setSup_same l _ s)
    · refine ⟨_, exec_losTriggerTimerExpiry_due hrun hd (raiseTrigger_stands h hgood fun a ha => ?_), ?_, ?_, ?_⟩
      · exact nomatch hnone.symm.trans ha
      · exact enterFront_room_seq r hroom
      · exact enterFront_claims r _
      · exact (enterFront_room_frame (s := takeId (timed l s)) r hroom).1
    · have hbehind : raiseTrigger l .lossOfSignal (timed l s) = enterFront r (takeId (timed l s)) :=
        raiseTrigger_behind h hgood (only_active ha (.inl hphase)) (.inl (Option.ne_none_iff_exists'.mpr ⟨a, ha⟩))
      refine ⟨_, exec_losTriggerTimerExpiry_due hrun hd hbehind, enterFront_full_seq r hq hfull, ?_⟩
      rw [enterFront_full (s := takeId (timed l s)) r hq hfull, ← firstSlot_eq]
      exact endRecord_ends d .cancelled _ rfl rfl rfl
    · obtain ⟨hseq, hmgmt, hlines⟩ := displacedBy_seq (s := timed l s) (r := r) a rfl hroom
      exact ⟨_, exec_losTriggerTimerExpiry_due hrun hd (raiseTrigger_displaces h hgood ha hphase ho), hseq,
        displacedBy_claims r a _, hmgmt, hlines⟩

end Sys2Proof.Machine

/-! The end of a report position as it shows: the supervision and the record of the line behind it (R106, R110, R111, R113 to
R117). -/

namespace Sys2Proof.Machine

/-! ### A line's supervision and its record changed together -/

/-- The supervision of a line changed by `F`, and its record by `G`. -/
def supervise (l : Line) (F : Supervision → Supervision) (G : LineRec → LineRec) (s : State) : State :=
  setSup l F (setLine l G s)

section
variable {l : Line} {s t : State} {F F' : Supervision → Supervision} {G G' : LineRec → LineRec}

theorem supOf_supervise : supOf (supervise l F G s) l = F (supOf s l) := by
  rw [supervise, supOf_setSup_same, supOf_setLine]

theorem lineOf_supervise : lineOf (supervise l F G s) l = G (lineOf s l) := by
  rw [supervise, lineOf_setSup, lineOf_setLine_same]

theorem supervise_supervise :
    supervise l F' G' (supervise l F G s) = supervise l (F' ∘ F) (G' ∘ G) s := by
  simp only [supervise, setSup_setLine, setSup_setSup, setLine_setLine]
  rfl

theorem setSup_supervise : setSup l F' (supervise l F G s) = supervise l (F' ∘ F) G s := setSup_setSup _ _

/-- A change alone of the supervision. -/
theorem setSup_eq_supervise : setSup l F s = supervise l F id s := by rw [supervise, setLine_same rfl]

theorem setSup_congr (h : F' (supOf s l) = F (supOf s l)) : setSup l F' s = setSup l F s := by
  unfold setSup alter
  exact congrArg (fun x => { s with sup := put s.sup l x }) h

theorem supervise_congr (hF : F' (supOf s l) = F (supOf s l)) (hG : G' (lineOf s l) = G (lineOf s l)) :
    supervise l F' G' s = supervise l F G s := by
  rw [supervise, supervise, setLine_congr l G' G s hG]
  exact setSup_congr (by exact hF)

theorem supervise_same (hF : F (supOf s l) = supOf s l) (hG : G (lineOf s l) = lineOf s l) : supervise l F G s = s := by
  rw [supervise, setLine_same hG, setSup_same hF]

theorem sight_supervise_congr (hG : ∀ r, bareLine (G (bareLine r)) = bareLine (G r)) (h : sight t = sight s) :
    sight (supervise l F G t) = sight (supervise l F G s) := sight_setSup_congr F (sight_setLine_congr hG h)

end

/-! ### Flags and the sync decision (R113, R115) -/

/-- The four flags of a good report de-bounced. -/
def flagged (n : Nat) (w : BitVec 48) (x : Supervision) : Supervision :=
  { x with
    showtime := debounceFlag n (wordShowtime w) x.showtime
    signalLoss := debounceFlag n (wordSignalLoss w) x.signalLoss
    dyingGasp := debounceFlag n (wordDyingGasp w) x.dyingGasp
    remoteDefect := debounceFlag n (wordRemoteDefect w) x.remoteDefect }

/-- The sync condition that a good report decides. -/
def syncDecision (x : Supervision) (old : Sync) : Sync :=
  if x.showtime.value = false ∨ x.dyingGasp.value = true then .outOfSync
  else if old = .outOfSync then .inSync else old

section
variable {l : Line} {w : BitVec 48} {s : State}

theorem sight_alarmIfChanged (a : Alarm) (old new : Bool) (s : State) : sight (alarmIfChanged l a old new s) = sight s := by
  unfold alarmIfChanged; split
  · rfl
  · exact sight_queueReport _ _

theorem sight_debounceFlags (l : Line) (w : BitVec 48) (s : State) : ∃ start, sight (debounceFlags l w s) =
    sight (setSup l (fun x => { flagged s.settings.debounce w x with timerFrom := start }) s) := by
  unfold debounceFlags; dsimp only
  obtain ⟨start, hstart⟩ := followTimer_sets l _
  refine ⟨start, ?_⟩
  rw [hstart, sight_setSup_congr _ ((sight_alarmIfChanged _ _ _ _).trans ((sight_alarmIfChanged _ _ _ _).trans
    (sight_alarmIfChanged _ _ _ _))), setSup_setSup]
  rfl

theorem decideSync_eq (l : Line) (s : State) :
    decideSync l s = setSync l (syncDecision (supOf s l) (lineOf s l).sync) s := by
  have hcond : (!(supOf s l).showtime.value || (supOf s l).dyingGasp.value) = true ↔
      (supOf s l).showtime.value = false ∨ (supOf s l).dyingGasp.value = true := by simp
  simp only [decideSync, syncDecision, hcond]
  split_ifs
  · rfl
  · rfl
  · exact (if_pos rfl).symm

/-- A good report used: the sequence, the anomalies, the rate, the flags and the sync decision (R110). -/
theorem sight_useReport (hs : ServiceDerived s) :
    let y := flagged s.settings.debounce w (addAnomalies w (checkSequence w (supOf s l)))
    let new := syncDecision y (lineOf s l).sync
    ∃ start, sight (useReport l w s) = sight (supervise l
      (fun x => syncedSup (lineOf s l).sync new start
        (flagged s.settings.debounce w (addAnomalies w (checkSequence w x))))
      (fun r => { r with attainable := some (wordRate w * 8), sync := new }) s) := by
  intro y new
  let s1 := supervise l (fun x => addAnomalies w (checkSequence w x))
    (fun r => { r with attainable := some (wordRate w * 8) }) s
  have huse : useReport l w s = decideSync l (debounceFlags l w s1) := rfl
  obtain ⟨start, hflags⟩ := sight_debounceFlags l w s1
  have hs1 : Leads .none s s1 := leads_sup l _ (leads_line l _ (fun _ => ⟨rfl, rfl, rfl, rfl, Iff.rfl, rfl⟩) .refl)
  have hderived := serviceDerived_of_leads (leads_debounceFlags l w hs1) hs
  have hsup : supOf (debounceFlags l w s1) l = { y with timerFrom := start } := by
    rw [supOf_of_sight hflags, supOf_setSup_same, supOf_supervise]; rfl
  have hsync : (lineOf (debounceFlags l w s1) l).sync = (lineOf s l).sync := by
    rw [(marks_of_sight hflags l).sync, lineOf_setSup, lineOf_supervise]
  obtain ⟨start', hdecide⟩ := sight_setSync (hderived l) new
  refine ⟨start', ?_⟩
  have hnew : syncDecision { y with timerFrom := start } (lineOf s l).sync = new := rfl
  rw [huse, decideSync_eq, hsup, hsync, hnew, hdecide, hsync]
  refine (sight_supervise_congr (by exact fun _ => rfl) hflags).trans ?_
  rw [setSup_eq_supervise, supervise_supervise, supervise_supervise]
  rfl

end

end Sys2Proof.Machine

namespace Sys2Proof.Machine

/-! ### The use of a position (R110) -/

/-- The supervision behind the use of a position whose marker has been tested, the window and the trigger timer aside. -/
def positionUsed (n : Nat) (w : BitVec 48) (x : Supervision) : Supervision :=
  if wordMarkerGood w = false then x
  else if wordCheckGood w = false then failCheck x
  else flagged n w (addAnomalies w (checkSequence w x))

/-- The sync condition behind it. -/
def syncUsed (n : Nat) (w : BitVec 48) (x : Supervision) (old : Sync) : Sync :=
  if wordMarkerGood w = true ∧ wordCheckGood w = true then syncDecision (flagged n w x) old else old

/-- The attainable rate behind it (R114). -/
def rateUsed (w : BitVec 48) (old : Option Nat) : Option Nat :=
  if wordMarkerGood w = true ∧ wordCheckGood w = true then some (wordRate w * 8) else old

/-- The second in progress behind it (R110, R116). -/
def secondUsed (w : BitVec 48) (d : Second) : Second :=
  ⟨d.positions,
    d.anomalies + (if wordMarkerGood w = true ∧ wordCheckGood w = true then wordAnomalies w else 0),
    d.marked || (wordMarkerGood w && !wordCheckGood w)⟩

section
variable {l : Line} {w : BitVec 48} {s : State}

theorem positionUsed_second (n : Nat) (w : BitVec 48) (x : Supervision) :
    (positionUsed n w x).second = x.second.map (secondUsed w) := by
  unfold positionUsed secondUsed
  cases hm : wordMarkerGood w <;> cases hc : wordCheckGood w <;> cases hx : x.second <;>
    simp [failCheck, flagged, addAnomalies, checkSequence, hx]

theorem sight_usePosition (hs : ServiceDerived s) :
    let old := (lineOf s l).sync
    let new := syncUsed s.settings.debounce w (supOf s l) old
    ∃ start, sight (usePosition l w s) = sight (supervise l
      (fun x => syncedSup old new start (positionUsed s.settings.debounce w x))
      (fun r => { r with attainable := rateUsed w r.attainable, sync := new }) s) := by
  intro old new
  cases hm : wordMarkerGood w with
  | false =>
    refine ⟨(supOf s l).timerFrom, ?_⟩
    have hnew : new = old := by simp [new, syncUsed, hm]
    rw [supervise_same]
    · simp [usePosition, hm]
    · simp [positionUsed, hm, syncedSup, windowAfter, hnew]
    · simp [rateUsed, hm, hnew, old]
  | true =>
    cases hc : wordCheckGood w with
    | false =>
      refine ⟨(supOf s l).timerFrom, ?_⟩
      have hnew : new = old := by simp [new, syncUsed, hc]
      rw [supervise_congr (F := failCheck) (G := id)]
      · simp [usePosition, hm, hc, setSup_eq_supervise]
      · simp [positionUsed, hm, hc, syncedSup, windowAfter, hnew, failCheck]
      · simp [rateUsed, hc, hnew, old]
    | true =>
      obtain ⟨start, huse⟩ := sight_useReport (l := l) (w := w) hs
      refine ⟨start, ?_⟩
      have hposition : usePosition l w s = useReport l w s := by simp [usePosition, hm, hc]
      have hnew : new = syncDecision (flagged s.settings.debounce w (addAnomalies w (checkSequence w (supOf s l)))) old := by
        simp only [new, syncUsed, hm, hc, and_self, if_true]; rfl
      rw [hposition, huse, ← hnew]
      simp only [positionUsed, rateUsed, hm, hc, and_self, if_true, Bool.true_eq_false, if_false]
      rfl

/-! ### Seconds and windows (R116, R117) -/

/-- A second with one position more. -/
def nextPosition (d : Second) : Second := { d with positions := d.positions + 1 }

/-- The supervision with a position counted toward a second. -/
def counted (d : Second) (x : Supervision) : Supervision := { x with second := some (nextPosition d) }

theorem closePosition_counts {d : Second} (h : (supOf s l).second = some d) (hd : d.positions + 1 < 1000) :
    closePosition l s = (setSup l (counted d) s, false) := by
  have hlimit : ¬ Config.secondPositions ≤ d.positions + 1 := Nat.not_le.mpr hd
  have hcount : countPosition (supOf s l) = (counted d (supOf s l), none) := by
    simp only [countPosition, h, hlimit, if_false, counted, nextPosition]
  have hset : setSup l (fun x => (countPosition x).1) s = setSup l (counted d) s :=
    setSup_congr (congrArg Prod.fst hcount)
  simp only [closePosition, hcount, hset]

/-- A position that ends the second in progress ends it with that position counted. -/
theorem closePosition_ends {d : Second} (h : (supOf s l).second = some d) (hd : 1000 ≤ d.positions + 1) :
    closePosition l s =
      endSecond l (nextPosition d) (setSup l (counted d) s) := by
  have hlimit : Config.secondPositions ≤ d.positions + 1 := hd
  have hcount : countPosition (supOf s l) =
      (counted d (supOf s l), some (nextPosition d)) := by
    simp only [countPosition, h, hlimit, if_true, counted, nextPosition]
  have hset : setSup l (fun x => (countPosition x).1) s = setSup l (counted d) s :=
    setSup_congr (congrArg Prod.fst hcount)
  simp only [closePosition, hcount, hset]

/-- The totals of a line behind a second that has ended (R116). -/
def closedLine (threshold : Nat) (d : Second) (r : LineRec) : LineRec :=
  { r with
    es := if isEs threshold d then tally r.es else r.es
    ses := if isSes threshold d then tally r.ses else r.ses }

/-- The window with a second that has ended added to it (R117). -/
def windowWith (threshold : Nat) (d : Second) (w : Window) : Window :=
  ⟨w.seconds + 1, w.ses + if isSes threshold d then 1 else 0⟩

/-- The sync condition that a window's severely errored seconds decide (R117). -/
def windowSync (threshold severe : Nat) : Sync → Sync
  | .inSync => if threshold ≤ severe then .errored else .inSync
  | .errored => if severe = 0 then .inSync else .errored
  | .outOfSync => .outOfSync

/-- The sync condition behind a window, full or not. -/
def decidedSync (threshold : Nat) (w : Window) (old : Sync) : Sync :=
  if 15 ≤ w.seconds then windowSync threshold w.ses old else old

/-- The supervision behind a second that has ended. -/
def closedSup (w : Window) (start : Option Nat) (x : Supervision) : Supervision :=
  { x with second := some ⟨0, 0, false⟩, window := if 15 ≤ w.seconds then ⟨0, 0⟩ else w, timerFrom := start }

theorem windowDecision_eq (s : State) (l : Line) :
    windowDecision s l = windowSync s.settings.windowThreshold (supOf s l).window.ses (lineOf s l).sync := rfl

theorem closeSecond_eq (d : Second) : closeSecond l d s = supervise l
    (fun x => { x with second := some ⟨0, 0, false⟩, window := windowWith s.settings.sesThreshold d x.window })
    (closedLine s.settings.sesThreshold d) s := rfl

theorem sight_endSecond (d : Second) (hs : ServiceDerived s) :
    let old := (lineOf s l).sync
    let win := windowWith s.settings.sesThreshold d (supOf s l).window
    let decided := decidedSync s.settings.windowThreshold win old
    (∃ start, sight (endSecond l d s).1 = sight (supervise l (closedSup win start)
      (fun r => { closedLine s.settings.sesThreshold d r with sync := decided }) s)) ∧
    ((endSecond l d s).2 = true ↔ 15 ≤ win.seconds ∧ old = .inSync ∧ decided = .errored) := by
  intro old win decided
  have hclose := closeSecond_eq (l := l) (s := s) d
  have hsup : (supOf (closeSecond l d s) l).window = win := by rw [hclose, supOf_supervise]
  have hsync : (lineOf (closeSecond l d s) l).sync = old := by rw [hclose, lineOf_supervise]; rfl
  have hdecision : windowDecision (closeSecond l d s) l = windowSync s.settings.windowThreshold win.ses old := by
    rw [windowDecision_eq, hsup, hsync]; rfl
  have hderived : ServiceDerived (closeSecond l d s) :=
    serviceDerived_of_leads (sc := .none) (leads_closeSecond l d .refl) hs
  by_cases hends : 15 ≤ win.seconds
  · have hdecided : decided = windowSync s.settings.windowThreshold win.ses old := if_pos hends
    have hend : endSecond l d s = (closeWindow l (closeSecond l d s), decide (old = .inSync) && decide (decided = .errored)) := by
      simp only [endSecond, hsup, hsync, hdecision, hdecided]
      exact if_pos hends
    rw [hend]
    refine ⟨?_, by simp [hends]⟩
    have hwindow : closeWindow l (closeSecond l d s) =
        setSync l decided (setSup l (fun x => { x with window := ⟨0, 0⟩ }) (closeSecond l d s)) := by
      rw [closeWindow, hdecision, hdecided]
    obtain ⟨start, hset⟩ := sight_setSync
      (s := setSup l (fun x => { x with window := ⟨0, 0⟩ }) (closeSecond l d s)) (hderived l) decided
    refine ⟨start, ?_⟩
    dsimp only
    rw [hwindow, hset, hclose, setSup_supervise]
    refine congrArg sight ((supervise_supervise ..).trans (supervise_congr ?_ rfl))
    simp [closedSup, hends, syncedSup, windowAfter]
  · have hdecided : decided = old := if_neg hends
    have hend : endSecond l d s = (closeSecond l d s, false) := by
      simp only [endSecond, hsup]
      exact if_neg hends
    rw [hend]
    refine ⟨⟨(supOf s l).timerFrom, ?_⟩, by simp [hends]⟩
    dsimp only
    rw [hclose]
    refine congrArg sight (supervise_congr ?_ (by rw [hdecided]; rfl))
    simp only [closedSup, hends, if_false]
    rfl

/-- So it does in a state that shows what a change of the line's supervision and record makes of `s`. -/
theorem sight_endSecond_of {u : State} {F : Supervision → Supervision} {G : LineRec → LineRec} (d : Second)
    (hderived : ServiceDerived u) (hu : sight u = sight (supervise l F G s)) :
    let old := (G (lineOf s l)).sync
    let win := windowWith s.settings.sesThreshold d (F (supOf s l)).window
    let decided := decidedSync s.settings.windowThreshold win old
    (∃ start, sight (endSecond l d u).1 = sight (supervise l (closedSup win start ∘ F)
      ((fun r => { closedLine s.settings.sesThreshold d r with sync := decided }) ∘ G) s)) ∧
    ((endSecond l d u).2 = true ↔ 15 ≤ win.seconds ∧ old = .inSync ∧ decided = .errored) := by
  obtain ⟨⟨start, hend⟩, hraised⟩ := sight_endSecond (l := l) d hderived
  have hsettings : u.settings = s.settings := (settings_of_sight hu :)
  have hsync := (marks_of_sight hu l).sync
  rw [lineOf_supervise] at hsync
  rw [hsettings, supOf_of_sight hu, supOf_supervise, hsync] at hend hraised
  refine ⟨⟨start, hend.trans ?_⟩, hraised⟩
  rw [sight_supervise_congr (by exact fun _ => rfl) hu, supervise_supervise]

end

end Sys2Proof.Machine

namespace Sys2Proof.Machine

/-! ### The end of a position (R110, R111) -/

/-- A report position whose marker has been tested. -/
def tested (l : Line) (w : BitVec 48) (s : State) : State := setSup l (testMarker (wordMarkerGood w)) s

/-- Whether the test of a position's marker loses the stream (R111). -/
def Loses (l : Line) (w : BitVec 48) (s : State) : Prop :=
  s.settings.autoRealign = true ∧ (if s.settings.strict = true then 2 else 3) ≤
    ((supOf s l).lastFour.drop 1 ++ [wordMarkerGood w]).count false

section
variable {l : Line} {w : BitVec 48} {s : State}

theorem losesStream_iff : losesStream (tested l w s) l = true ↔ Loses l w s := by
  have hcount : (fun b : Bool => !b) = (· == false) := by funext b; cases b <;> rfl
  simp only [losesStream, lossThreshold, tested, supOf_setSup_same, testMarker, setSup_settings, Bool.and_eq_true,
    decide_eq_true_eq, Loses, hcount]
  rfl

theorem takePosition_keeps (h : ¬ Loses l w s) : takePosition l w s = closePosition l (usePosition l w (tested l w s)) :=
  if_neg (mt losesStream_iff.mp h)

theorem tested_derived (hs : ServiceDerived s) : ServiceDerived (tested l w s) := hs

/-- The sync condition that a position decides by its report. -/
abbrev positionSync (l : Line) (w : BitVec 48) (s : State) : Sync :=
  syncUsed s.settings.debounce w (supOf s l) (lineOf s l).sync

/-- The supervision behind the use of a position, the window and the trigger timer aside. -/
abbrev positionSup (w : BitVec 48) (s : State) (x : Supervision) : Supervision :=
  positionUsed s.settings.debounce w (testMarker (wordMarkerGood w) x)

theorem positionSup_second {d : Second} {x : Supervision} (h : x.second = some d) :
    (positionSup w s x).second = some (secondUsed w d) := by
  rw [positionSup, positionUsed_second]
  exact congrArg (Option.map (secondUsed w)) h

theorem positionSup_window (x : Supervision) : (positionSup w s x).window = x.window := by
  unfold positionSup positionUsed; split_ifs <;> rfl

/-- What a second that has ended makes of the supervision leaves nothing of the count and of the window before it. -/
theorem closedSup_counted (win : Window) (start start' : Option Nat) (d : Second) (old new : Sync) (x : Supervision) :
    closedSup win start (counted d (syncedSup old new start' x)) = closedSup win start x := rfl

/-- The use of a position shows as one change of the line's supervision and record. -/
theorem sight_usePosition_tested (hs : ServiceDerived s) : ∃ start, sight (usePosition l w (tested l w s)) =
    sight (supervise l
      (fun x => syncedSup (lineOf s l).sync (positionSync l w s) start (positionSup w s x))
      (fun r => { r with attainable := rateUsed w r.attainable, sync := positionSync l w s }) s) := by
  obtain ⟨start, huse⟩ := sight_usePosition (l := l) (w := w) (tested_derived hs)
  have hsync : syncUsed s.settings.debounce w (supOf (tested l w s) l) (lineOf s l).sync = positionSync l w s := by
    rw [tested, supOf_setSup_same]; rfl
  refine ⟨start, huse.trans ?_⟩
  rw [tested, lineOf_setSup, setSup_settings, ← tested, hsync, tested, setSup_eq_supervise, supervise_supervise]
  rfl

/-- A position within its second: it is used, and counted. -/
theorem sight_takePosition_within {d : Second} (hs : ServiceDerived s) (hkeeps : ¬ Loses l w s)
    (hx : (supOf s l).second = some d) (hd : d.positions + 1 < 1000) :
    (∃ start, sight (takePosition l w s).1 = sight (supervise l
      (fun x => counted (secondUsed w d) (syncedSup (lineOf s l).sync (positionSync l w s) start (positionSup w s x)))
      (fun r => { r with attainable := rateUsed w r.attainable, sync := positionSync l w s }) s)) ∧
    (takePosition l w s).2 = false := by
  obtain ⟨start, huse⟩ := sight_usePosition_tested (l := l) (w := w) hs
  have hsecond : (supOf (usePosition l w (tested l w s)) l).second = some (secondUsed w d) := by
    rw [supOf_of_sight huse, supOf_supervise]
    exact positionSup_second hx
  rw [takePosition_keeps hkeeps, closePosition_counts hsecond hd]
  refine ⟨⟨start, ?_⟩, rfl⟩
  rw [sight_setSup_congr _ huse, setSup_supervise]
  rfl

/-- The window in progress behind the use of a position that ends the second (R116, R117). -/
def positionWindow (l : Line) (w : BitVec 48) (d : Second) (s : State) : Window :=
  windowWith s.settings.sesThreshold (nextPosition (secondUsed w d))
    (windowAfter (lineOf s l).sync (positionSync l w s) (supOf s l).window)

/-- The sync condition behind a position that ends the second. -/
def positionDecided (l : Line) (w : BitVec 48) (d : Second) (s : State) : Sync :=
  decidedSync s.settings.windowThreshold (positionWindow l w d s) (positionSync l w s)

/-- Whether the position takes the line from IN to ERRORED (R119). -/
def RaisesErrored (l : Line) (w : BitVec 48) (d : Second) (s : State) : Prop :=
  15 ≤ (positionWindow l w d s).seconds ∧ positionSync l w s = .inSync ∧ positionDecided l w d s = .errored

/-- The record of a line behind a position that ends the second. -/
def positionLine (l : Line) (w : BitVec 48) (d : Second) (s : State) (r : LineRec) : LineRec :=
  { closedLine s.settings.sesThreshold (nextPosition (secondUsed w d)) r with
    attainable := rateUsed w r.attainable, sync := positionDecided l w d s }

/-- The last position of a second: it is used and counted, and second and window are closed. -/
theorem sight_takePosition_ends {d : Second} (hs : ServiceDerived s) (hkeeps : ¬ Loses l w s)
    (hx : (supOf s l).second = some d) (hd : 1000 ≤ d.positions + 1) :
    (∃ start, sight (takePosition l w s).1 = sight (supervise l
      (fun x => closedSup (positionWindow l w d s) start (positionSup w s x)) (positionLine l w d s) s)) ∧
    ((takePosition l w s).2 = true ↔ RaisesErrored l w d s) := by
  obtain ⟨start, huse⟩ := sight_usePosition_tested (l := l) (w := w) hs
  have hsecond : (supOf (usePosition l w (tested l w s)) l).second = some (secondUsed w d) := by
    rw [supOf_of_sight huse, supOf_supervise]
    exact positionSup_second hx
  have hcounted := sight_setSup_congr (l := l) (counted (secondUsed w d)) huse
  rw [setSup_supervise] at hcounted
  have hderived := serviceDerived_of_leads (sc := .none) (leads_sup l (counted (secondUsed w d))
    (leads_usePosition l w (leads_sup l (testMarker (wordMarkerGood w)) .refl))) hs
  obtain ⟨⟨start', hend⟩, hraised⟩ := sight_endSecond_of (nextPosition (secondUsed w d)) hderived hcounted
  rw [takePosition_keeps hkeeps, closePosition_ends hsecond hd]
  have hwindow : (counted (secondUsed w d) (syncedSup (lineOf s l).sync (positionSync l w s) start
      (positionSup w s (supOf s l)))).window = windowAfter (lineOf s l).sync (positionSync l w s) (supOf s l).window :=
    congrArg (windowAfter (lineOf s l).sync (positionSync l w s)) (positionSup_window (supOf s l))
  simp only [Function.comp_apply, hwindow] at hend hraised
  refine ⟨⟨start', hend.trans (congrArg sight (supervise_congr ?_ rfl))⟩, hraised⟩
  exact closedSup_counted ..

end

end Sys2Proof.Machine

/-! A TRIGGERED run that enters the queue while the station does not hold the bus, or while a run is under way: neither
supervision nor a line record is written (R129, R142, R144, R146). -/

namespace Sys2Proof.Machine

/-! ### Claims asked for (R129, R130) -/

section
variable {s t : State}

theorem watch_askNotice (a : Ask) (s : State) : watch (askNotice a s) = watch s := by
  obtain ⟨n, hn⟩ := askNotice_frame a s
  rw [hn]; rfl

theorem askNotice_seq (a : Ask) (s : State) : (askNotice a s).seq = s.seq := by
  obtain ⟨n, hn⟩ := askNotice_frame a s
  rw [hn]

/-- What a claim leaves alone. -/
structure ClaimsOnly (s t : State) : Prop where
  watch : watch t = watch s
  seq : t.seq = s.seq

theorem claimsOnly_askNotice (a : Ask) (h : ClaimsOnly s t) : ClaimsOnly s (askNotice a t) :=
  ⟨(watch_askNotice a t).trans h.watch, (askNotice_seq a t).trans h.seq⟩

theorem claimsOnly_setClaims (f : Claims → Claims) (h : ClaimsOnly s t) : ClaimsOnly s (setClaims f t) := ⟨h.watch, h.seq⟩

theorem claimsOnly_enterQueued (h : ClaimsOnly s t) : ClaimsOnly s (enterQueued t) := by
  have hasked := claimsOnly_askNotice (claimAsk t.claims) (claimsOnly_setClaims
    (fun cl => { cl with own := .queued, waiting := false, confirmAt := none, ownLimit := none }) h)
  unfold enterQueued followTurn; dsimp only; split
  · exact claimsOnly_askNotice _ (claimsOnly_setClaims _ hasked)
  · exact hasked

theorem claimsOnly_claimHead (x : ClaimTerms) (s : State) : ClaimsOnly s (claimHead x s) := by
  have hrefl : ClaimsOnly s s := ⟨rfl, rfl⟩
  unfold claimHead; split
  · unfold claimFromNone; dsimp only; split
    · exact claimsOnly_setClaims _ (claimsOnly_setClaims _ hrefl)
    · exact claimsOnly_enterQueued (claimsOnly_setClaims _ hrefl)
  · exact claimsOnly_enterQueued (claimsOnly_setClaims _ hrefl)
  · exact claimsOnly_setClaims _ hrefl
  · exact claimsOnly_setClaims _ hrefl
  · exact hrefl
  · exact claimsOnly_setClaims _ hrefl

theorem enterQueued_inForce (s : State) : (enterQueued s).claims.inForce = s.claims.inForce := by
  unfold enterQueued followTurn; dsimp only; split
  · rw [askNotice_claims, setClaims_claims, askNotice_claims]; rfl
  · rw [askNotice_claims]; rfl

/-- A claim made while one is in force replaces it (R129). -/
theorem claimHead_inForce (x : ClaimTerms)
    (h : s.claims.own = .queued ∨ s.claims.own = .turn ∨ s.claims.own = .taking) :
    (claimHead x s).claims.inForce = some x := by
  rcases h with h | h | h <;> simp only [claimHead, h]
  · rw [enterQueued_inForce]; rfl
  · rfl
  · rfl

/-! ### Activation without a hold (R146) -/

theorem watch_becomeActive (r : Run) (ho : s.claims.own ≠ .holding) : watch (becomeActive r s) = watch s := by
  unfold becomeActive
  rw [if_neg ho, (claimsOnly_claimHead _ _).watch, watch_refreshTests]
  rfl

theorem endAtActivation_unheld (r : Run) (o : RunOutcome) (ho : s.claims.own ≠ .holding) :
    endAtActivation r o s = refreshTests (endRecord r o (firstSlot r) s) := by
  rw [endAtActivation, decideHold, if_pos (.inl ho)]

theorem watch_activateUpTo (n : Nat) (ho : s.claims.own ≠ .holding) : watch (activateUpTo n s) = watch s := by
  induction n generalizing s with
  | zero => rfl
  | succ n ih =>
    unfold activateUpTo; split
    · rfl
    · split
      · rfl
      · next r rest _ =>
        dsimp only; split
        · next o _ =>
          rw [endAtActivation_unheld r o (by exact ho), ih, watch_refreshTests, watch_endRecord]
          · rfl
          · rw [refreshTests_claims, endRecord_claims]; exact ho
        · exact watch_becomeActive r ho

theorem displaceWaiting_rest (s : State) : watch (displaceWaiting s) = watch s ∧ (displaceWaiting s).claims = s.claims ∧
    (displaceWaiting s).seq.closing = s.seq.closing := by
  unfold displaceWaiting; split
  · split
    · exact ⟨watch_enterFront _ _, enterFront_claims _ _, (enterFront_active _ _).2⟩
    · exact ⟨rfl, rfl, rfl⟩
  · exact ⟨rfl, rfl, rfl⟩

/-- A run is under way: one discharges, or is active and no longer waits for the bus. -/
def Engaged (s : State) : Prop := s.seq.closing ≠ none ∨ ∃ a, s.seq.active = some a ∧ a.phase ≠ .waitingBus

theorem activate_engaged (h : Engaged s) : activate (displaceWaiting s) = displaceWaiting s := by
  rcases h with hclosing | ⟨a, ha, hphase⟩
  · exact activate_closing (by rw [(displaceWaiting_rest s).2.2]; exact hclosing)
  · rw [displaceWaiting_stays (only_active ha (.inl hphase))]
    exact activate_active (by rw [ha]; exact Option.some_ne_none a)

theorem watch_raiseTrigger (l : Line) (c : Cause) (h : s.claims.own ≠ .holding ∨ Engaged s) :
    watch (raiseTrigger l c s) = watch s := by
  by_cases hs : Suppressed l s
  · rw [raiseTrigger_suppressed hs]
  cases hgood : (chainFrom s.seq.steps s.settings.triggerSlot).good with
  | false =>
    rw [raiseTrigger_malformed hs hgood, watch_endRecord]
    rfl
  | true =>
    obtain ⟨hactive, hclosing⟩ := enterFront_active (triggeredRun l c s) (takeId s)
    obtain ⟨hwatch, hclaims, -⟩ := displaceWaiting_rest (enterFront (triggeredRun l c s) (takeId s))
    have hfront : watch (enterFront (triggeredRun l c s) (takeId s)) = watch s := watch_enterFront _ _
    rw [raiseTrigger_queues hs hgood, ← hfront, ← hwatch]
    rcases h with ho | hengaged
    · exact watch_activateUpTo _ (by rw [hclaims, enterFront_claims]; exact ho)
    · have hengaged' : Engaged (enterFront (triggeredRun l c s) (takeId s)) := by
        rw [Engaged, hactive, hclosing]; exact hengaged
      rw [activate_engaged hengaged']

/-! ### The TRIGGERED run in the place of an OPERATOR run that waits (R146) -/

/-- The head of the queue becomes active where its examination does not end it. -/
theorem activate_passes {r : Run} {rest : List Run} (ha : s.seq.active = none) (hc : s.seq.closing = none)
    (hq : s.seq.queue = r :: rest) (hpass : examine (setSeq (fun q => { q with queue := rest }) s) r = none) :
    activate s = becomeActive r (setSeq (fun q => { q with queue := rest }) s) := by
  simp [activate, hq, activateUpTo, ha, hc, hpass]

theorem becomeActive_waits (r : Run) (ho : s.claims.own ≠ .holding) :
    (becomeActive r s).seq = { s.seq with active := some (activeIn r .waitingBus) } ∧
    (s.claims.own = .queued ∨ s.claims.own = .turn ∨ s.claims.own = .taking →
      (becomeActive r s).claims.inForce = some (termsOf s r)) := by
  unfold becomeActive
  rw [if_neg ho]
  exact ⟨(claimsOnly_claimHead _ _).seq, fun h => claimHead_inForce _ h⟩

/-- A TRIGGERED run of a line that is not UP passes its examination with a good chain and no hazard (R146). -/
theorem examine_passes {r : Run} (hgood : (chainFrom s.seq.steps (firstSlot r)).good = true)
    (hhazard : (lineOf s r.line).hazard = false) (hup : (lineOf s r.line).service ≠ .up) : examine s r = none := by
  simp [examine, hgood, hhazard, hup]

end

end Sys2Proof.Machine

/-! The ERRORED cause behind the end of a window, in the state that the position has left, and the statement of the end of a
report position (R110, R111, R113 to R117, R119, R144, R146). -/

namespace Sys2Proof.Machine

/-! ### A cause raised in a state that the position has left -/

section
variable {l : Line} {c : Cause} {s u : State}

theorem suppressed_iff (hseq : u.seq = s.seq) (hsettings : u.settings = s.settings)
    (hequipped : (lineOf u l).equipped = (lineOf s l).equipped) (hhazard : (lineOf u l).hazard = (lineOf s l).hazard) :
    Suppressed l u ↔ Suppressed l s := by
  simp only [Suppressed, hseq, hsettings, hequipped, hhazard]

theorem hazard_of_not_suppressed (h : ¬ Suppressed l s) : (lineOf s l).hazard = false :=
  Bool.eq_false_iff.mpr fun hz => h (.inr (.inr (.inr (.inr (.inl hz)))))

theorem not_up_of_errored {r : LineRec} (h : r.sync = .errored) : deriveService r ≠ .up := by
  rw [deriveService_eq, h]
  split_ifs <;> decide

theorem triggeredRun_congr (hseq : u.seq = s.seq) (hsettings : u.settings = s.settings) :
    triggeredRun l c u = triggeredRun l c s := by
  simp only [triggeredRun, hseq, hsettings]

theorem takeId_seq (hseq : u.seq = s.seq) : (takeId u).seq = { s.seq with counter := assignedId s.seq } := by
  rw [takeId, setSeq_seq, hseq]

section
variable (h : ¬ Suppressed l u) (hseq : u.seq = s.seq) (hsettings : u.settings = s.settings)
  (hgood : (chainFrom s.seq.steps s.settings.triggerSlot).good = true)
include h hseq hsettings hgood

theorem raised_behind (hengaged : Engaged s) (hactive : ∀ a, s.seq.active = some a → a.phase ≠ .waitingBus) :
    raiseTrigger l c u = enterFront (triggeredRun l c s) (takeId u) := by
  rw [← triggeredRun_congr hseq hsettings]
  refine raiseTrigger_behind h (by rw [hseq, hsettings]; exact hgood)
    (fun a ha => .inl (hactive a (by rw [← hseq]; exact ha))) ?_
  rw [hseq]
  rcases hengaged with hclosing | ⟨a, ha, -⟩
  · exact .inr hclosing
  · exact .inl (by rw [ha]; exact Option.some_ne_none a)

/-- With room in the queue the TRIGGERED run stands behind the last TRIGGERED run (R142). -/
theorem raised_room_seq (hengaged : Engaged s) (hactive : ∀ a, s.seq.active = some a → a.phase ≠ .waitingBus)
    (hroom : s.seq.queue.length < 16) : (raiseTrigger l c u).seq = { s.seq with
      counter := assignedId s.seq, queue := placeFront s.seq.queue (triggeredRun l c s) } := by
  have hid := takeId_seq hseq
  rw [raised_behind h hseq hsettings hgood hengaged hactive, enterFront_room_seq _ (by rw [hid]; exact hroom), hid]

/-- At a full queue it ends the tail run CANCELLED (R142). -/
theorem raised_full_seq (hengaged : Engaged s) (hactive : ∀ a, s.seq.active = some a → a.phase ≠ .waitingBus)
    (htime : u.time = s.time) {body : List Run} {q : Run} (hq : s.seq.queue = body ++ [q])
    (hfull : 16 ≤ s.seq.queue.length) :
    (raiseTrigger l c u).seq = { s.seq with
      counter := assignedId s.seq
      queue := placeFront body (triggeredRun l c s)
      holdoffs := if q.origin = .triggered then
        put s.seq.holdoffs q.line (some (s.time + 60000 * s.settings.holdoff)) else s.seq.holdoffs } ∧
    look (raiseTrigger l c u).meas.lastRuns q.line = some ⟨q.id, q.origin, .cancelled, s.time⟩ := by
  have hid := takeId_seq hseq
  have hq' : (takeId u).seq.queue = body ++ [q] := by rw [hid]; exact hq
  have hfull' : 16 ≤ (takeId u).seq.queue.length := by rw [hid]; exact hfull
  have htime' : (takeId u).time = s.time := htime
  have hsettings' : (takeId u).settings = s.settings := hsettings
  rw [raised_behind h hseq hsettings hgood hengaged hactive]
  refine ⟨?_, ?_⟩
  · rw [enterFront_full_seq _ hq' hfull', hid, htime', hsettings']
  · rw [enterFront_full _ hq' hfull', ← htime']
    exact endRecord_lastRun q .cancelled (firstSlot q) _

/-- Without a hold the TRIGGERED run waits for the bus in the place of the OPERATOR run, which heads the queue (R146). -/
theorem raised_displaces (hclaims : u.claims = s.claims) (ho : s.claims.own ≠ .holding) (hclosing : s.seq.closing = none)
    {a : Active} (ha : s.seq.active = some a) (hphase : a.phase = .waitingBus) (horigin : a.run.origin = .operator)
    (hroom : s.seq.queue.length < 15) (hhead : ∀ q ∈ s.seq.queue.head?, q.origin = .operator)
    (hhazard : (lineOf u l).hazard = false) (hup : (lineOf u l).service ≠ .up) :
    (raiseTrigger l c u).seq = { s.seq with
      counter := assignedId s.seq, queue := a.run :: s.seq.queue
      active := some (activeIn (triggeredRun l c s) .waitingBus) } ∧
    (s.claims.own = .queued ∨ s.claims.own = .turn ∨ s.claims.own = .taking →
      (raiseTrigger l c u).claims.inForce = some ⟨.triggered,
        holdEstimate s.seq.steps (chainFrom s.seq.steps s.settings.triggerSlot)⟩) := by
  have hparts : s.seq.queue.takeWhile isTriggered = [] ∧ s.seq.queue.dropWhile isTriggered = s.seq.queue := by
    cases hq : s.seq.queue with
    | nil => exact ⟨rfl, rfl⟩
    | cons x q =>
      have hx : isTriggered x = false := by rw [isTriggered, hhead x (by rw [hq]; rfl)]; rfl
      simp [hx]
  obtain ⟨hplaced, -, hlines⟩ := displacedBy_seq (s := u) (r := triggeredRun l c s) a rfl (by rw [hseq]; exact hroom)
  rw [hseq, hparts.1, hparts.2, List.nil_append] at hplaced
  have hraise := raiseTrigger_displaces (c := c) h (by rw [hseq, hsettings]; exact hgood) (by rw [hseq]; exact ha)
    hphase horigin
  rw [triggeredRun_congr hseq hsettings] at hraise
  have hown : (displacedBy (triggeredRun l c s) a u).claims.own ≠ .holding := by
    rw [displacedBy_claims, hclaims]; exact ho
  have hpass : examine (setSeq (fun q => { q with queue := a.run :: s.seq.queue })
      (displacedBy (triggeredRun l c s) a u)) (triggeredRun l c s) = none := by
    refine examine_passes ?_ ((hlines l).2.trans hhazard) (by exact fun hs => hup ((hlines l).1.symm.trans hs))
    rw [setSeq_seq, hplaced]
    exact hgood
  rw [hraise, activate_passes (by rw [hplaced]) (by rw [hplaced]; exact hclosing) (by rw [hplaced]) hpass]
  obtain ⟨hactive, hinForce⟩ := becomeActive_waits (s := setSeq (fun q => { q with queue := a.run :: s.seq.queue })
    (displacedBy (triggeredRun l c s) a u)) (triggeredRun l c s) hown
  refine ⟨?_, fun hstate => ?_⟩
  · rw [hactive, setSeq_seq, hplaced]
  · rw [hinForce (by rw [setSeq_claims, displacedBy_claims, hclaims]; exact hstate)]
    simp only [termsOf, setSeq_seq, hplaced]
    rfl

end

end

end Sys2Proof.Machine

namespace Sys2Proof.Machine

/-! ### The command (R110) -/

section
variable {l : Line} {w : BitVec 48} {s : State}

theorem takeReport_aligned (hs : (supOf s l).suspended = false) (ha : (supOf s l).aligned = true) :
    takeReport l w s = if (takePosition l w s).2 = true then raiseTrigger l .errored (takePosition l w s).1
      else (takePosition l w s).1 := if_pos (by simp [alignedNow, hs, ha])

theorem takeReport_raises (hs : (supOf s l).suspended = false) (ha : (supOf s l).aligned = true)
    (h : (takePosition l w s).2 = true) : takeReport l w s = raiseTrigger l .errored (takePosition l w s).1 :=
  (takeReport_aligned hs ha).trans (if_pos h)

theorem takeReport_quiet (hs : (supOf s l).suspended = false) (ha : (supOf s l).aligned = true)
    (h : ¬ (takePosition l w s).2 = true) : takeReport l w s = (takePosition l w s).1 :=
  (takeReport_aligned hs ha).trans (if_neg h)

/-- The supervision with the second, the window and the trigger timer set aside. -/
def unclocked (x : Supervision) : Supervision := { x with second := none, window := ⟨0, 0⟩, timerFrom := none }

theorem unclocked_counted (d : Second) (old new : Sync) (start : Option Nat) (x : Supervision) :
    unclocked (counted d (syncedSup old new start x)) = unclocked x := rfl

theorem unclocked_closedSup (win : Window) (start : Option Nat) (x : Supervision) :
    unclocked (closedSup win start x) = unclocked x := rfl

theorem counted_second (d : Second) (x : Supervision) : (counted d x).second = some (nextPosition d) := rfl

/-- A good report has been used (R110, R113, R114): what a state shows of it in line `l`. -/
structure ReportUsed (l : Line) (w : BitVec 48) (s t : State) : Prop where
  rate : (lineOf t l).attainable = rateUsed w (lineOf s l).attainable
  sup : unclocked (supOf t l) = unclocked (positionSup w s (supOf s l))

end

theorem ReportUsed.of_watch {l : Line} {w : BitVec 48} {s t u : State} (h : ReportUsed l w s t)
    (hu : watch u = watch t) : ReportUsed l w s u :=
  ⟨(sameMarks_of_bareLine (bareLine_of_watch hu l)).attainable.trans h.rate, by rw [supOf_of_watch hu]; exact h.sup⟩

/-- The slips behind a marker test and the comparison of the sequence (R110). -/
theorem slips_checked (w : BitVec 48) (good : Bool) (x : Supervision) :
    (checkSequence w (testMarker good x)).slips = (match x.lastGood with
      | none => x.slips
      | some (q, k) => if (q + k + 1) % 16 = wordSequence w then x.slips else min 4294967295 (x.slips + 1)) := by
  unfold checkSequence testMarker
  cases x.lastGood with
  | none => rfl
  | some p => rfl

/-- A good report, field by field (R110, R113, R114). -/
theorem ReportUsed.of_good {l : Line} {w : BitVec 48} {s t : State} (h : ReportUsed l w s t)
    (hg : wordMarkerGood w = true ∧ wordCheckGood w = true) :
    let x := supOf s l
    let n := s.settings.debounce
    (lineOf t l).attainable = some (8 * wordRate w) ∧ (supOf t l).lastGood = some (wordSequence w, 0) ∧
    (supOf t l).slips = (match x.lastGood with
      | none => x.slips
      | some (q, k) => if (q + k + 1) % 16 = wordSequence w then x.slips else min 4294967295 (x.slips + 1)) ∧
    (supOf t l).showtime = debounceFlag n (wordShowtime w) x.showtime ∧
    (supOf t l).dyingGasp = debounceFlag n (wordDyingGasp w) x.dyingGasp ∧
    (supOf t l).signalLoss = debounceFlag n (wordSignalLoss w) x.signalLoss ∧
    (supOf t l).remoteDefect = debounceFlag n (wordRemoteDefect w) x.remoteDefect := by
  intro x n
  obtain ⟨hrate, hsup⟩ := h
  have hposition : positionSup w s (supOf s l) =
      flagged n w (addAnomalies w (checkSequence w (testMarker true (supOf s l)))) := by
    simp [positionUsed, hg, n]
  rw [hposition] at hsup
  refine ⟨?_, congrArg Supervision.lastGood hsup, (congrArg Supervision.slips hsup).trans (slips_checked ..),
    congrArg Supervision.showtime hsup, congrArg Supervision.dyingGasp hsup, congrArg Supervision.signalLoss hsup,
    congrArg Supervision.remoteDefect hsup⟩
  rw [hrate, rateUsed, if_pos hg, Nat.mul_comm]

/-! ### A lost stream (R111) -/

section
variable {l : Line} {w : BitVec 48} {s : State}

/-- The state behind a lost stream: SEARCH entered, and the position's last 40 bits searched. -/
def lost (l : Line) (w : BitVec 48) (s : State) : State :=
  setSup l (searchLost w (supOf s l).positionEnd) (alignerLoss l (tested l w s))

theorem takePosition_lost (h : Loses l w s) : takePosition l w s = (lost l w s, false) :=
  if_pos (losesStream_iff.mpr h)

theorem supOf_lost : supOf (lost l w s) l =
    let x := testMarker (wordMarkerGood w) (supOf s l)
    let e := (supOf s l).positionEnd
    { x with
      aligned := false, mimicRecord := false, searchFrom := e - 40, candidates := markersIn 8 w e
      searchTime := min 20 ((x.bitIndex - (e - 40)) / 48), cutEnd := none
      lastGood := none, second := none, window := ⟨0, 0⟩
      showtime := { x.showtime with run := 0 }, signalLoss := { x.signalLoss with run := 0 }
      dyingGasp := { x.dyingGasp with run := 0 }, remoteDefect := { x.remoteDefect with run := 0 } } := by
  have hindex : max (max (supOf s l).bitIndex (supOf s l).positionEnd) (supOf s l).positionEnd =
    max (supOf s l).bitIndex (supOf s l).positionEnd := max_eq_left (le_max_right _ _)
  have hlost : supOf (alignerLoss l (tested l w s)) l = enterSearch (emptyRuns
      { testMarker (wordMarkerGood w) (supOf s l) with second := none, window := ⟨0, 0⟩ }) := by
    rw [alignerLoss, supOf_setSup_same, supOf_setLine, tested, supOf_setSup_same]
  rw [lost, supOf_setSup_same, hlost]
  simp only [searchLost, searchWord, searchTo, searchTimeAt, enterSearch, emptyRuns, emptyRun, testMarker, hindex,
    List.nil_append, List.not_mem_nil, not_false_eq_true, decide_true, List.filter_true]
  rfl

theorem lineOf_lost : lineOf (lost l w s) l =
    { lineOf s l with es := tally (lineOf s l).es, ses := tally (lineOf s l).ses } := by
  rw [lost, lineOf_setSup, alignerLoss, lineOf_setSup, lineOf_setLine_same]
  rfl

theorem markersIn_eight (w : BitVec 48) (e : Nat) : markersIn 8 w e =
    ((List.range 41).filter fun o => decide (8 ≤ o ∧ w.extractLsb' (40 - o) 8 = 0xB2#8)).map fun o => e - 48 + o := by
  unfold markersIn
  simp only [Bool.decide_and]
  rfl

end

/-! ### A position within its second -/

section
variable {l : Line} {w : BitVec 48} {s : State} {d : Second} (hkeeps : ¬ Loses l w s)
  (hsecond : (supOf s l).second = some d) (hd : d.positions + 1 < 1000)
include hkeeps hsecond hd

theorem takePosition_wrongMarker (hm : wordMarkerGood w = false) : takePosition l w s =
    (setSup l (counted d ∘ testMarker false) s, false) := by
  have huse : usePosition l w (tested l w s) = tested l w s := by simp [usePosition, hm]
  rw [takePosition_keeps hkeeps, huse, closePosition_counts (by rw [tested, supOf_setSup_same]; exact hsecond) hd, tested,
    setSup_setSup, hm]

theorem takePosition_wrongCheck (hm : wordMarkerGood w = true) (hc : wordCheckGood w = false) : takePosition l w s =
    (setSup l (counted { d with marked := true } ∘ failCheck ∘ testMarker true) s, false) := by
  have huse : usePosition l w (tested l w s) = setSup l failCheck (tested l w s) := by simp [usePosition, hm, hc]
  have hmarked : (supOf (setSup l failCheck (tested l w s)) l).second = some { d with marked := true } := by
    rw [supOf_setSup_same, tested, supOf_setSup_same]
    simp only [failCheck, testMarker, hsecond]
    rfl
  rw [takePosition_keeps hkeeps, huse, closePosition_counts hmarked hd, tested, setSup_setSup, setSup_setSup, hm]
  rfl

/-- A good report within its second. -/
theorem takePosition_good (hs : ServiceDerived s) :
    ReportUsed l w s (takePosition l w s).1 ∧
    (supOf (takePosition l w s).1 l).second = some (nextPosition (secondUsed w d)) ∧
    (lineOf (takePosition l w s).1 l).sync = positionSync l w s := by
  obtain ⟨⟨start, hsight⟩, -⟩ := sight_takePosition_within (w := w) hs hkeeps hsecond hd
  have hsup := supOf_of_sight hsight l
  have hline := marks_of_sight hsight l
  rw [supOf_supervise] at hsup
  rw [lineOf_supervise] at hline
  exact ⟨⟨hline.attainable, (congrArg unclocked hsup).trans (unclocked_counted ..)⟩,
    (congrArg Supervision.second hsup).trans (counted_second ..), hline.sync⟩

end

/-! ### The last position of a second -/

section
variable {l : Line} {w : BitVec 48} {s : State} {d : Second}

/-- A sync condition that a report decides anew is to or from OUT (R115, R117). -/
theorem windowAfter_syncUsed (n : Nat) (w : BitVec 48) (x : Supervision) (old : Sync) (win : Window) :
    windowAfter old (syncUsed n w x old) win = if syncUsed n w x old = old then win else ⟨0, 0⟩ := by
  have hout : syncUsed n w x old = old ∨ syncUsed n w x old = .outOfSync ∨ old = .outOfSync := by
    unfold syncUsed syncDecision
    split_ifs <;> simp_all
  unfold windowAfter
  by_cases hsame : syncUsed n w x old = old
  · simp [hsame]
  · rw [if_pos ⟨hsame, hout.resolve_left hsame⟩, if_neg hsame]

theorem positionSup_markerErrors (x : Supervision) :
    (positionSup w s x).markerErrors = (testMarker (wordMarkerGood w) x).markerErrors := by
  unfold positionSup positionUsed; split_ifs <;> rfl

theorem positionSup_checkFailures (x : Supervision) : (positionSup w s x).checkFailures =
    if wordMarkerGood w = true ∧ wordCheckGood w = false then tally x.checkFailures else x.checkFailures := by
  unfold positionSup positionUsed
  cases wordMarkerGood w <;> cases wordCheckGood w <;> rfl

theorem isSes_secondUsed (threshold : Nat) : isSes threshold (nextPosition (secondUsed w d)) = true ↔
    threshold ≤ (secondUsed w d).anomalies ∨ d.marked = true ∨ (wordMarkerGood w = true ∧ wordCheckGood w = false) := by
  rw [isSes, Bool.or_eq_true, decide_eq_true_iff]
  simp [nextPosition, secondUsed]

theorem isEs_secondUsed (threshold : Nat) : isEs threshold (nextPosition (secondUsed w d)) = true ↔
    isSes threshold (nextPosition (secondUsed w d)) = true ∨ 1 ≤ (secondUsed w d).anomalies := by
  rw [isEs, Bool.or_eq_true, decide_eq_true_iff, or_comm]
  rfl

/-- What a state shows of a line whose position has ended the second. -/
structure SecondEnded (l : Line) (w : BitVec 48) (d : Second) (s t : State) : Prop where
  used : ReportUsed l w s t
  second : (supOf t l).second = some ⟨0, 0, false⟩
  window : (supOf t l).window =
    if 15 ≤ (positionWindow l w d s).seconds then ⟨0, 0⟩ else positionWindow l w d s
  line : SameMarks (positionLine l w d s (lineOf s l)) (lineOf t l)

theorem secondEnded_of_watch {t : State} {start : Option Nat} (ht : watch t = watch (supervise l
    (fun x => closedSup (positionWindow l w d s) start (positionSup w s x)) (positionLine l w d s) s)) :
    SecondEnded l w d s t := by
  have hsup := supOf_of_watch ht l
  have hline := sameMarks_of_bareLine (bareLine_of_watch ht l)
  rw [supOf_supervise] at hsup
  rw [lineOf_supervise] at hline
  exact {
    used := ⟨hline.attainable, (congrArg unclocked hsup).trans (unclocked_closedSup ..)⟩
    second := (congrArg Supervision.second hsup).trans rfl
    window := (congrArg Supervision.window hsup).trans rfl
    line := hline }

theorem SecondEnded.of_watch {t u : State} (h : SecondEnded l w d s t) (hu : watch u = watch t) : SecondEnded l w d s u where
  used := h.used.of_watch hu
  second := by rw [supOf_of_watch hu]; exact h.second
  window := by rw [supOf_of_watch hu]; exact h.window
  line := by
    have hline := sameMarks_of_bareLine (bareLine_of_watch hu l)
    exact ⟨hline.equipped.trans h.line.equipped, hline.hazard.trans h.line.hazard, hline.sync.trans h.line.sync,
      hline.attainable.trans h.line.attainable, hline.es.trans h.line.es, hline.ses.trans h.line.ses⟩

section
variable (hs : ServiceDerived s) (hsusp : (supOf s l).suspended = false) (hali : (supOf s l).aligned = true)
  (hkeeps : ¬ Loses l w s) (hsecond : (supOf s l).second = some d) (hd : 1000 ≤ d.positions + 1)
include hs hsusp hali hkeeps hsecond hd

/-- Behind the position the state shows what the report and the end of the second have made of the line, and nothing else
that a cause is raised by. -/
theorem takePosition_rest : ∃ u, SecondEnded l w d s u ∧ u.time = s.time ∧ u.settings = s.settings ∧
    u.claims = s.claims ∧ u.seq = s.seq ∧ ServiceDerived u ∧
    (RaisesErrored l w d s → takeReport l w s = raiseTrigger l .errored u) ∧
    (¬ RaisesErrored l w d s → takeReport l w s = u) := by
  obtain ⟨⟨start, hsight⟩, hraised⟩ := sight_takePosition_ends (w := w) hs hkeeps hsecond hd
  exact ⟨_, secondEnded_of_watch (watch_of_sight hsight), (time_of_sight hsight).trans rfl,
    (settings_of_sight hsight).trans rfl, (claims_of_sight hsight).trans rfl, (seq_of_sight hsight).trans rfl,
    serviceDerived_of_leads (sc := .none) (leads_takePosition l w .refl) hs,
    fun h => takeReport_raises hsusp hali (hraised.mpr h), fun h => takeReport_quiet hsusp hali (mt hraised.mp h)⟩

/-- Without a hold, or with a run under way, a raised cause adds nothing to what the position has made of the line; where
none is raised, or it is suppressed, the run records stand. -/
theorem takeReport_ends (hcase : ¬ RaisesErrored l w d s ∨ Suppressed l s ∨ s.claims.own ≠ .holding ∨ Engaged s) :
    SecondEnded l w d s (takeReport l w s) ∧
    (¬ RaisesErrored l w d s ∨ Suppressed l s → (takeReport l w s).seq = s.seq) := by
  obtain ⟨u, hu, -, hsettings, hclaims, hseq, -, hraises, hquiet⟩ :=
    takePosition_rest (w := w) hs hsusp hali hkeeps hsecond hd
  have hsupp : Suppressed l u ↔ Suppressed l s := suppressed_iff hseq hsettings hu.line.equipped hu.line.hazard
  by_cases hr : RaisesErrored l w d s
  · rw [hraises hr]
    by_cases hsup : Suppressed l s
    · rw [raiseTrigger_suppressed (hsupp.mpr hsup)]
      exact ⟨hu, fun _ => hseq⟩
    · refine ⟨hu.of_watch (watch_raiseTrigger l .errored ?_), fun h => absurd hr (h.resolve_right hsup)⟩
      rw [hclaims, Engaged, hseq]
      exact (hcase.resolve_left (not_not.mpr hr)).resolve_left hsup
  · rw [hquiet hr]
    exact ⟨hu, fun _ => hseq⟩

/-- A cause that is raised and not suppressed, in a state that supervision alone has changed (R119, R120). -/
theorem takeReport_raised (hr : RaisesErrored l w d s) (hns : ¬ Suppressed l s) : ∃ u,
    takeReport l w s = raiseTrigger l .errored u ∧ ¬ Suppressed l u ∧ u.time = s.time ∧ u.settings = s.settings ∧
    u.claims = s.claims ∧ u.seq = s.seq ∧ (lineOf u l).service ≠ .up := by
  obtain ⟨u, hu, htime, hsettings, hclaims, hseq, hderived, hraises, -⟩ :=
    takePosition_rest (w := w) hs hsusp hali hkeeps hsecond hd
  refine ⟨u, hraises hr, mt (suppressed_iff hseq hsettings hu.line.equipped hu.line.hazard).mp hns, htime, hsettings,
    hclaims, hseq, ?_⟩
  rw [hderived l]
  exact not_up_of_errored (hu.line.sync.trans hr.2.2)

end

end

/-- Settles O49: the use of the position, its count, and the ends of second and window are one change of the line's
supervision and record, to which the searches and a raised cause add nothing; the cause by the place that its run finds. -/
theorem reportPositionIsUsedAndCounted : Obligations.ReportPositionIsUsedAndCounted := by
  intro l w d s hrun hderived hsusp hali hsecond x r markerGood checkGood good lastFour loses tested' debounced show_ gasp
    sync used
  have hm : markerGood ↔ wordMarkerGood w = true := beq_iff_eq.symm
  have hc : checkGood ↔ wordCheckGood w = true := beq_iff_eq.symm
  have htested : tested' = testMarker (wordMarkerGood w) x := by
    simp only [tested', testMarker, hm]; rfl
  have hloses : loses ↔ Loses l w s := Iff.rfl
  have hgood : good ↔ wordMarkerGood w = true ∧ wordCheckGood w = true := and_congr hm hc
  have hsync : sync = positionSync l w s := by
    simp only [sync, hgood, ite_not]; rfl
  have hused (t : State) (hg : good) (ht : ReportUsed l w s t) : used t := ht.of_good (hgood.mp hg)
  refine ⟨fun hl => ?_, fun hkeeps hwithin => ⟨fun hbad => ?_, fun hmark hbad => ?_, fun hg => ?_⟩, fun hkeeps hends => ?_⟩
  · have hlost := takePosition_lost (hloses.mp hl)
    have htake : takeReport l w s = lost l w s := by
      rw [takeReport_quiet hsusp hali (by simp [hlost]), hlost]
    have hline := marks_of_sight (sight_settle (lost l w s)) l
    rw [lineOf_lost] at hline
    refine ⟨_, exec_live hrun htake, ?_, hline.es, hline.ses, hline.sync⟩
    rw [supOf_settle, supOf_lost, htested, ← markersIn_eight]
    rfl
  · have htake := takePosition_wrongMarker hkeeps hsecond hwithin (Bool.eq_false_iff.mpr (mt hm.mpr hbad))
    refine exec_live hrun ((takeReport_quiet hsusp hali (by simp [htake])).trans ?_)
    rw [htake, htested, Bool.eq_false_iff.mpr (mt hm.mpr hbad)]
    rfl
  · have hc' := Bool.eq_false_iff.mpr (mt hc.mpr hbad)
    have htake := takePosition_wrongCheck hkeeps hsecond hwithin (hm.mp hmark) hc'
    refine exec_live hrun ((takeReport_quiet hsusp hali (by simp [htake])).trans ?_)
    rw [htake, htested, hm.mp hmark]
    rfl
  · obtain ⟨-, hquiet⟩ := sight_takePosition_within (w := w) hderived hkeeps hsecond hwithin
    obtain ⟨husedReport, hcounted, hsync'⟩ := takePosition_good (w := w) hkeeps hsecond hwithin hderived
    have htake := takeReport_quiet hsusp hali (by rw [hquiet]; decide)
    have hsight := sight_settle (takePosition l w s).1
    refine ⟨_, exec_live hrun htake, hused _ hg (husedReport.of_watch (watch_of_sight hsight)), ?_, ?_⟩
    · rw [supOf_settle, hcounted, secondUsed, if_pos (hgood.mp hg)]
      simp [nextPosition, hgood.mp hg]
      rfl
    · rw [(marks_of_sight hsight l).sync, hsync', hsync]
  · intro anomalies ses window severe ends decided raised holds suppressed engaged hcase
    have hbad : markerGood ∧ ¬ checkGood ↔ wordMarkerGood w = true ∧ wordCheckGood w = false := by
      rw [hm, hc, Bool.not_eq_true]
    have hanomalies : anomalies = (secondUsed w d).anomalies := by
      simp only [anomalies, hgood]; rfl
    have hses : ses ↔ isSes s.settings.sesThreshold (nextPosition (secondUsed w d)) = true := by
      rw [isSes_secondUsed, ← hanomalies, ← hbad]
    have hes : ses ∨ 1 ≤ anomalies ↔ isEs s.settings.sesThreshold (nextPosition (secondUsed w d)) = true := by
      rw [isEs_secondUsed, ← hanomalies, ← hses]
    have hwindow : positionWindow l w d s = ⟨window.seconds + 1, severe⟩ := by
      have hafter : windowAfter r.sync (positionSync l w s) x.window = window :=
        (windowAfter_syncUsed ..).trans (if_congr (by rw [hsync]) rfl rfl)
      rw [positionWindow, hafter, windowWith]
      simp only [severe, hses]
    have hends' : ends ↔ 15 ≤ (positionWindow l w d s).seconds := by rw [hwindow]
    have hdecided : decided = positionDecided l w d s := by
      rw [positionDecided, decidedSync, hwindow, ← hsync]
      simp only [decided, ite_not]
      rfl
    have hraised : raised ↔ RaisesErrored l w d s := by
      simp only [raised, RaisesErrored, ← hends', ← hsync, ← hdecided]
    obtain ⟨hreport, hseq⟩ := takeReport_ends (w := w) hderived hsusp hali hkeeps hsecond hends (by rw [← hraised]; exact hcase)
    have hended := hreport.of_watch (watch_of_sight (sight_settle _))
    have hsettle := undisturbed_settle (takeReport l w s)
    refine ⟨_, exec_live hrun rfl, fun hg => hused _ hg hended.used, hended.second, ?_, ?_, ?_, ?_, ?_, ?_,
      fun h => hsettle.seq.trans (hseq (by rw [← hraised]; exact h)), fun hr hns hchain => ?_⟩
    · rw [hended.window, hwindow]
    · exact (congrArg Supervision.markerErrors hended.used.sup).trans
        ((positionSup_markerErrors x).trans (congrArg Supervision.markerErrors htested.symm))
    · refine (congrArg Supervision.checkFailures hended.used.sup).trans ((positionSup_checkFailures x).trans ?_)
      exact (if_congr hbad rfl rfl).symm
    · exact hended.line.ses.trans (if_congr hses rfl rfl).symm
    · exact hended.line.es.trans (if_congr hes rfl rfl).symm
    · exact hended.line.sync.trans hdecided.symm
    · intro placed
      obtain ⟨u, htake, hns', htime, hsettings, hclaims, hseq, hup⟩ :=
        takeReport_raised (w := w) hderived hsusp hali hkeeps hsecond hends (hraised.mp hr) hns
      rw [hsettle.seq, hsettle.meas, hsettle.claims, htake]
      exact ⟨fun he hroom ha => raised_room_seq hns' hseq hsettings hchain he ha hroom,
        fun body q he hq hfull ha => raised_full_seq hns' hseq hsettings hchain he ha htime hq hfull,
        fun a ho hclosing ha hphase horigin hroom hhead => raised_displaces hns' hseq hsettings hchain hclaims ho hclosing ha
          hphase horigin hroom hhead (hazard_of_not_suppressed hns') hup⟩

end Sys2Proof.Machine

/-! The law of the holder view through every step (R123 to R128, R132). -/

namespace Sys2Proof.Machine

/-! ### The claim queue (R124) -/

section
variable {q : List Claimant} {c : Claimant} {k : StationNo}

theorem isUrgent_iff (c : Claimant) : isUrgent c = true ↔ c.priority = .triggered := by simp [isUrgent]

theorem mem_withoutStation {d : Claimant} : d ∈ withoutStation k q ↔ d ∈ q ∧ d.station ≠ k := by simp [withoutStation]

/-- Wherever an entry is placed, the queue holds it and what it held before. -/
theorem placeClaimant_perm (q : List Claimant) (c : Claimant) : (placeClaimant q c).Perm (c :: q) := by
  unfold placeClaimant; split
  · exact List.perm_middle.trans (.cons c (by rw [List.takeWhile_append_dropWhile]))
  · exact List.perm_append_singleton c q

/-- The order of a claim queue: all TRIGGERED entries first. -/
def TriggeredFirst (q : List Claimant) : Prop := q.Pairwise fun a b => b.priority = .triggered → a.priority = .triggered

theorem triggeredFirst_placeClaimant (c : Claimant) (h : TriggeredFirst q) : TriggeredFirst (placeClaimant q c) := by
  unfold placeClaimant; split
  · next hc =>
    refine List.pairwise_append.mpr ⟨h.sublist (List.takeWhile_sublist _), List.pairwise_cons.mpr
      ⟨fun _ _ _ => (isUrgent_iff c).mp hc, h.sublist (List.dropWhile_sublist _)⟩, fun a ha _ _ _ => ?_⟩
    exact (isUrgent_iff a).mp (List.mem_takeWhile_imp ha)
  · next hc =>
    refine List.pairwise_append.mpr ⟨h, List.pairwise_singleton _ _, fun a _ b hb ht => absurd ht ?_⟩
    rw [List.mem_singleton.mp hb, ← isUrgent_iff]
    exact hc

/-- What the law of a holder view asks of its queue, with the stations that may stand in it. -/
structure SoundQueue (may : StationNo → Prop) (q : List Claimant) : Prop where
  once : (q.map (·.station)).Nodup
  allowed : ∀ c ∈ q, may c.station
  ordered : TriggeredFirst q

variable {may : StationNo → Prop}

theorem SoundQueue.sublist {p : List Claimant} (h : SoundQueue may q) (hp : p.Sublist q) : SoundQueue may p :=
  ⟨h.once.sublist (hp.map _), fun c hc => h.allowed c (hp.subset hc), h.ordered.sublist hp⟩

/-- A station enters a queue in which it has no entry. -/
theorem SoundQueue.placed (h : SoundQueue may q) (hc : may c.station) (hnew : ∀ d ∈ q, d.station ≠ c.station) :
    SoundQueue may (placeClaimant q c) := by
  have hperm := placeClaimant_perm q c
  refine ⟨?_, fun d hd => ?_, triggeredFirst_placeClaimant c h.ordered⟩
  · refine (hperm.map (·.station)).nodup_iff.mpr (List.nodup_cons.mpr ⟨fun hmem => ?_, h.once⟩)
    obtain ⟨d, hd, hs⟩ := List.mem_map.mp hmem
    exact hnew d hd hs
  · rcases List.mem_cons.mp (hperm.subset hd) with rfl | hd
    · exact hc
    · exact h.allowed d hd

/-- Entries that take new holds keep their stations and their order. -/
theorem SoundQueue.held (h : SoundQueue may q) {f : Claimant → Claimant}
    (hf : ∀ c, (f c).station = c.station ∧ (f c).priority = c.priority) : SoundQueue may (q.map f) := by
  have hstations : (q.map f).map (·.station) = q.map (·.station) := by simp [Function.comp_def, hf]
  refine ⟨by rw [hstations]; exact h.once, fun d hd => ?_, ?_⟩
  · obtain ⟨c, hc, rfl⟩ := List.mem_map.mp hd
    rw [(hf c).1]; exact h.allowed c hc
  · exact List.pairwise_map.mpr (h.ordered.imp fun {a b} hab => by rw [(hf a).2, (hf b).2]; exact hab)

/-- A CLAIM of a station that may stand in the queue (R124). -/
theorem SoundQueue.claimed (h : SoundQueue may q) (hk : may k) (p : Priority) (hold : Nat) :
    SoundQueue may (queueAfterClaim k p hold q) := by
  unfold queueAfterClaim; split
  · next hnone =>
    refine h.placed hk fun d hd => ?_
    simpa using List.find?_eq_none.mp hnone d hd
  · split
    · exact (h.sublist List.filter_sublist).placed hk fun d hd => (mem_withoutStation.mp hd).2
    · refine h.held fun c => ?_
      split <;> exact ⟨rfl, rfl⟩

end

/-! ### The moves of the view (R124 to R128) -/

theorem turnAfter_isSome (time : Nat) (old new : Claims) :
    (turnAfter time old new).isSome = (new.holder.isNone && !new.queue.isEmpty) := by
  unfold turnAfter
  cases new.holder with
  | some k => rfl
  | none =>
    cases new.queue with
    | nil => rfl
    | cons c q => rw [if_neg (by simp)]; split <;> rfl

section
variable {own k : StationNo} {x y : Claims} {time : Nat}

/-- Which stations may stand in the queue: those that are present and do not hold. -/
def mayQueue (cl : Claims) (k : StationNo) : Prop := cl.holder ≠ some k ∧ look cl.present k = true

theorem SoundView.queue (h : SoundView own x) : SoundQueue (mayQueue x) x.queue :=
  ⟨h.once, fun c hc => ⟨h.notHolder c hc, h.present c hc⟩, h.ordered⟩

/-- A change that moves the view alone leaves it sound where its queue, its holder and their presence are, for the turn timer
follows them (R128). -/
theorem soundView_withTurn {f : Claims → Claims} (hqueue : SoundQueue (mayQueue (f x)) (f x).queue)
    (hholder : ∀ k ∈ (f x).holder, look (f x).present k = true) (hown : look (f x).present own = true)
    (hexpiry : (f x).expiry.isSome = (f x).holder.isSome) : SoundView own (withTurn time f x) where
  once := hqueue.once
  notHolder c hc := (hqueue.allowed c hc).1
  present c hc := (hqueue.allowed c hc).2
  holderPresent := hholder
  ownPresent := hown
  ordered := hqueue.ordered
  expiry := hexpiry
  turn := turnAfter_isSome time x (f x)

/-- The hold of a view stands or ends. -/
def HoldKept (x y : Claims) : Prop :=
  y.present = x.present ∧ ((y.holder = x.holder ∧ y.expiry = x.expiry) ∨ (y.holder = none ∧ y.expiry = none))

/-- A view that stands, or whose hold ends, with some entries gone. -/
theorem SoundView.lessened (h : SoundView own x) {f : Claims → Claims} (hqueue : (f x).queue.Sublist x.queue)
    (hkept : HoldKept x (f x)) : SoundView own (withTurn time f x) := by
  have hsub := h.queue.sublist hqueue
  obtain ⟨hpresent, hhold⟩ := hkept
  rcases hhold with ⟨hholder, hexpiry⟩ | ⟨hholder, hexpiry⟩
  · refine soundView_withTurn ⟨hsub.once, fun c hc => ?_, hsub.ordered⟩ ?_ (by rw [hpresent]; exact h.ownPresent)
      (by rw [hholder, hexpiry]; exact h.expiry)
    · rw [mayQueue, hholder, hpresent]; exact hsub.allowed c hc
    · rw [hholder, hpresent]; exact h.holderPresent
  · refine soundView_withTurn ⟨hsub.once, fun c hc => ?_, hsub.ordered⟩ ?_ (by rw [hpresent]; exact h.ownPresent)
      (by rw [hholder, hexpiry]; rfl)
    · rw [mayQueue, hholder, hpresent]; exact ⟨nofun, (hsub.allowed c hc).2⟩
    · rw [hholder]; nofun

/-- A present station takes or keeps the head (R125, R126). -/
theorem SoundView.taken (h : SoundView own x) (hk : look x.present k = true) (expiry : Nat) :
    SoundView own (withTurn time (makeHolder k expiry) x) := by
  have hrest := h.queue.sublist (p := withoutStation k x.queue) List.filter_sublist
  refine soundView_withTurn ⟨hrest.once, fun c hc => ⟨fun heq => ?_, (hrest.allowed c hc).2⟩, hrest.ordered⟩ ?_ h.ownPresent rfl
  · exact (mem_withoutStation.mp hc).2 (Option.some.inj heq).symm
  · intro j hj
    cases hj; exact hk

theorem SoundView.stands (h : SoundView own x) {f : Claims → Claims} (hf : f x = x) : SoundView own (withTurn time f x) :=
  h.lessened (by rw [hf]) (by rw [hf]; exact ⟨rfl, .inl ⟨rfl, rfl⟩⟩)

theorem SoundView.claim (h : SoundView own x) (p : Priority) (hold : Nat) :
    SoundView own (withTurn time (viewClaim k p hold) x) := by
  by_cases hk : (!look x.present k || decide (x.holder = some k)) = true
  · exact h.stands (if_pos hk)
  · have hview : viewClaim k p hold x = { x with queue := queueAfterClaim k p hold x.queue } := if_neg hk
    have hmay : mayQueue x k := by simpa [mayQueue, and_comm] using hk
    rw [withTurn, hview]
    exact soundView_withTurn (f := fun _ => _) (h.queue.claimed hmay p hold) h.holderPresent h.ownPresent h.expiry

theorem SoundView.take (h : SoundView own x) (hold : Nat) : SoundView own (withTurn time (viewTake time k hold) x) := by
  by_cases hk : (!look x.present k || x.holder.isSome) = true
  · exact h.stands (if_pos hk)
  · have hview : viewTake time k hold x = makeHolder k (time + hold * 100 + Config.holdMargin) x := if_neg hk
    rw [withTurn, hview]
    refine h.taken ?_ _
    simp only [Bool.or_eq_true, Bool.not_eq_true', not_or, Bool.not_eq_false] at hk
    exact hk.1

theorem SoundView.heldBy (h : SoundView own x) (remaining : Nat) :
    SoundView own (withTurn time (viewHeld time k remaining) x) := by
  by_cases hk : (!look x.present k) = true
  · exact h.stands (if_pos hk)
  · have hview : viewHeld time k remaining x = makeHolder k (time + remaining * 100 + Config.holdMargin) x := if_neg hk
    rw [withTurn, hview]
    exact h.taken (by simpa using hk) _

theorem viewRelease_queue (k : StationNo) (x : Claims) : (viewRelease k x).queue.Sublist x.queue := by
  unfold viewRelease; split
  · exact .refl _
  · exact List.filter_sublist

theorem holdKept_endHold (x : Claims) : HoldKept x (endHold x) := ⟨rfl, .inr ⟨rfl, rfl⟩⟩

theorem holdKept_viewRelease (k : StationNo) (x : Claims) : HoldKept x (viewRelease k x) := by
  unfold viewRelease; split
  · exact holdKept_endHold x
  · exact ⟨rfl, .inl ⟨rfl, rfl⟩⟩

theorem holdKept_viewStatus (k : StationNo) (b : Bool) (x : Claims) : HoldKept x (viewStatus k b x) := by
  unfold viewStatus; split
  · exact holdKept_endHold x
  · exact ⟨rfl, .inl ⟨rfl, rfl⟩⟩

theorem viewStatus_queue (k : StationNo) (b : Bool) (x : Claims) : (viewStatus k b x).queue = x.queue := by
  unfold viewStatus; split <;> rfl

theorem holdKept_endOwnHold (k : StationNo) (x : Claims) : HoldKept x (endOwnHold k x) := by
  unfold endOwnHold; split
  · exact holdKept_endHold x
  · exact ⟨rfl, .inl ⟨rfl, rfl⟩⟩

theorem endOwnHold_queue (k : StationNo) (x : Claims) : (endOwnHold k x).queue = x.queue := by
  unfold endOwnHold; split <;> rfl

theorem holdKept_viewGone (k : StationNo) (x : Claims) : HoldKept x (viewGone k x) := by
  unfold viewGone; dsimp only; split
  · exact ⟨rfl, .inr ⟨rfl, rfl⟩⟩
  · exact ⟨rfl, .inl ⟨rfl, rfl⟩⟩

theorem viewGone_queue (k : StationNo) (x : Claims) : (viewGone k x).queue = withoutStation k x.queue := by
  unfold viewGone; dsimp only; split <;> rfl

/-- An ABSENT station holds no longer, and no other station's hold ends with it (R127). -/
theorem viewGone_holder (k : StationNo) (x : Claims) :
    (viewGone k x).holder = if x.holder = some k then none else x.holder := by
  unfold viewGone; dsimp only; split <;> rfl

/-- A station that becomes ABSENT leaves the view, and no other station is touched (R123, R127). -/
theorem SoundView.absent (h : SoundView own x) (hk : k ≠ own) :
    SoundView own (withTurn time (viewGone k) { x with present := put x.present k false }) := by
  have hothers {j : StationNo} (hj : j ≠ k) : look (put x.present k false) j = look x.present j :=
    look_put_ne _ _ _ _ hj.symm
  have hgone := viewGone_holder k { x with present := put x.present k false }
  obtain ⟨hpresent, hhold⟩ := holdKept_viewGone k { x with present := put x.present k false }
  have hqueue := viewGone_queue k { x with present := put x.present k false }
  have hrest := h.queue.sublist (p := withoutStation k x.queue) List.filter_sublist
  refine soundView_withTurn ?_ ?_ ?_ ?_
  · rw [hqueue]
    refine ⟨hrest.once, fun c hc => ⟨?_, ?_⟩, hrest.ordered⟩
    · rw [hgone]; split
      · nofun
      · exact (hrest.allowed c hc).1
    · rw [hpresent, hothers (mem_withoutStation.mp hc).2]
      exact (hrest.allowed c hc).2
  · intro j hj
    rw [hgone] at hj
    split at hj
    · cases hj
    · next hne =>
      rw [hpresent, hothers fun hjk => hne (hjk ▸ hj)]
      exact h.holderPresent j hj
  · rw [hpresent, hothers hk.symm]
    exact h.ownPresent
  · rcases hhold with ⟨hholder, hexpiry⟩ | ⟨hholder, hexpiry⟩
    · rw [hholder, hexpiry]; exact h.expiry
    · rw [hholder, hexpiry]; rfl

theorem SoundView.nowPresent (h : SoundView own x) (k : StationNo) :
    SoundView own { x with present := put x.present k true } := by
  have hkept {j : StationNo} (hj : look x.present j = true) : look (put x.present k true) j = true := by
    by_cases hjk : k = j
    · rw [hjk]; exact look_put_same ..
    · rw [look_put_ne _ _ _ _ hjk]; exact hj
  exact ⟨h.once, h.notHolder, fun c hc => hkept (h.present c hc), fun j hj => hkept (h.holderPresent j hj),
    hkept h.ownPresent, h.ordered, h.expiry, h.turn⟩

/-- Every move of the view leaves it sound (R123 to R128, R132). -/
theorem ViewMove.keeps_soundView (hmove : ViewMove time own x y) (h : SoundView own x) : SoundView own y := by
  cases hmove with
  | claim k p hold => exact h.claim p hold
  | take k hold => exact h.take hold
  | held k remaining => exact h.heldBy remaining
  | release k => exact h.lessened (viewRelease_queue k x) (holdKept_viewRelease k x)
  | status k b => exact h.lessened (by rw [viewStatus_queue]) (holdKept_viewStatus k b x)
  | gone k => exact h.lessened (by rw [viewGone_queue]; exact List.filter_sublist) (holdKept_viewGone k x)
  | ended => exact h.lessened (.refl _) (holdKept_endHold x)
  | endedOwn k => exact h.lessened (by rw [endOwnHold_queue]) (holdKept_endOwnHold k x)
  | lapse => exact h.lessened (List.drop_sublist 1 x.queue) ⟨rfl, .inl ⟨rfl, rfl⟩⟩
  | present k => exact h.nowPresent k
  | absent k hk => exact h.absent hk

theorem SoundView.kept (h : SoundView own x) (hkept : ViewKept x y) : SoundView own y := by
  obtain ⟨hholder, hexpiry, hqueue, hturn, hpresent⟩ := hkept
  obtain ⟨honce, hnot, hp, hhp, hown, hordered, hexp, htimer⟩ := h
  constructor
  all_goals simp only [hholder, hexpiry, hqueue, hturn, hpresent]; assumption

end

/-! ### Every step (R123, R128) -/

section
variable {s t : State}

theorem ViewSound.congr (h : ViewSound s) (hclaims : t.claims = s.claims) (hloader : t.loader = s.loader) : ViewSound t := by
  rw [ViewSound, State.station, hclaims, hloader]
  exact h

/-- Of the elementary changes only those of the claim unit touch the view. -/
theorem Change.keeps_viewSound {sc : Scope} (h : Change sc s t) (hs : ViewSound s) : ViewSound t := by
  obtain ⟨-, -, -, -, -, -, hloader⟩ := h.other
  cases h with
  | claims f hkept _ => exact SoundView.kept hs (hkept _)
  | view f _ _ hmove => exact hmove.keeps_soundView hs
  | recompute => exact hs.congr (recompute_rest s).2.2.2.2 hloader
  | riseCheck => exact hs.congr (takeRiseCheck_frame s).2.2.2.2 hloader
  | _ => exact hs.congr rfl hloader

theorem stepKeeps_viewSound : StepKeeps ViewSound where
  pending _ _ hs := hs
  clocks s hs := by rw [tickClocks_eq]; exact hs
  tick s hs := hs.congr (by rw [tickRunning_eq, tickClocks_eq]) (by rw [tickRunning_eq, tickClocks_eq])
  live c hc _ _ hs he := exec_keeps (fun _ _ _ h => h.keeps_viewSound) hc he hs
  powerUp _ _ := soundView_start _
  cutOff _ hs := hs.kept ⟨rfl, rfl, rfl, rfl, rfl⟩
  restart _ _ := soundView_start _
  opens straps b s _ := by
    have hund := opened_undisturbed straps b s
    exact ViewSound.congr (s := deliver straps b s) (soundView_start _) hund.claims hund.loader

end

/-- Settles O20: through the chains of elementary changes, in which the view changes by its moves alone. -/
theorem everyStepKeepsTheHolderViewSound : Obligations.EveryStepKeepsTheHolderViewSound :=
  fun _ _ hs ht => stepKeeps_viewSound.step hs ht

end Sys2Proof.Machine

/-! The bookkeeping of runs while the station does not hold the bus, and a station that leaves HOLDING (R133 to R135, R142,
R146, R148, R150). -/

namespace Sys2Proof.Machine

/-! ### Reports that only enter (R167) -/

/-- Every report and every frame of UM that stands in one state stands in another, in its place. -/
structure Grows (s t : State) : Prop where
  reports : s.mgmt.reports <+: t.mgmt.reports
  um : s.store.um <+: t.store.um

section
variable {s t u : State}

theorem Grows.refl (s : State) : Grows s s := ⟨List.prefix_refl _, List.prefix_refl _⟩

theorem Grows.trans (h : Grows s t) (k : Grows t u) : Grows s u := ⟨h.reports.trans k.reports, h.um.trans k.um⟩

theorem Grows.aside (h : Grows s t) (hmgmt : u.mgmt = t.mgmt) (hstore : u.store = t.store) : Grows s u :=
  ⟨by rw [hmgmt]; exact h.reports, by rw [hstore]; exact h.um⟩

theorem um_offerUpTo (n : Nat) (s : State) : s.store.um <+: (offerUpTo n s).store.um := by
  induction n generalizing s with
  | zero => exact List.prefix_refl _
  | succ n ih =>
    unfold offerUpTo; split
    · exact List.prefix_refl _
    · next r rest _ =>
      split
      · have hentered : s.store.um <+: (sendReport r rest s).store.um := List.prefix_append _ _
        exact hentered.trans (ih _)
      · exact List.prefix_refl _

/-- A report is offered only where it has found the queue empty, so nothing that waits leaves its place. -/
theorem grows_queueReport (body : ReportBody) (s : State) : Grows s (queueReport body s) := by
  by_cases hfull : 16 ≤ s.mgmt.reports.length
  · rw [queueReport_full hfull]; exact ⟨List.prefix_refl _, List.prefix_refl _⟩
  · by_cases hne : s.mgmt.reports = []
    · refine ⟨by rw [hne]; exact List.nil_prefix, ?_⟩
      unfold queueReport
      rw [if_neg (by exact hfull)]
      dsimp only; split
      · exact um_offerUpTo _ (setMgmt _ s)
      · exact List.prefix_refl _
    · rw [queueReport_waits hne (by omega)]
      exact ⟨List.prefix_append _ _, List.prefix_refl _⟩

/-- One report at most: the blocks of reports stand, or are those that a report leaves. -/
def ReportsOnce (s t : State) : Prop :=
  (t.mgmt = s.mgmt ∧ t.store = s.store) ∨
  ∃ body, t.mgmt = (queueReport body s).mgmt ∧ t.store = (queueReport body s).store

theorem ReportsOnce.grows (h : ReportsOnce s t) : Grows s t := by
  rcases h with ⟨hmgmt, hstore⟩ | ⟨body, hmgmt, hstore⟩
  · exact (Grows.refl s).aside hmgmt hstore
  · exact (grows_queueReport body s).aside hmgmt hstore

theorem ReportsOnce.aside (h : ReportsOnce s t) (hmgmt : u.mgmt = t.mgmt) (hstore : u.store = t.store) :
    ReportsOnce s u := by
  unfold ReportsOnce at *
  rw [hmgmt, hstore]
  exact h

/-- It does not matter what else differs where it begins. -/
theorem ReportsOnce.congr (h : ReportsOnce t u) (htime : t.time = s.time) (hmgmt : t.mgmt = s.mgmt)
    (hstore : t.store = s.store) : ReportsOnce s u := by
  rcases h with ⟨hm, hst⟩ | ⟨body, hm, hst⟩
  · exact .inl ⟨hm.trans hmgmt, hst.trans hstore⟩
  · obtain ⟨hm', hst'⟩ := queueReport_congr body htime hstore hmgmt
    exact .inr ⟨body, hm.trans hm', hst.trans hst'⟩

/-- Where reports wait, one more at most waits behind them. -/
theorem ReportsOnce.waits (h : ReportsOnce s t) (hne : s.mgmt.reports ≠ []) (hroom : s.mgmt.reports.length < 16) :
    t.mgmt.reports ≠ [] ∧ t.mgmt.reports.length ≤ s.mgmt.reports.length + 1 := by
  rcases h with ⟨hmgmt, -⟩ | ⟨body, hmgmt, -⟩
  · rw [hmgmt]; exact ⟨hne, Nat.le_succ _⟩
  · rw [hmgmt, queueReport_waits hne hroom]; simp

end

/-! ### A line that leaves CONNECTED, or was not in it (R10, R12, R133) -/

section
variable {l : Line} {s : State} {new : TestCond}

theorem rederived_store (ho : inService (lineOf s l).service = false) : (rederived l s).store = s.store := by
  rw [rederived, serviceEffects_staying l _ (by simp [ho])]
  split
  · rfl
  · split <;> rfl

/-- A line out of service is derived with one report at most, and none of its frames is touched. -/
theorem reportsOnce_rederive (h : inService (lineOf s l).service = false ∨
    (lineOf s l).service = deriveService (lineOf s l)) : ReportsOnce s (rederive l s) := by
  by_cases hsame : (lineOf s l).service = deriveService (lineOf s l)
  · rw [rederive_same hsame]; exact .inl ⟨rfl, rfl⟩
  · have hout := h.resolve_right hsame
    refine .inr ⟨.lineState l (lineOf s l).service (deriveService (lineOf s l)) (lineOf s l).sync (lineOf s l).test
      (lineOf s l).barred (lineOf s l).hazard, ?_⟩
    rw [rederive_report hsame]
    exact queueReport_congr _ (rederived_effectsOf l s).1 (rederived_store hout) (rederived_mgmt hout)

/-- With its service state derived, a line on which the test condition does not become CONNECTED does not leave service. -/
theorem reportsOnce_setTest (hs : ServiceDerived s) (hnew : new ≠ .connected) : ReportsOnce s (setTest l new s) := by
  by_cases hsame : new = (lineOf s l).test
  · rw [setTest_same hsame]; exact .inl ⟨rfl, rfl⟩
  · have hservice := hs l
    rw [setTest_eq hsame]
    by_cases htest : (lineOf s l).test = .connected
    · have hout : inService (lineOf (testTaken l new s) l).service = false := by
        rw [testTaken_leaving htest, lineOf_setLine_same, resumeLine, lineOf_setLine_same, lineOf_setSup]
        dsimp only
        rw [hservice, deriveService_eq, htest]
        split <;> rfl
      have htaken : testTaken l new s = setLine l (fun x => { x with test := new }) (resumeLine l s) :=
        testTaken_leaving htest
      have hreports := reportsOnce_rederive (.inl hout)
      have hfollowed : ReportsOnce (testTaken l new s) (followTimer l (rederive l (testTaken l new s))) :=
        hreports.aside (by rw [followTimer_eq, setSup_mgmt]) (by rw [followTimer_eq, setSup_store])
      exact hfollowed.congr (by rw [htaken]; rfl) (by rw [htaken]; rfl) (by rw [htaken]; rfl)
    · have hderived : (lineOf (testTaken l new s) l).service = deriveService (lineOf (testTaken l new s) l) := by
        rw [testTaken_entering htest, lineOf_setLine_same]
        exact hservice.trans (deriveService_congr rfl rfl rfl (by simp [htest, hnew]))
      rw [rederive_same hderived, testTaken_entering htest]
      exact .inl ⟨rfl, rfl⟩

theorem meas_of_sight {s t : State} (h : sight t = sight s) : t.meas = s.meas := congrArg Sight.meas h

/-- The test sequencer and the measurement unit do not hear of a service state (R7 to R12). -/
theorem rederive_runs (l : Line) (s : State) : (rederive l s).seq = s.seq ∧ (rederive l s).meas = s.meas := by
  by_cases hsame : (lineOf s l).service = deriveService (lineOf s l)
  · rw [rederive_same hsame]; exact ⟨rfl, rfl⟩
  · obtain ⟨u, hu⟩ := rederive_eq_withCells hsame
    have heffects : (rederived l s).seq = s.seq ∧ (rederived l s).meas = s.meas := by
      by_cases h : inService (lineOf s l).service = true ∧ inService (deriveService (lineOf s l)) = false
      · have hleft := sight_leaveService (setLine l (fun x => { x with service := deriveService (lineOf s l) }) s) l
        rw [rederived, serviceEffects_leaving l _ h.1 h.2]
        generalize leaveService l _ = t at hleft ⊢
        have hseq : t.seq = s.seq := (seq_of_sight hleft).trans (setLine_seq ..)
        have hmeas : t.meas = s.meas := (meas_of_sight hleft).trans (setLine_meas ..)
        split <;> exact ⟨hseq, hmeas⟩
      · rw [rederived, serviceEffects_staying l _ h]
        split
        · exact ⟨rfl, rfl⟩
        · split <;> exact ⟨rfl, rfl⟩
    rw [hu]; exact heffects

/-- Nor of a test condition. -/
theorem setTest_runs (l : Line) (new : TestCond) (s : State) :
    (setTest l new s).seq = s.seq ∧ (setTest l new s).meas = s.meas := by
  by_cases hsame : new = (lineOf s l).test
  · rw [setTest_same hsame]; exact ⟨rfl, rfl⟩
  · obtain ⟨hseq, hmeas⟩ := rederive_runs l (testTaken l new s)
    have htaken : (testTaken l new s).seq = s.seq ∧ (testTaken l new s).meas = s.meas := by
      unfold testTaken; split <;> exact ⟨rfl, rfl⟩
    rw [setTest_eq hsame, followTimer_eq, setSup_seq, setSup_meas]
    exact ⟨hseq.trans htaken.1, hmeas.trans htaken.2⟩

end

/-! ### Leaving HOLDING (R133, R135) -/

section
variable {s : State}

/-- The claim unit with no relay closed: one that was closed has been released, and its stimulus with it (R133). -/
def disconnected (time : Nat) (cl : Claims) : Claims :=
  { cl with
    relay := none
    stimulus := if cl.relay = none then cl.stimulus else .none
    releaseAt := if cl.relay = none then cl.releaseAt else some (time + 10) }

theorem disconnect_open (h : s.claims.relay = none) : disconnect s = s := by simp only [disconnect, h]

theorem disconnect_closed {l : Line} (h : s.claims.relay = some l) : disconnect s =
    setTest l (restingTest s l) (setClaims (fun cl => { cl with
      relay := none, stimulus := .none, releaseAt := some (s.time + Config.releaseTime) }) s) := by
  simp only [disconnect, h]

theorem claims_disconnect (s : State) : (disconnect s).claims = disconnected s.time s.claims := by
  cases h : s.claims.relay with
  | none => rw [disconnect_open h, disconnected, h, if_pos rfl, if_pos rfl, ← h]
  | some l =>
    rw [disconnect_closed h, setTest_claims, disconnected, h, if_neg nofun, if_neg nofun]; rfl

theorem disconnect_runs (s : State) : (disconnect s).seq = s.seq ∧ (disconnect s).meas = s.meas := by
  cases h : s.claims.relay with
  | none => rw [disconnect_open h]; exact ⟨rfl, rfl⟩
  | some l => rw [disconnect_closed h]; exact setTest_runs _ _ _

/-- A line whose relay is released tells of its new service state, and of nothing else (R12, R133). -/
theorem reportsOnce_disconnect (hs : ServiceDerived s) : ReportsOnce s (disconnect s) := by
  cases h : s.claims.relay with
  | none => rw [disconnect_open h]; exact .inl ⟨rfl, rfl⟩
  | some l =>
    rw [disconnect_closed h]
    exact (reportsOnce_setTest (s := setClaims _ s) (by exact hs) (restingTest_ne_connected s l)).congr rfl rfl rfl

/-- The claim unit as it leaves HOLDING (R135). -/
def leftHolding (time : Nat) (cl : Claims) : Claims :=
  { cl with
    relay := none, stimulus := if cl.relay = none then cl.stimulus else .none, own := .releasing, ownLimit := none
    limitReached := false, connectWaits := none, releaseAt := some (time + 10) }

theorem leaveHolding_claims (s : State) : (leaveHolding s).claims = leftHolding s.time s.claims := by
  rw [leaveHolding, setClaims_claims, claims_disconnect]; rfl

theorem leaveHolding_runs (s : State) : (leaveHolding s).seq = s.seq ∧ (leaveHolding s).meas = s.meas := disconnect_runs s

theorem reportsOnce_leaveHolding (hs : ServiceDerived s) : ReportsOnce s (leaveHolding s) := reportsOnce_disconnect hs

end

/-! ### Runs recorded while the station is in RELEASING (R129, R142, R146, R148, R150) -/

/-- What the bookkeeping of runs leaves alone: supervision and the bare line records, the lines that are CONNECTED, the notice
interface, and the claim unit but for the claim recorded; its reports only enter. -/
structure Bookkept (s t : State) : Prop where
  watch : watch t = watch s
  connected : ∀ l, (lineOf t l).test = .connected ↔ (lineOf s l).test = .connected
  notices : t.notices = s.notices
  claims : t.claims = { s.claims with recorded := t.claims.recorded }
  grows : Grows s t

section
variable {s t u : State}

theorem Bookkept.refl (s : State) : Bookkept s s := ⟨rfl, fun _ => .rfl, rfl, rfl, .refl s⟩

theorem Bookkept.trans (h : Bookkept s t) (k : Bookkept t u) : Bookkept s u where
  watch := k.watch.trans h.watch
  connected l := (k.connected l).trans (h.connected l)
  notices := k.notices.trans h.notices
  claims := k.claims.trans (by rw [h.claims])
  grows := h.grows.trans k.grows

theorem Bookkept.own (h : Bookkept s t) : t.claims.own = s.claims.own := by rw [h.claims]

theorem bookkept_setSeq (f : Sequencer → Sequencer) (s : State) : Bookkept s (setSeq f s) :=
  ⟨rfl, fun _ => .rfl, rfl, rfl, (Grows.refl s).aside rfl rfl⟩

theorem endRecord_lines (r : Run) (o : RunOutcome) (k : Slot) (s : State) : (endRecord r o k s).lines = s.lines := by
  have hreport := (queueReport_frame (.runEnded r o k) s).2.1
  unfold endRecord; dsimp only; split <;> exact hreport

theorem bookkept_endRecord (r : Run) (o : RunOutcome) (k : Slot) (s : State) : Bookkept s (endRecord r o k s) where
  watch := watch_endRecord r o k s
  connected l := by rw [lineOf, endRecord_lines]; rfl
  notices := endRecord_notices s r o k
  claims := by rw [endRecord_claims]
  grows := (grows_queueReport _ s).aside (endRecord_reports r o k s).1 (endRecord_reports r o k s).2

theorem refreshTests_test (s : State) (l : Line) : (lineOf (refreshTests s) l).test =
    if (lineOf s l).test = .connected then .connected else restingTest s l := by
  rw [refreshTests, lineOf_setAllLines]; split
  · assumption
  · rfl

theorem bookkept_refreshTests (s : State) : Bookkept s (refreshTests s) where
  watch := watch_refreshTests s
  connected l := by
    rw [refreshTests_test]; split
    · next h => simp [h]
    · next h => simp [h, restingTest_ne_connected]
  notices := refreshTests_notices s
  claims := by rw [refreshTests_claims]
  grows := (Grows.refl s).aside rfl rfl

theorem bookkept_enterFront (r : Run) (s : State) : Bookkept s (enterFront r s) := by
  unfold enterFront; dsimp only
  refine .trans ?_ (bookkept_refreshTests _)
  split
  · exact (bookkept_setSeq _ s).trans (bookkept_endRecord _ _ _ _)
  · exact bookkept_setSeq _ s

theorem bookkept_suspendRun (a : Active) (k : Slot) (s : State) : Bookkept s (suspendRun a k s) :=
  (bookkept_setSeq _ s).trans (bookkept_enterFront _ _)

section
variable (ho : s.claims.own = .releasing)
include ho

/-- A run that becomes active while the station gives up the bus has its claim recorded (R129, R146). -/
theorem becomeActive_releasing (r : Run) : becomeActive r s = setClaims (fun cl => { cl with recorded := some (termsOf s r) })
    (refreshTests (setSeq (fun q => { q with active := some (activeIn r .waitingBus) }) s)) := by
  unfold becomeActive
  rw [if_neg (by rw [ho]; decide), claimHead_releasing _ (by rw [refreshTests_claims]; exact ho)]

theorem bookkept_becomeActive (r : Run) : Bookkept s (becomeActive r s) := by
  have hactive := (bookkept_setSeq (fun q => { q with active := some (activeIn r .waitingBus) }) s).trans
    (bookkept_refreshTests _)
  rw [becomeActive_releasing ho]
  exact ⟨hactive.watch, hactive.connected, hactive.notices, rfl, hactive.grows.aside rfl rfl⟩

theorem bookkept_endAtActivation (r : Run) (o : RunOutcome) : Bookkept s (endAtActivation r o s) := by
  rw [endAtActivation_unheld r o (by rw [ho]; decide)]
  exact (bookkept_endRecord _ _ _ s).trans (bookkept_refreshTests _)

theorem bookkept_activate : Bookkept s (activate s) := by
  have hupTo (n : Nat) {t : State} (ht : Bookkept s t) : Bookkept s (activateUpTo n t) := by
    induction n generalizing t with
    | zero => exact ht
    | succ n ih =>
      unfold activateUpTo; split
      · exact ht
      · split
        · exact ht
        · next r rest _ =>
          have hrest := ht.trans (bookkept_setSeq (fun q => { q with queue := rest }) t)
          have hreleasing := hrest.own.trans ho
          dsimp only; split
          · exact ih (hrest.trans (bookkept_endAtActivation hreleasing _ _))
          · exact hrest.trans (bookkept_becomeActive hreleasing _)
  exact hupTo _ (.refl s)

/-- The sequencer hears that the hold is lost when no relay is closed any more (R150). -/
theorem bookkept_holdLost (hr : s.claims.relay = none) : Bookkept s (holdLost s) := by
  have hactivate {t : State} (ht : Bookkept s t) : Bookkept s (activate t) :=
    ht.trans (bookkept_activate (ht.own.trans ho))
  unfold holdLost; split
  · exact hactivate (bookkept_setSeq _ s)
  · split
    · exact .refl s
    · next a _ =>
      split
      · exact .refl s
      · split
        · rw [finishEnding, disconnect_open hr, decideHold, if_pos (.inl (by rw [ho]; decide))]
          exact hactivate ((bookkept_setSeq _ s).trans ((bookkept_endRecord _ _ _ _).trans (bookkept_refreshTests _)))
        · split
          · exact hactivate (bookkept_suspendRun _ _ s)
          · exact hactivate ((bookkept_setSeq _ s).trans ((bookkept_setSeq _ _).trans
              ((bookkept_endRecord _ _ _ _).trans (bookkept_refreshTests _))))

end

/-- A station that loses its hold leaves HOLDING, and may record a claim (R134, R135, R150). -/
theorem bookkept_loseHold (s : State) : Bookkept (leaveHolding s) (loseHold s) := by
  have hleft := leaveHolding_claims s
  exact bookkept_holdLost (by rw [hleft]; rfl) (by rw [hleft]; rfl)

theorem loseHold_claims (s : State) :
    (loseHold s).claims = { leftHolding s.time s.claims with recorded := (loseHold s).claims.recorded } := by
  rw [← leaveHolding_claims]
  exact (bookkept_loseHold s).claims

end

end Sys2Proof.Machine

/-! What the notices of a present peer do to the holder view and to the own claim (R124 to R127, R131, R134). -/

namespace Sys2Proof.Machine

/-! ### The view behind a notice (R124 to R127) -/

section
variable {k : StationNo} {cl : Claims} {time : Nat}

theorem changeView_heldView (f : Claims → Claims) (s : State) :
    heldView (changeView f s) = ((f s.claims).holder, (f s.claims).queue, (f s.claims).expiry) := followOwn_heldView _

/-- The CLAIM of a station whose entry stands: the entry takes the new hold, or is raised behind the TRIGGERED ones. -/
theorem queueAfterClaim_stands {before behind : List Claimant} {c : Claimant} (p : Priority) (hold : Nat)
    (hc : c.station = k) (hother : ∀ d ∈ before ++ behind, d.station ≠ k) :
    queueAfterClaim k p hold (before ++ c :: behind) = if p = .triggered ∧ c.priority = .scheduled
      then placeClaimant (before ++ behind) ⟨k, .triggered, hold⟩
      else before ++ ⟨k, c.priority, hold⟩ :: behind := by
  have hbefore : ∀ d ∈ before, d.station ≠ k := fun d hd => hother d (List.mem_append_left _ hd)
  have hbehind : ∀ d ∈ behind, d.station ≠ k := fun d hd => hother d (List.mem_append_right _ hd)
  have hfind : (before ++ c :: behind).find? (fun d => decide (d.station = k)) = some c := by
    rw [List.find?_append, List.find?_eq_none.mpr fun d hd => by simpa using hbefore d hd, Option.none_or,
      List.find?_cons_of_pos (by simpa using hc)]
  have hleft : withoutStation k (before ++ c :: behind) = before ++ behind := by
    rw [withoutStation, List.filter_append, List.filter_cons_of_neg (by simpa using hc),
      List.filter_eq_self.mpr fun d hd => by simpa using hbefore d hd,
      List.filter_eq_self.mpr fun d hd => by simpa using hbehind d hd]
  have hsame (q : List Claimant) (hq : ∀ d ∈ q, d.station ≠ k) :
      q.map (fun d => if d.station = k then { d with hold := hold } else d) = q :=
    (List.map_congr_left fun d hd => if_neg (hq d hd)).trans (List.map_id _)
  rw [queueAfterClaim, hfind, hleft]
  dsimp only
  rw [List.map_append, List.map_cons, hsame before hbefore, hsame behind hbehind, if_pos hc, hc]

theorem viewClaim_present (p : Priority) (hold : Nat) (hk : look cl.present k = true) (hholder : cl.holder ≠ some k) :
    (viewClaim k p hold cl).queue = queueAfterClaim k p hold cl.queue := by
  rw [viewClaim, if_neg (by simp [hk, hholder])]

theorem viewTake_ofHeld (hold : Nat) (h : cl.holder ≠ none) : viewTake time k hold cl = cl :=
  if_pos (by simp [Option.isSome_iff_ne_none.mpr h])

theorem viewTake_free (hold : Nat) (hk : look cl.present k = true) (h : cl.holder = none) :
    viewTake time k hold cl = makeHolder k (time + 100 * hold + 1000) cl := by
  rw [viewTake, if_neg (by simp [hk, h]), Nat.mul_comm hold]; rfl

theorem viewHeld_present (remaining : Nat) (hk : look cl.present k = true) :
    viewHeld time k remaining cl = makeHolder k (time + 100 * remaining + 1000) cl := by
  rw [viewHeld, if_neg (by simp [hk]), Nat.mul_comm remaining]; rfl

/-- The station of the view comes to no turn while another holds. -/
theorem ownTurn_held {s : State} (h : s.claims.holder ≠ none) : ¬ ownTurn s = true :=
  fun ht => h ((ownTurn_iff s).mp ht).1

end

/-! ### A good notice of a peer, handed to the claim unit (R33) -/

/-- A state in which the claim unit hears of a peer's notice: of what it reads, only the bus has been read on. -/
structure Handed (s v : State) : Prop where
  claims : v.claims = s.claims
  time : v.time = s.time
  station : v.station = s.station
  queue : v.notices.queue = s.notices.queue
  attempt : v.notices.attempt = none
  gap : v.notices.gapPassed = false

/-- A good notice from a peer. -/
def peerNotice (k : StationNo) (sequence : Nat) (h : Heard) : GoodNotice := ⟨⟨k.val, by omega⟩, sequence, h⟩

theorem setCondition_claims (c : BusCondition) (s : State) : (setCondition c s).claims = s.claims := by
  unfold setCondition; dsimp only; split
  · rfl
  · rw [(recompute_rest _).2.2.2.2, queueReport_claims]; rfl

theorem countNotice_claims (s : State) : (countNotice s).claims = s.claims := by
  unfold countNotice; split
  · rfl
  · rw [setCondition_claims]; rfl

section
variable {levels : List Bool} {recessive : Nat} {k : StationNo} {sequence : Nat} {s : State}

/-- A good notice of another station is counted, and then handed to the blocks that act on it. -/
theorem handed_takeGood {g : GoodNotice} (hs : g.sender.val ≠ s.station.val) (hattempt : s.notices.attempt = none) :
    ∃ u, takeGood g (setNotices noticeEnded s) = handOn g u ∧ Handed s u ∧ u.share.peers = s.share.peers := by
  have hheard : takeGood g (setNotices noticeEnded s) =
      handOn g (countNotice (setNotices (heardFrom g.sender) (setNotices noticeEnded s))) :=
    congrArg (fun u => handOn g (countNotice u)) (if_neg hs)
  have hstand := peersStand_countNotice (setNotices (heardFrom g.sender) (setNotices noticeEnded s))
  have hnotices := countNotice_notices (setNotices (heardFrom g.sender) (setNotices noticeEnded s))
  refine ⟨_, hheard, ⟨countNotice_claims _, hstand.time, hstand.station, ?_, ?_, ?_⟩, hstand.peers⟩
  all_goals rw [hnotices]; split
  any_goals rfl
  all_goals exact hattempt

theorem exec_noticeEnd_handed (hrun : s.power = .running) (hends : NoticeEnds (busLevels levels recessive) s)
    (hk : k ≠ s.station) {h : Heard} (hheard : heardNotice (busLevels levels recessive) = some (peerNotice k sequence h)) :
    ∃ u, exec (.noticeEnd levels recessive) s = .next (settle (handOn (peerNotice k sequence h) u)) ∧ Handed s u ∧
      u.share.peers = s.share.peers := by
  obtain ⟨u, hu, hhanded⟩ := handed_takeGood (g := peerNotice k sequence h) (fun hv => hk (Fin.ext hv)) hends.2.1
  have hexec : exec (.noticeEnd levels recessive) s = .next (settle (takeNotice (busLevels levels recessive) s)) :=
    congrArg _ (live_running hrun)
  rw [takeNotice_good hends hheard, hu] at hexec
  exact ⟨u, hexec, hhanded⟩

/-- A notice of a peer goes to the peer table and then to the claim unit (R33). -/
theorem handOn_peer {u : State} (hk : k ≠ u.station) {h : Heard} (hkind : heardKind h ≠ .capacity) :
    handOn (peerNotice k sequence h) u = handToClaims k h (handToPeers k sequence h u) := by
  have hlt : k.val < 8 := k.isLt
  cases h with
  | capacity => exact absurd rfl hkind
  | _ => simp only [peerNotice, handOn]; exact (dif_pos hlt).trans (if_neg hk)

/-- The peer table takes the sequence number of any notice but a STATUS, and the claim unit hears of it (R33, R44). -/
theorem exec_noticeEnd_toClaims (hrun : s.power = .running) (hends : NoticeEnds (busLevels levels recessive) s)
    (hk : k ≠ s.station) {h : Heard} (hheard : heardNotice (busLevels levels recessive) = some (peerNotice k sequence h))
    (hkind : heardKind h ≠ .status ∧ heardKind h ≠ .capacity) :
    ∃ v, exec (.noticeEnd levels recessive) s = .next (settle (handToClaims k h v)) ∧ Handed s v := by
  obtain ⟨u, hexec, hhanded, -⟩ := exec_noticeEnd_handed hrun hends hk hheard
  refine ⟨setPeer k (trackSequence sequence false) u, ?_, ⟨hhanded.claims, hhanded.time, hhanded.station,
    hhanded.queue, hhanded.attempt, hhanded.gap⟩⟩
  rw [hexec, handOn_peer (by rw [hhanded.station]; exact hk) hkind.2]
  cases h with
  | status => exact absurd rfl hkind.1
  | _ => rfl

/-- A STATUS of a peer that is not ABSENT leaves the claim unit as it is, until it hears of a restart and of the holding flag
(R42, R43, R127). -/
theorem presenceMoved_handed {u : State} (restart holding : Bool) (weight demand allowance : Nat) (hu : Handed s u)
    (hp : (look u.share.peers k).presence ≠ .absent) :
    Handed s (presenceMoved sequence restart holding weight demand allowance k u) := by
  have hstored : (peerOf (fieldsStored sequence restart holding weight demand allowance k u) k).presence =
      (look u.share.peers k).presence := by
    have hentry : peerOf (fieldsStored sequence restart holding weight demand allowance k u) k = _ := look_alter_same ..
    rw [hentry]; rfl
  have hfields : Handed s (fieldsStored sequence restart holding weight demand allowance k u) :=
    ⟨hu.claims, hu.time, hu.station, hu.queue, hu.attempt, hu.gap⟩
  rw [presenceMoved, presenceAfterStatus_eq, hstored, if_neg hp]
  generalize fieldsStored sequence restart holding weight demand allowance k u = w at hstored hfields
  by_cases hsame : .present = (peerOf w k).presence
  · rw [setPresence_same hsame]; exact hfields
  · have htold : setPresence k .present w = presenceTaken k .present w := by
      rw [setPresence_changed hsame, tellPresence, if_neg nofun, if_neg (by rw [hstored]; exact hp)]
    have hstand := peersStand_presenceTaken k .present w
    have hnotices : (presenceTaken k .present w).notices = w.notices := by
      rw [presenceTaken, recompute_notices, queueReport_notices]; rfl
    rw [htold]
    exact ⟨(presenceTaken_claims k .present w).trans hfields.claims, hstand.time.trans hfields.time,
      hstand.station.trans hfields.station, by rw [hnotices]; exact hfields.queue,
      by rw [hnotices]; exact hfields.attempt, by rw [hnotices]; exact hfields.gap⟩

theorem exec_noticeEnd_status (hrun : s.power = .running) (hends : NoticeEnds (busLevels levels recessive) s)
    (hk : k ≠ s.station) (hp : (look s.share.peers k).presence ≠ .absent) {restart holding : Bool}
    {weight demand allowance : Nat} (hheard : heardNotice (busLevels levels recessive) =
      some (peerNotice k sequence (.status restart holding weight demand allowance))) :
    ∃ v, exec (.noticeEnd levels recessive) s = .next (settle (changeView (viewStatus k holding)
      (recompute (if restart = true then changeView (viewGone k) v else v)))) ∧ Handed s v := by
  obtain ⟨u, hexec, hhanded, hpeers⟩ := exec_noticeEnd_handed hrun hends hk hheard
  rw [peerNotice, handOn_status (by rw [hhanded.station]; exact hk)] at hexec
  exact ⟨_, hexec, presenceMoved_handed restart holding weight demand allowance hhanded (by rw [hpeers]; exact hp)⟩

end

/-! ### The statement (R124 to R127, R131, R134) -/

/-- The holding flag of a STATUS ends its sender's hold where it is clear (R127). -/
theorem viewStatus_eq (k : StationNo) (holding : Bool) (cl : Claims) :
    viewStatus k holding cl = if cl.holder = some k ∧ holding = false then endHold cl else cl := rfl

/-- A station that has restarted holds no longer, so that its holding flag ends nothing more (R127). -/
theorem status_behind_gone (k : StationNo) (holding : Bool) (v : State) :
    heldView (changeView (viewStatus k holding) (recompute (changeView (viewGone k) v))) =
      heldView (changeView (viewGone k) v) := by
  have hholder : (changeView (viewGone k) v).claims.holder = (viewGone k v.claims).holder :=
    congrArg Prod.fst (changeView_heldView (viewGone k) v)
  have hgone : (viewGone k v.claims).holder ≠ some k := by
    rw [viewGone_holder]; split
    · nofun
    · assumption
  rw [changeView_heldView, (recompute_rest _).2.2.2.2, viewStatus_eq, if_neg fun h => hgone (hholder.symm.trans h.1)]
  rfl

section
variable {k : StationNo} {s v : State}

/-- A TAKE under the own hold is answered with a HELD, in front of what waits (R29, R134). -/
theorem heardTake_answered (hold : Nat) (hv : Handed s v) (hown : s.claims.holder = some s.station)
    (hnone : ∀ e ∈ s.notices.queue, askKind e.ask ≠ .held) :
    (heardTake k hold v).notices.queue = ⟨.held, 0⟩ :: s.notices.queue ∧
    (heardTake k hold v).claims = { s.claims with turnFrom := none } := by
  have hholder : v.claims.holder = some v.station := by rw [hv.claims, hv.station]; exact hown
  have hstays : changeView (viewTake v.time k hold) v = setClaims (withTurn v.time (viewTake v.time k hold)) v := by
    refine followOwn_holder ?_
    rw [setClaims_claims, withTurn, viewTake_ofHeld hold (by rw [hholder]; nofun)]
    exact hholder
  have hclaims : (setClaims (withTurn v.time (viewTake v.time k hold)) v).claims = { s.claims with turnFrom := none } := by
    rw [setClaims_claims, withTurn, viewTake_ofHeld hold (by rw [hholder]; nofun), turnAfter,
      if_pos (by rw [hholder]; rfl), hv.claims]
  have hanswer : heardTake k hold v =
      askNotice .held (setClaims (withTurn v.time (viewTake v.time k hold)) v) := by
    rw [heardTake, hstays]
    refine if_pos ?_
    rw [hclaims]
    exact hown.trans (congrArg some hv.station.symm)
  have hwaits : askNotice .held (setClaims (withTurn v.time (viewTake v.time k hold)) v) = _ :=
    askNotice_waits _ _ (.inl hv.gap)
  rw [hanswer, askNotice_claims, hwaits, setNotices_notices, queueNotice_placed (not_absorbed (by decide)), setClaims_notices, flyingNotices_idle hv.attempt,
    waitingNotices_idle hv.attempt, hv.queue, placeNotice_new hnone]
  exact ⟨rfl, hclaims⟩

/-- A HELD in TAKING makes the station claim again (R131). -/
theorem heardHeld_taking {c : ClaimTerms} (remaining : Nat) (hv : Handed s v) (hk : look s.claims.present k = true)
    (hne : k ≠ s.station) (ho : s.claims.own = .taking) (hc : s.claims.inForce = some c) :
    (heardHeld k remaining v).claims.own = .queued ∧ (heardHeld k remaining v).claims.confirmAt = none ∧
    (heardHeld k remaining v).claims.ownLimit = none ∧ (heardHeld k remaining v).claims.inForce = some c ∧
    ∃ e ∈ (heardHeld k remaining v).notices.queue, e.ask = .claim c.priority c.hold := by
  have hview : viewHeld v.time k remaining v.claims = _ := viewHeld_present remaining (by rw [hv.claims]; exact hk)
  have hforce : (setClaims (withTurn v.time (viewHeld v.time k remaining)) v).claims.inForce = some c := by
    rw [setClaims_claims, withTurn, hview, hv.claims]; exact hc
  have hholder : (setClaims (withTurn v.time (viewHeld v.time k remaining)) v).claims.holder = some k := by
    rw [setClaims_claims, withTurn, hview]; rfl
  have hown : (setClaims (withTurn v.time (viewHeld v.time k remaining)) v).claims.own = .taking := by
    rw [setClaims_claims, withTurn, hview, hv.claims]; exact ho
  have hqueued : heardHeld k remaining v = enterQueued (setClaims (withTurn v.time (viewHeld v.time k remaining)) v) := by
    rw [heardHeld, changeView, followOwn, hown, hholder]
    exact if_neg fun h => hne (by rw [← hv.station]; exact Option.some.inj h)
  rw [hqueued, enterQueued_claims, if_neg (ownTurn_held (by rw [hholder]; nofun))]
  exact ⟨rfl, rfl, rfl, hforce, mem_enterQueued hforce⟩

/-- A HELD in HOLDING loses the station its hold (R134, R135). -/
theorem heardHeld_holding (remaining : Nat) (hv : Handed s v) (hk : look s.claims.present k = true) (hne : k ≠ s.station)
    (ho : s.claims.own = .holding) :
    (heardHeld k remaining v).claims.own = .releasing ∧ (heardHeld k remaining v).claims.relay = none ∧
    (heardHeld k remaining v).claims.ownLimit = none ∧
    (heardHeld k remaining v).claims.occDriven = s.claims.occDriven ∧
    (heardHeld k remaining v).claims.releaseAt = some (s.time + 10) := by
  have hview : viewHeld v.time k remaining v.claims = _ := viewHeld_present remaining (by rw [hv.claims]; exact hk)
  have hlost : heardHeld k remaining v = loseHold (setClaims (withTurn v.time (viewHeld v.time k remaining)) v) := by
    rw [heardHeld, changeView, followOwn, setClaims_claims, withTurn, hview, hv.claims]
    simp only [makeHolder, ho]
    exact if_neg fun h => hne (by rw [← hv.station]; exact Option.some.inj h)
  rw [hlost, loseHold_claims, setClaims_claims, withTurn, hview, hv.claims, setClaims_time, hv.time]
  exact ⟨rfl, rfl, rfl, rfl, rfl⟩

end

/-- Settles O28: the claim unit hears of a notice in a state in which it stands as before it; the view behind it is its change
of the view, and the own claim follows that. -/
theorem peerNoticesMoveTheHolderView : Obligations.PeerNoticesMoveTheHolderView := by
  intro levels recessive k sequence s hrun hframing hattempt hended hk hpresent hpeer heard leads cl others behindTriggered
  have hends : NoticeEnds (busLevels levels recessive) s := ⟨hframing, hattempt, hended⟩
  have hplaced (q : List Claimant) (hold : Nat) : placeClaimant q ⟨k, .triggered, hold⟩ =
      behindTriggered q ⟨k, .triggered, hold⟩ := placeClaimant_triggered q k hold
  have hleads {v : State} {f : Claims → Claims} {t : State} (he : exec (.noticeEnd levels recessive) s = .next (settle t))
      (ht : heldView t = heldView (changeView f v)) (hv : v.claims = cl) :
      leads (f cl).holder (f cl).expiry (f cl).queue := by
    rw [changeView_heldView, hv] at ht
    simp only [heldView, Prod.mk.injEq] at ht
    obtain ⟨hholder, hqueue, hexpiry⟩ := ht
    refine ⟨_, he, ?_⟩
    rw [settle_claims]
    exact ⟨hholder, hexpiry, hqueue⟩
  refine ⟨fun p hold hh => ?_, fun hold hh => ?_, fun remaining hh => ?_, fun hh => ?_,
    fun holding weight demand allowance hh => ?_, fun holding weight demand allowance hh => ?_⟩
  · obtain ⟨v, hexec, hv⟩ := exec_noticeEnd_toClaims hrun hends hk hh ⟨nofun, nofun⟩
    have hview := hleads hexec rfl hv.claims
    obtain ⟨hholder, hexpiry, -⟩ := viewClaim_holder k p hold cl
    rw [hholder, hexpiry] at hview
    refine ⟨fun hown => ?_, fun hown hnew => ?_, fun before c behind hown hq hc hother => ?_⟩
    · rwa [viewClaim_ofHolder p hold hown] at hview
    · rw [viewClaim_enters p hold hpresent hown hnew] at hview
      cases p with
      | scheduled => exact hview
      | triggered => rwa [hplaced] at hview
    · rwa [viewClaim_present p hold hpresent hown, hq, queueAfterClaim_stands p hold hc hother, hplaced] at hview
  · obtain ⟨v, hexec, hv⟩ := exec_noticeEnd_toClaims hrun hends hk hh ⟨nofun, nofun⟩
    have htaken : heldView (heardTake k hold v) = heldView (changeView (viewTake v.time k hold) v) := by
      unfold heardTake; dsimp only; split
      · rw [heldView, askNotice_claims]; rfl
      · rfl
    have hview := hleads hexec htaken hv.claims
    refine ⟨fun hholder => ?_, fun hnone => ?_, fun hown hheld => ⟨_, hexec, ?_⟩⟩
    · rwa [viewTake_ofHeld hold hholder] at hview
    · rwa [viewTake_free hold hpresent hnone, hv.time] at hview
    · rw [settle_notices, settle_claims]
      exact heardTake_answered hold hv hown hheld
  · obtain ⟨v, hexec, hv⟩ := exec_noticeEnd_toClaims hrun hends hk hh ⟨nofun, nofun⟩
    have hview := hleads hexec rfl hv.claims
    rw [viewHeld_present remaining hpresent, hv.time] at hview
    refine ⟨hview, fun c ho hc => ⟨_, hexec, ?_⟩, fun ho => ⟨_, hexec, ?_⟩⟩
    · rw [settle_notices, settle_claims]
      exact heardHeld_taking remaining hv hpresent hk ho hc
    · rw [settle_claims]
      exact heardHeld_holding remaining hv hpresent hk ho
  · obtain ⟨v, hexec, hv⟩ := exec_noticeEnd_toClaims hrun hends hk hh ⟨nofun, nofun⟩
    have hview := hleads hexec rfl hv.claims
    unfold viewRelease at hview
    split
    · next hholder => rwa [if_pos hholder] at hview
    · next hholder => rwa [if_neg hholder] at hview
  · obtain ⟨v, hexec, hv⟩ := exec_noticeEnd_status hrun hends hk hpeer hh
    have hview := hleads hexec rfl ((recompute_rest _).2.2.2.2.trans hv.claims)
    rw [viewStatus_eq] at hview
    split
    · next hholder => rwa [if_pos hholder] at hview
    · next hholder => rwa [if_neg hholder] at hview
  · obtain ⟨v, hexec, hv⟩ := exec_noticeEnd_status hrun hends hk hpeer hh
    have hview := hleads hexec (status_behind_gone k holding v) hv.claims
    rw [viewGone_eq] at hview
    split
    · next hholder => simp only [if_pos hholder] at hview; exact hview
    · next hholder => simp only [if_neg hholder] at hview; exact hview

end Sys2Proof.Machine

/-! The timers of the claim unit: the hold expiry, the lapse of a turn, and the relay release time (R127, R128, R130, R133 to
R135). -/

namespace Sys2Proof.Machine

/-! ### The turn timer and the own claim behind a change of the view (R128, R130) -/

theorem Change.keeps_turnFrom {sc : Scope} {s t : State} (hsc : sc.view = false) (h : Change sc s t) :
    t.claims.turnFrom = s.claims.turnFrom := by
  cases h with
  | claims f hf _ => exact (hf _).turn
  | view _ _ hs => rw [hsc] at hs; cases hs
  | recompute => rw [(recompute_rest s).2.2.2.2]
  | riseCheck => rw [(takeRiseCheck_frame s).2.2.2.2]
  | _ => rfl

section
variable {f : Claims → Claims} {s : State}

theorem changeView_turnFrom (f : Claims → Claims) (s : State) :
    (changeView f s).claims.turnFrom = turnAfter s.time s.claims (f s.claims) :=
  Leads.same (sc := Scope.none) (fun u => u.claims.turnFrom) (fun _ _ c => c.keeps_turnFrom rfl) (leads_followOwn .refl)

/-- A station in QUEUED enters TURN where its entry has come to the head of a view without a holder (R130). -/
theorem changeView_queued (ho : (f s.claims).own = .queued) : (changeView f s).claims.own =
    if (f s.claims).holder = none ∧ (f s.claims).queue.head?.map (·.station) = some s.station then .turn else .queued := by
  have hqueued : (setClaims (withTurn s.time f) s).claims.own = .queued := ho
  rw [changeView, followOwn_queued hqueued, followTurn_claims hqueued]
  exact if_congr (ownTurn_iff _) rfl rfl

/-- In HOLDING the station loses the hold that another change of the view has ended (R134). -/
theorem changeView_holding (ho : (f s.claims).own = .holding) (hh : (f s.claims).holder ≠ some s.station) :
    changeView f s = loseHold (setClaims (withTurn s.time f) s) := by
  have hholding : (setClaims (withTurn s.time f) s).claims.own = .holding := ho
  rw [changeView, followOwn, hholding]
  exact if_neg hh

/-- The turn of a new head, or of the head behind an ended hold, begins at once (R128). -/
theorem turnAfter_begins {time : Nat} {old new : Claims} (hnone : new.holder = none)
    (hnew : old.holder ≠ none ∨ headStation old ≠ headStation new) :
    turnAfter time old new = if new.queue = [] then none else some time := by
  have hbegins : ¬ (old.holder.isNone && decide (headStation old = headStation new)) = true := by
    rcases hnew with h | h <;> simp [h]
  unfold turnAfter
  rw [hnone, if_neg hbegins]
  cases new.queue <;> simp

/-! ### The relay release time (R133, R135) -/

theorem takeReleaseEnd_releasing (ho : s.claims.own = .releasing) (hq : s.notices.queue = []) :
    (takeReleaseEnd s).claims = { s.claims with releaseAt := none, connectWaits := none, occDriven := false } ∧
    (takeReleaseEnd s).notices.queue = [⟨.release, 0⟩] := by
  have hwaiting : waitingNotices s.notices = [] := by rw [waitingNotices_eq, hq]; split <;> rfl
  have hflying : flyingNotices s.notices = [] := by rw [flyingNotices_eq, hq]; split <;> rfl
  have hplaced : ¬ Absorbed .release s.notices := fun h => by
    obtain ⟨-, x, hx, -⟩ := h
    rw [hwaiting] at hx; cases hx
  have hasked : takeReleaseEnd s = askNotice .release (setClaims (fun cl => { cl with
      releaseAt := none, connectWaits := none, occDriven := false }) s) := by
    have habsorbs : absorbsRelease s.notices = false := by rw [absorbsRelease, hwaiting]; rfl
    unfold takeReleaseEnd releaseOccupancy
    rw [if_pos ho]
    exact if_neg (by rw [setClaims_notices, habsorbs]; decide)
  rw [hasked, askNotice_claims, askNotice_queue, setClaims_notices, queueNotice_placed hplaced, hflying, hwaiting]
  exact ⟨rfl, rfl⟩

/-- The state in which what has waited for the end of the release time comes (R133, R135). -/
def releaseEnded (s : State) : State := setClaims (fun cl => { cl with releaseAt := none, connectWaits := none }) s

/-- Outside RELEASING the end of the release time lets a Connect close its relay, if one waits. -/
theorem takeReleaseEnd_apart (ho : s.claims.own ≠ .releasing) : takeReleaseEnd s =
    match s.claims.connectWaits with
    | some l => connect l (releaseEnded s)
    | none => releaseEnded s := if_neg ho

theorem pastLimit_iff (s : State) : pastLimit s = true ↔
    s.claims.limitReached = true ∨ ∃ x ∈ s.claims.ownLimit, x ≤ s.time := by
  unfold pastLimit
  cases s.claims.ownLimit <;> simp

theorem not_pastLimit (hlimit : s.claims.limitReached = false) (hown : ∀ t ∈ s.claims.ownLimit, s.time < t) :
    ¬ pastLimit s = true := by
  rw [pastLimit_iff]
  rintro (h | ⟨x, hx, hle⟩)
  · rw [hlimit] at h; cases h
  · exact Nat.not_le.mpr (hown x hx) hle

/-- A relay closes where no limit, no release time and no other relay stands against it (R133). -/
theorem connect_closes {l : Line} (hlimit : ¬ pastLimit s = true) (ht : s.claims.releaseAt = none)
    (hr : s.claims.relay = none) : connect l s = closeRelay l s := by
  unfold connect
  rw [if_neg hlimit, if_neg (by rw [ht]; decide), hr]

/-- A relay closed: the line is CONNECTED, and the relay operate time of the active run begins (R133, R147). -/
theorem closeRelay_closes (l : Line) (s : State) : (lineOf (closeRelay l s) l).test = .connected ∧
    (closeRelay l s).claims = { s.claims with relay := some l, connectWaits := none } ∧
    (closeRelay l s).seq =
      { s.seq with active := s.seq.active.map fun a => { a with until_ := some (s.time + 10) } } := by
  have hseq := (setTest_runs l .connected (setClaims (fun cl => { cl with relay := some l, connectWaits := none }) s)).1
  have htest := setTest_test (s := setClaims (fun cl => { cl with relay := some l, connectWaits := none }) s) (l := l)
    .connected l
  have htime : (setTest l .connected (setClaims (fun cl => { cl with relay := some l, connectWaits := none }) s)).time =
      s.time := (leads_setTest (sc := Scope.none) l .connected .refl).time
  unfold closeRelay startOperate
  rw [lineOf_setSeq, setSeq_claims, setSeq_seq, setTest_claims, hseq, htime, htest]
  exact ⟨if_pos rfl, rfl, rfl⟩

/-- A line that is not TESTING yet enters it, and its supervision is suspended (R7, R10, R118). -/
theorem closeRelay_enters {l : Line} (heq : (lineOf s l).equipped = true) (htest : (lineOf s l).test ≠ .connected)
    (hservice : (lineOf s l).service ≠ .testing) :
    (lineOf (closeRelay l s) l).service = .testing ∧ (supOf (closeRelay l s) l).suspended = true := by
  obtain ⟨hline, hsup⟩ := setTest_connected
    (s := setClaims (fun cl => { cl with relay := some l, connectWaits := none }) s) htest heq hservice
  unfold closeRelay startOperate
  rw [lineOf_setSeq, supOf_setSeq, hsup]
  exact ⟨hline.service, rfl⟩

end

/-- What settling leaves of a line. -/
theorem settle_line (s : State) (l : Line) : InputsStand (lineOf s l) (lineOf (settle s) l) :=
  (undisturbed_settle s).inputsStand l

/-- Settles O50: each timer's end is a change of the view, of which the turn timer and the own claim are read off, or the end
of the relay release time by what has waited for it. -/
theorem holdLapseAndReleaseTimersAct : Obligations.HoldLapseAndReleaseTimersAct := by
  intro s hrun
  dsimp only
  refine ⟨fun hdue => ?_, fun hdue => ?_, fun hdue => ?_, fun c rest hdue hq hnone hother => ?_, fun hdue => ?_,
    fun hdue ho hq => ?_, fun hdue ho hw => ?_, fun l a hdue ho hw hr hlimit hown ha => ?_⟩
  · exact congrArg _ (live_whenDue_not hrun (mt (holdDue_iff s).mp hdue) _)
  · have hexec : exec .holdExpiry s = .next (settle (changeView endHold s)) :=
      congrArg _ (live_whenDue hrun ((holdDue_iff s).mpr hdue) _)
    have hview := changeView_heldView endHold s
    simp only [heldView, Prod.mk.injEq] at hview
    obtain ⟨hholder, hqueue, hexpiry⟩ := hview
    refine ⟨_, hexec, ?_⟩
    rw [settle_claims]
    refine ⟨hholder, hexpiry, hqueue, ?_, fun ho => ?_, fun ho => ?_⟩
    · rw [changeView_turnFrom]
      exact turnAfter_begins rfl (.inl hdue.1)
    · rw [changeView_queued ho]
      exact if_congr (and_iff_right rfl) rfl rfl
    · rw [changeView_holding ho (Option.some_ne_none _).symm, loseHold_claims]
      exact ⟨rfl, rfl, rfl, rfl, rfl, rfl⟩
  · exact congrArg _ (live_whenDue_not hrun (mt (turnDue_iff s).mp hdue) _)
  · have hexec : exec .turnLapse s = .next (settle (changeView viewLapse s)) :=
      congrArg _ (live_whenDue hrun ((turnDue_iff s).mpr hdue) _)
    have hview := changeView_heldView viewLapse s
    have hrest : (viewLapse s.claims).queue = rest := congrArg (List.drop 1) hq
    simp only [heldView, Prod.mk.injEq] at hview
    obtain ⟨hholder, hqueue, -⟩ := hview
    refine ⟨_, hexec, ?_⟩
    rw [settle_claims]
    refine ⟨hqueue.trans hrest, hholder.trans hnone, ?_, fun ho => ?_⟩
    · have hhead : headStation s.claims ≠ headStation (viewLapse s.claims) := fun hhead => by
        rw [headStation, headStation, hrest, hq] at hhead
        cases rest with
        | nil => cases hhead
        | cons d rest => exact hother d List.mem_cons_self (Option.some.inj hhead).symm
      have hbegins := turnAfter_begins (time := s.time) (new := viewLapse s.claims) hnone (.inr hhead)
      rw [changeView_turnFrom, hbegins, hrest]
    · rw [changeView_queued ho, hrest]
      exact if_congr (and_iff_right hnone) rfl rfl
  · exact congrArg _ (live_whenDue_not hrun (mt (releaseDue_iff s).mp hdue) _)
  · have hexec : exec .relayReleaseTimeEnd s = .next (settle (takeReleaseEnd s)) :=
      congrArg _ (live_whenDue hrun ((releaseDue_iff s).mpr hdue) _)
    refine ⟨_, hexec, ?_⟩
    rw [settle_claims, settle_notices]
    exact takeReleaseEnd_releasing ho hq
  · have hexec : exec .relayReleaseTimeEnd s = .next (settle (takeReleaseEnd s)) :=
      congrArg _ (live_whenDue hrun ((releaseDue_iff s).mpr hdue) _)
    rw [hexec, takeReleaseEnd_apart ho, hw]; rfl
  · have hexec : exec .relayReleaseTimeEnd s = .next (settle (takeReleaseEnd s)) :=
      congrArg _ (live_whenDue hrun ((releaseDue_iff s).mpr hdue) _)
    rw [takeReleaseEnd_apart (by rw [ho]; decide), hw] at hexec
    dsimp only at hexec
    rw [connect_closes (s := releaseEnded s) (not_pastLimit hlimit hown) rfl hr] at hexec
    obtain ⟨htest, hclaims, hseq⟩ := closeRelay_closes l (releaseEnded s)
    refine ⟨_, hexec, (settle_line _ l).test.trans htest, ?_, ?_, fun heq hdis hservice => ?_⟩
    · rw [settle_claims, hclaims]; rfl
    · rw [(undisturbed_settle _).seq, hseq, releaseEnded, setClaims_seq, ha]; rfl
    · obtain ⟨hline, hsup⟩ := closeRelay_enters (s := setClaims _ s) heq hdis hservice
      exact ⟨(settle_line _ l).service.trans hline, (congrArg (fun t => (look t l).suspended) (undisturbed_settle _).sup).trans hsup⟩

end Sys2Proof.Machine

/-! The confirm window, the own hold limit and a lost occupancy (R131, R133 to R135, R146, R148, R150). -/

namespace Sys2Proof.Machine

/-! ### A run suspended, and what becomes active behind it (R146, R150) -/

/-- The record of a run that its hold has been taken from: it repeats its step (R150). -/
def suspended (a : Active) : Run := { a.run with status := .suspended, resume := some a.slot }

section
variable {s : State} {a : Active}

theorem suspendRun_eq (a : Active) (s : State) : suspendRun a a.slot s = enterFront (suspended a) (clearActive s) := rfl

theorem suspendRun_room (hroom : s.seq.queue.length < 16) : (suspendRun a a.slot s).seq =
    { s.seq with active := none, queue := placeFront s.seq.queue (suspended a) } := by
  rw [suspendRun_eq, enterFront_room_seq _ (by exact hroom)]; rfl

theorem suspendRun_claims (a : Active) (s : State) : (suspendRun a a.slot s).claims = s.claims := enterFront_claims _ _

theorem suspendRun_time (a : Active) (s : State) : (suspendRun a a.slot s).time = s.time :=
  (leads_suspendRun (sc := Scope.none) a a.slot .refl).time

theorem suspendRun_meas (hroom : s.seq.queue.length < 16) : (suspendRun a a.slot s).meas = s.meas := by
  rw [suspendRun_eq, enterFront_room _ (by exact hroom)]; rfl

theorem suspendRun_hazard (hroom : s.seq.queue.length < 16) (k : Line) :
    (lineOf (suspendRun a a.slot s) k).hazard = (lineOf s k).hazard :=
  ((enterFront_room_frame (suspended a) (s := clearActive s) hroom).2 k).2

theorem activate_none (h : s.seq.queue = []) : activate s = s := by
  unfold activate; rw [h]; rfl

/-- With no run ahead of it the suspended run waits for the bus again, and its claim is recorded until RELEASING ends (R129,
R146, R150). -/
theorem activate_suspended {u : State} (ho : u.claims.own = .releasing) (hseq : u.seq = { s.seq with
      active := none, queue := placeFront s.seq.queue (suspended a) }) (hq : s.seq.queue = []) (hc : s.seq.closing = none)
    (horigin : a.run.origin = .operator) (hgood : (chainFrom s.seq.steps a.slot).good = true)
    (hhazard : (lineOf u a.run.line).hazard = false) :
    (activate u).seq = { s.seq with active := some ⟨suspended a, a.slot, .waitingBus, none, false, false, .passed⟩ } ∧
    (activate u).claims.recorded = some ⟨.scheduled, holdEstimate s.seq.steps (chainFrom s.seq.steps a.slot)⟩ ∧
    (activate u).meas = u.meas := by
  have htriggered : isTriggered (suspended a) = false := by simp [isTriggered, suspended, horigin]
  have hslot : firstSlot (suspended a) = a.slot := rfl
  have hsteps : u.seq.steps = s.seq.steps := by rw [hseq]
  have hqueue : u.seq.queue = [suspended a] := by rw [hseq, hq]; rfl
  have hpass : examine (setSeq (fun q => { q with queue := [] }) u) (suspended a) = none := by
    have hline : (lineOf u (suspended a).line).hazard = false := hhazard
    simp [examine, hslot, hsteps, hgood, hline, htriggered]
  rw [activate_passes (by rw [hseq]) (by rw [hseq]; exact hc) hqueue hpass, becomeActive_releasing (by exact ho)]
  refine ⟨?_, ?_, rfl⟩
  · rw [setClaims_seq, refreshTests, setAllLines_seq, setSeq_seq, setSeq_seq, hseq]
    dsimp only
    rw [hq]; rfl
  · simp only [setClaims_claims, termsOf, htriggered, hslot]
    change some (ClaimTerms.mk _ (holdEstimate u.seq.steps (chainFrom u.seq.steps a.slot))) = _
    rw [hsteps]; rfl

end

/-! ### The head given up (R135, R148) -/

section
variable {s : State}

theorem leaveHolding_disconnect (s : State) : leaveHolding (disconnect s) = leaveHolding s := by
  have htime : (disconnect s).time = s.time := (leads_disconnect (sc := Scope.none) .refl).time
  have hopen : (disconnect s).claims.relay = none := (disconnect_claims s).1
  rw [leaveHolding, disconnect_open hopen, htime]; rfl

theorem giveUp_holding (h : s.claims.own = .holding) : giveUp s = leaveHolding s := by simp only [giveUp, h]

/-- A hold is not kept behind a TIMEOUT (R148). -/
theorem decideHold_timeout (h : s.claims.own = .holding) : decideHold .timeout s = giveUp s := by
  refine if_neg ?_
  rintro (h' | h')
  · exact h' h
  · simp [keepsHold, mayKeep] at h'

theorem rederive_hazard (l : Line) (s : State) (k : Line) : (lineOf (rederive l s) k).hazard = (lineOf s k).hazard := by
  have h := rederive_rederived l s
  by_cases hk : k = l
  · rw [hk]; exact h.record.hazard
  · rw [h.others k hk]

theorem setTest_hazard (l : Line) (new : TestCond) (s : State) (k : Line) :
    (lineOf (setTest l new s) k).hazard = (lineOf s k).hazard := by
  by_cases h : new = (lineOf s l).test
  · rw [setTest_same h]
  · have hresume : (lineOf (resumeLine l s) k).hazard = (lineOf s k).hazard := by
      rw [resumeLine, lineOf_setLine]; split
      · next hk => rw [← hk]; rfl
      · rfl
    have htaken : (lineOf (if (lineOf s l).test = .connected then resumeLine l s else s) k).hazard =
        (lineOf s k).hazard := by
      split
      · exact hresume
      · rfl
    rw [setTest_eq h, lineOf_followTimer, rederive_hazard, testTaken, lineOf_setLine]
    split
    · next hk => subst hk; exact htaken
    · exact htaken

theorem leaveHolding_hazard (s : State) (k : Line) : (lineOf (leaveHolding s) k).hazard = (lineOf s k).hazard := by
  change (lineOf (disconnect s) k).hazard = _
  cases h : s.claims.relay with
  | none => rw [disconnect_open h]
  | some l => rw [disconnect_closed h, setTest_hazard]; rfl

theorem leaveHolding_time (s : State) : (leaveHolding s).time = s.time :=
  (leads_disconnect (sc := Scope.none) .refl).time

theorem leaveHolding_settings (s : State) : (leaveHolding s).settings = s.settings :=
  congrArg Loader.settings (leads_disconnect (sc := Scope.none) (s := s) .refl).loader

/-- The claim unit behind a hold that has been left, whatever run has been recorded since. -/
theorem Bookkept.left {u : State} (h : Bookkept (leaveHolding s) u) :
    u.claims = { leftHolding s.time s.claims with recorded := u.claims.recorded } := by
  rw [← leaveHolding_claims]; exact h.claims

theorem Bookkept.activated {u : State} (h : Bookkept (leaveHolding s) u) : Bookkept (leaveHolding s) (activate u) :=
  h.trans (bookkept_activate (h.own.trans (congrArg Claims.own (leaveHolding_claims s))))

end

/-! ### The confirm window (R131, R133, R146) -/

section
variable {s : State} {a : Active}

/-- The state in which the station has entered HOLDING (R131). -/
def holdingEntered (s : State) : State :=
  setClaims (fun cl => { cl with own := .holding, occDriven := true, occSensed := true, confirmAt := none }) s

/-- The run that waits enters CONNECTING, and its relay is closed at once (R133, R146). -/
theorem takeConfirm_free (ha : s.seq.active = some a) (hphase : a.phase = .waitingBus)
    (hhazard : (lineOf s a.run.line).hazard = false) (hlimit : ¬ pastLimit s = true) (ht : s.claims.releaseAt = none)
    (hr : s.claims.relay = none) : takeConfirm false s = closeRelay a.run.line
      (setActive (fun _ => { a with phase := .connecting, until_ := none }) (holdingEntered s)) := by
  have hentered : takeConfirm false s = headHeld (holdingEntered s) := rfl
  have hstarted : headHeld (holdingEntered s) = startConnecting a (holdingEntered s) := by
    have hactive : (holdingEntered s).seq.active = some a := ha
    simp only [headHeld, hactive, hphase, if_true]
  have hclear : ¬ (lineOf (holdingEntered s) a.run.line).hazard = true := by
    rw [show (lineOf (holdingEntered s) a.run.line).hazard = false from hhazard]; decide
  rw [hentered, hstarted, startConnecting]
  rw [if_neg hclear]
  refine connect_closes (fun h => hlimit ?_) ht hr
  rw [pastLimit_iff] at h ⊢
  exact h

/-- A busy line is reported, and a RELEASE and a new CLAIM are asked for (R131). -/
theorem takeConfirm_busy {c : ClaimTerms} (hc : s.claims.inForce = some c) (hholder : s.claims.holder ≠ none)
    (hq : s.notices.queue = []) (hattempt : s.notices.attempt = none) (hgap : s.notices.gapPassed = false) :
    (takeConfirm true s).claims = { s.claims with
      own := .queued, waiting := false, confirmAt := none, ownLimit := none, occSensed := true } ∧
    (takeConfirm true s).notices.queue = [⟨.release, 0⟩, ⟨.claim c.priority c.hold, 0⟩] ∧
    (takeConfirm true s).mgmt = (queueReport (.occupied .busyAtConfirm (some c)) s).mgmt ∧
    (takeConfirm true s).store = (queueReport (.occupied .busyAtConfirm (some c)) s).store := by
  have hreports := queueReport_congr (.occupied .busyAtConfirm (some c)) (s := s)
    (t := setClaims (fun cl => { cl with occSensed := true }) s) rfl rfl rfl
  have hframe := (queueReport_frame (.occupied .busyAtConfirm (some c))
    (setClaims (fun cl => { cl with occSensed := true }) s)).1
  have hbusy : takeConfirm true s = enterQueued (askNotice .release (queueReport (.occupied .busyAtConfirm (some c))
      (setClaims (fun cl => { cl with occSensed := true }) s))) := by
    unfold takeConfirm busyAtConfirm
    simp only [setClaims_claims, hc]
    rfl
  rw [hbusy]
  generalize queueReport (.occupied .busyAtConfirm (some c)) (setClaims (fun cl => { cl with occSensed := true }) s) = w
    at hreports hframe
  have hnotices : w.notices = s.notices := hframe.notices
  have hclaims : w.claims = { s.claims with occSensed := true } := hframe.claims
  have hrelease : askNotice .release w = setNotices (queueNotice .release) w :=
    askNotice_waits _ _ (.inl (by rw [hnotices]; exact hgap))
  have hreleased : queueNotice .release s.notices = { s.notices with queue := [⟨.release, 0⟩] } := by
    simp [queueNotice, absorbsRelease, waitingNotices, flyingNotices, placeNotice, askKind, hq, hattempt]
  have hturn : ¬ ownTurn (setNotices (queueNotice .release) w) = true :=
    ownTurn_held (by rw [setNotices_claims, hclaims]; exact hholder)
  have hask : claimAsk (setNotices (queueNotice .release) w).claims = .claim c.priority c.hold :=
    claimAsk_inForce (by rw [setNotices_claims, hclaims]; exact hc)
  have hclaim : claimAsked (setNotices (queueNotice .release) w) = setNotices (queueNotice (.claim c.priority c.hold))
      (setClaims (fun cl => { cl with own := .queued, waiting := false, confirmAt := none, ownLimit := none })
        (setNotices (queueNotice .release) w)) := by
    rw [claimAsked, hask]
    exact askNotice_waits _ _ (.inl (by rw [setClaims_notices, setNotices_notices, hnotices, hreleased]; exact hgap))
  have hclaimed : queueNotice (.claim c.priority c.hold) { s.notices with queue := [⟨.release, 0⟩] } =
      { s.notices with queue := [⟨.release, 0⟩, ⟨.claim c.priority c.hold, 0⟩] } := by
    simp [queueNotice, waitingNotices, flyingNotices, placeNotice, isKind, askKind, hattempt]
  have hqueued : enterQueued (setNotices (queueNotice .release) w) = claimAsked (setNotices (queueNotice .release) w) := by
    rw [enterQueued_eq]
    exact followTurn_still fun h => hturn (by rw [← ownTurn_claimAsked]; exact h.2)
  rw [hrelease, hqueued, hclaim]
  refine ⟨?_, ?_, hreports.1, hreports.2⟩
  · rw [setNotices_claims, setClaims_claims, setNotices_claims, hclaims]
  · rw [setNotices_notices, setClaims_notices, setNotices_notices, hnotices, hreleased, hclaimed]

end

/-! ### The own hold limit (R134, R150) -/

/-- The limit marked as reached (R134). -/
def limitMarked (s : State) : State := setClaims (fun cl => { cl with limitReached := true }) s

section
variable {s : State} {a : Active}

/-- A TRIGGERED run times out, and an OPERATOR run returns to the queue; each is discharged first where it has been charged
(R150). -/
theorem limitTaken_eq (ha : s.seq.active = some a) (hwaits : a.phase ≠ .waitingBus) (hends : a.phase ≠ .ending) :
    limitTaken s = match a.run.origin with
      | .triggered => beginEnding .timeout a s
      | .operator =>
        if a.charged = true then drive .discharge (setSeq (fun q =>
          { q with closing := some ⟨a.run.id, a.run.line, s.time + 50⟩ }) (suspendRun a a.slot s))
        else activate (giveUp (disconnect (suspendRun a a.slot s))) := by
  simp only [limitTaken, ha, hwaits, hends, or_self, if_false]
  rfl

/-- The run that is charged is discharged under the hold (R150). -/
theorem takeOwnLimit_charged (ha : s.seq.active = some a) (hwaits : a.phase ≠ .waitingBus) (hends : a.phase ≠ .ending)
    (hcharged : a.charged = true) :
    (takeOwnLimit s).claims = { s.claims with
      limitReached := true, stimulus := if s.claims.relay = none then .none else .discharge } ∧
    (a.run.origin = .triggered → (takeOwnLimit s).seq = { s.seq with active := some { a with
      phase := .ending, outcome := .timeout, until_ := some (s.time + 50) } }) ∧
    (a.run.origin = .operator → s.seq.queue.length < 16 → (takeOwnLimit s).seq = { s.seq with
      active := none, closing := some ⟨a.run.id, a.run.line, s.time + 50⟩
      queue := placeFront s.seq.queue (suspended a) }) := by
  have hlimit : takeOwnLimit s = _ := limitTaken_eq (s := limitMarked s) ha hwaits hends
  have hdriven (u : State) (hu : u.claims = { s.claims with limitReached := true }) :
      (drive .discharge u).claims = { s.claims with
        limitReached := true, stimulus := if s.claims.relay = none then .none else .discharge } := by
    have hstimulus : (if s.claims.relay.isSome then Stimulus.discharge else .none) =
        if s.claims.relay = none then .none else .discharge := by cases s.claims.relay <;> simp
    rw [drive, setClaims_claims, hu, ← hstimulus]
  rw [hlimit]
  cases horigin : a.run.origin with
  | triggered =>
    dsimp only
    rw [beginEnding, hcharged]
    refine ⟨hdriven _ rfl, fun _ => ?_, nofun⟩
    simp only [drive, setActive, if_true, setClaims_seq, setSeq_seq, limitMarked, ha]
    rfl
  | operator =>
    dsimp only
    rw [if_pos hcharged]
    refine ⟨hdriven _ (suspendRun_claims a _), nofun, fun _ hroom => ?_⟩
    rw [drive, setClaims_seq, setSeq_seq, suspendRun_room (by exact hroom)]
    rfl

/-- The state in which a TRIGGERED run without a charge is in ENDING at its limit (R148). -/
def timedOut (a : Active) (s : State) : State :=
  setActive (fun _ => { a with phase := .ending, outcome := .timeout, until_ := none }) (limitMarked s)

/-- A TRIGGERED run without a charge ends TIMEOUT at once, and the head is given up (R148, R150). -/
theorem takeOwnLimit_timeout (ho : s.claims.own = .holding) (ha : s.seq.active = some a) (hwaits : a.phase ≠ .waitingBus)
    (hends : a.phase ≠ .ending) (hcharged : a.charged = false) (horigin : a.run.origin = .triggered) :
    takeOwnLimit s = activate (refreshTests (endRecord a.run .timeout a.slot
      (clearActive (leaveHolding (timedOut a s))))) := by
  have hlimit : takeOwnLimit s = _ := limitTaken_eq (s := limitMarked s) ha hwaits hends
  have hheld : (disconnect (timedOut a s)).claims.own = .holding := (disconnect_claims _).2.1.trans ho
  rw [hlimit, horigin]
  dsimp only
  unfold beginEnding
  dsimp only
  rw [if_neg (by rw [hcharged]; decide), finishEnding]
  dsimp only
  rw [show setActive _ (limitMarked s) = timedOut a s from rfl, decideHold_timeout hheld, giveUp_holding hheld,
    leaveHolding_disconnect]

/-- An OPERATOR run without a charge returns to the queue at once, and the head is given up (R150). -/
theorem takeOwnLimit_suspends (ho : s.claims.own = .holding) (ha : s.seq.active = some a) (hwaits : a.phase ≠ .waitingBus)
    (hends : a.phase ≠ .ending) (hcharged : a.charged = false) (horigin : a.run.origin = .operator) :
    takeOwnLimit s = activate (leaveHolding (suspendRun a a.slot (limitMarked s))) := by
  have hlimit : takeOwnLimit s = _ := limitTaken_eq (s := limitMarked s) ha hwaits hends
  have hheld : (disconnect (suspendRun a a.slot (limitMarked s))).claims.own = .holding := by
    rw [(disconnect_claims _).2.1, suspendRun_claims]; exact ho
  rw [hlimit, horigin]
  dsimp only
  rw [if_neg (by rw [hcharged]; decide), giveUp_holding hheld, leaveHolding_disconnect]

/-- What the limit leaves of the claim unit where there is no charge to discharge (R134, R135). -/
theorem takeOwnLimit_left (ho : s.claims.own = .holding) (ha : s.seq.active = some a) (hwaits : a.phase ≠ .waitingBus)
    (hends : a.phase ≠ .ending) (hcharged : a.charged = false) : (takeOwnLimit s).claims =
      { leftHolding s.time s.claims with recorded := (takeOwnLimit s).claims.recorded } := by
  cases horigin : a.run.origin with
  | triggered =>
    rw [takeOwnLimit_timeout ho ha hwaits hends hcharged horigin]
    have hended := (bookkept_setSeq (fun q => { q with active := none }) (leaveHolding (timedOut a s))).trans
      ((bookkept_endRecord a.run .timeout a.slot _).trans (bookkept_refreshTests _))
    exact hended.activated.left
  | operator =>
    rw [takeOwnLimit_suspends ho ha hwaits hends hcharged horigin]
    have hleft := (Bookkept.refl (leaveHolding (suspendRun a a.slot (limitMarked s)))).activated.left
    rw [suspendRun_time, suspendRun_claims] at hleft
    exact hleft

/-- The TRIGGERED run that has timed out behind an empty queue (R148, R150). -/
theorem takeOwnLimit_timeout_ends (ho : s.claims.own = .holding) (ha : s.seq.active = some a)
    (hwaits : a.phase ≠ .waitingBus) (hends : a.phase ≠ .ending) (hcharged : a.charged = false)
    (horigin : a.run.origin = .triggered) (hq : s.seq.queue = []) :
    (takeOwnLimit s).seq = { s.seq with
      active := none, holdoffs := put s.seq.holdoffs a.run.line (some (s.time + 60000 * s.settings.holdoff)) } ∧
    look (takeOwnLimit s).meas.lastRuns a.run.line = some ⟨a.run.id, .triggered, .timeout, s.time⟩ ∧
    (ServiceDerived s → s.mgmt.reports ≠ [] → s.mgmt.reports.length ≤ 14 →
      ⟨s.time, .runEnded a.run .timeout a.slot⟩ ∈ (takeOwnLimit s).mgmt.reports) := by
  have htime : (clearActive (leaveHolding (timedOut a s))).time = s.time := leaveHolding_time _
  have hsettings : (clearActive (leaveHolding (timedOut a s))).settings = s.settings := leaveHolding_settings _
  have hcleared : (clearActive (leaveHolding (timedOut a s))).seq = { s.seq with active := none } := by
    rw [clearActive, setSeq_seq, (leaveHolding_runs _).1]; rfl
  have hseq := endRecord_seq a.run .timeout a.slot (clearActive (leaveHolding (timedOut a s)))
  have hlast := endRecord_lastRun a.run .timeout a.slot (clearActive (leaveHolding (timedOut a s)))
  have hreport := (endRecord_reports a.run .timeout a.slot (clearActive (leaveHolding (timedOut a s)))).1
  rw [hcleared, htime, hsettings, if_pos horigin] at hseq
  rw [htime, horigin] at hlast
  rw [takeOwnLimit_timeout ho ha hwaits hends hcharged horigin, activate_none (by rw [refreshTests, setAllLines_seq, hseq]; exact hq)]
  refine ⟨hseq, hlast, fun hs hne hroom => ?_⟩
  have honce := reportsOnce_leaveHolding (s := timedOut a s) (by exact hs)
  obtain ⟨hne', hroom'⟩ := honce.waits (by exact hne) (by exact Nat.lt_of_le_of_lt hroom (by decide))
  have hlength : s.mgmt.reports.length = (timedOut a s).mgmt.reports.length := rfl
  rw [queueReport_waits (by exact hne') (by change (leaveHolding (timedOut a s)).mgmt.reports.length < 16; omega), htime]
    at hreport
  change _ ∈ (endRecord _ _ _ _).mgmt.reports
  rw [hreport]
  exact List.mem_append_right _ (List.mem_singleton.mpr rfl)

/-- The OPERATOR run that waits for the bus again (R146, R150). -/
theorem takeOwnLimit_resumes (ho : s.claims.own = .holding) (ha : s.seq.active = some a)
    (hwaits : a.phase ≠ .waitingBus) (hends : a.phase ≠ .ending) (hcharged : a.charged = false)
    (horigin : a.run.origin = .operator) (hq : s.seq.queue = []) (hc : s.seq.closing = none)
    (hgood : (chainFrom s.seq.steps a.slot).good = true) (hhazard : (lineOf s a.run.line).hazard = false) :
    ((takeOwnLimit s).seq = { s.seq with
      active := some ⟨suspended a, a.slot, .waitingBus, none, false, false, .passed⟩ } ∧
    (takeOwnLimit s).claims.recorded = some ⟨.scheduled, holdEstimate s.seq.steps (chainFrom s.seq.steps a.slot)⟩) ∧
    (takeOwnLimit s).meas = s.meas := by
  have hroom : (limitMarked s).seq.queue.length < 16 := by change s.seq.queue.length < 16; rw [hq]; decide
  obtain ⟨hruns, hmeas⟩ := leaveHolding_runs (suspendRun a a.slot (limitMarked s))
  rw [suspendRun_room hroom] at hruns
  rw [suspendRun_meas hroom] at hmeas
  obtain ⟨hseq, hrecorded, hmeas'⟩ := activate_suspended (u := leaveHolding (suspendRun a a.slot (limitMarked s)))
    (congrArg Claims.own (leaveHolding_claims _)) hruns hq hc horigin hgood
    (by rw [leaveHolding_hazard, suspendRun_hazard hroom]; exact hhazard)
  rw [takeOwnLimit_suspends ho ha hwaits hends hcharged horigin]
  exact ⟨⟨hseq, hrecorded⟩, hmeas'.trans hmeas⟩

end

/-! ### A lost occupancy (R134, R150) -/

/-- The state in which a lost occupancy has been reported (R134). -/
def lossReported (s : State) : State :=
  queueReport (.occupied .lostWhileHolding none) (setClaims (fun cl => { cl with occSensed := false }) s)

section
variable {s : State} {a : Active}

theorem takeOccupancyLoss_lost (ho : s.claims.own = .holding) (hocc : s.claims.occDriven = true) :
    takeOccupancyLoss s = loseHold (lossReported s) := if_pos ⟨ho, hocc⟩

theorem sight_lossReported (s : State) :
    sight (lossReported s) = sight (setClaims (fun cl => { cl with occSensed := false }) s) := sight_queueReport _ _

theorem lossReported_lines (s : State) : (lossReported s).lines = s.lines := (queueReport_frame _ (setClaims _ s)).2.1

theorem lossReported_hazard (s : State) (l : Line) : (lineOf (lossReported s) l).hazard = (lineOf s l).hazard :=
  congrArg (fun t => (look t l).hazard) (lossReported_lines s)

theorem lossReported_rest (s : State) : (lossReported s).seq = s.seq ∧ (lossReported s).meas = s.meas ∧
    (lossReported s).time = s.time ∧ (lossReported s).settings = s.settings :=
  have hsight := sight_lossReported s
  ⟨(seq_of_sight hsight :), (meas_of_sight hsight :), (time_of_sight hsight :), (settings_of_sight hsight :)⟩

/-- What a lost occupancy leaves of the claim unit (R134, R135). -/
theorem lostOccupancy_claims (s : State) : (loseHold (lossReported s)).claims =
    { leftHolding s.time { s.claims with occSensed := false } with
      recorded := (loseHold (lossReported s)).claims.recorded } := by
  obtain ⟨-, -, htime, -⟩ := lossReported_rest s
  have hclaims : (lossReported s).claims = { s.claims with occSensed := false } := claims_of_sight (sight_lossReported s)
  rw [← htime, ← hclaims]
  exact loseHold_claims _

/-- The report of the loss is the first of the reports that enter (R134). -/
theorem lostOccupancy_reports (hs : ServiceDerived s) :
    (queueReport (.occupied .lostWhileHolding none) s).mgmt.reports <+: (loseHold (lossReported s)).mgmt.reports ∧
    (queueReport (.occupied .lostWhileHolding none) s).store.um <+: (loseHold (lossReported s)).store.um := by
  obtain ⟨hmgmt, hstore⟩ := queueReport_congr (.occupied .lostWhileHolding none) (s := s)
    (t := setClaims (fun cl => { cl with occSensed := false }) s) rfl rfl rfl
  have hderived : ServiceDerived (lossReported s) := fun l => by
    rw [lineOf, lossReported_lines]; exact hs l
  have hgrows : Grows (lossReported s) (loseHold (lossReported s)) :=
    (reportsOnce_leaveHolding hderived).grows.trans (bookkept_loseHold _).grows
  rw [← hmgmt, ← hstore]
  exact ⟨hgrows.reports, hgrows.um⟩

/-- The line whose relay was closed leaves CONNECTED, and its supervision begins anew (R10, R12, R133). -/
theorem loseHold_line {l : Line} (hr : s.claims.relay = some l) (htest : (lineOf s l).test = .connected) :
    (lineOf (loseHold s) l).test ≠ .connected ∧ (lineOf (loseHold s) l).sync = .outOfSync ∧
    (supOf (loseHold s) l).suspended = false := by
  have hkept := bookkept_loseHold s
  have hleft : ∃ new, new ≠ .connected ∧ (lineOf (leaveHolding s) l).test = new ∧
      (lineOf (leaveHolding s) l).sync = .outOfSync ∧ (supOf (leaveHolding s) l).suspended = false := by
    have hnew := restingTest_ne_connected s l
    obtain ⟨hline, hsup⟩ := setTest_leaving (s := setClaims (fun cl => { cl with
      relay := none, stimulus := .none, releaseAt := some (s.time + Config.releaseTime) }) s) htest hnew
    rw [leaveHolding, lineOf_setClaims, supOf_setClaims, disconnect_closed hr]
    exact ⟨_, hnew, hline.test, hline.sync, by rw [hsup]; rfl⟩
  obtain ⟨new, hnew, htest', hsync, hsuspended⟩ := hleft
  refine ⟨fun h => hnew (htest' ▸ (hkept.connected l).mp h), ?_, ?_⟩
  · rw [(sameMarks_of_bareLine (bareLine_of_watch hkept.watch l)).sync, hsync]
  · rw [supOf_of_watch hkept.watch, hsuspended]

/-- The record of a run that a lost hold has faulted (R150). -/
def busFaulted (r : Run) : Run := { r with status := .faultedBus, resume := none }

section
variable (hc : s.seq.closing = none) (ha : s.seq.active = some a) (hwaits : a.phase ≠ .waitingBus) (hends : a.phase ≠ .ending)
include hc ha hwaits hends

theorem loseHold_faults (horigin : a.run.origin = .triggered) :
    loseHold s = activate (refreshTests (endRecord (busFaulted a.run) .busLost a.slot
      (clearActive (setSeq (fun q => { q with latch := true }) (leaveHolding s))))) := by
  have hruns := (leaveHolding_runs s).1
  have hclosing : (leaveHolding s).seq.closing = none := by rw [hruns, hc]
  have hactive : (leaveHolding s).seq.active = some a := by rw [hruns, ha]
  simp only [loseHold, holdLost, hclosing, hactive, hwaits, hends, horigin, if_false, busFaulted]

theorem loseHold_suspends (horigin : a.run.origin = .operator) :
    loseHold s = activate (suspendRun a a.slot (leaveHolding s)) := by
  have hruns := (leaveHolding_runs s).1
  have hclosing : (leaveHolding s).seq.closing = none := by rw [hruns, hc]
  have hactive : (leaveHolding s).seq.active = some a := by rw [hruns, ha]
  simp only [loseHold, holdLost, hclosing, hactive, hwaits, hends, horigin, if_false]

/-- The TRIGGERED run ends BUS LOST, and sets the trigger latch (R150). -/
theorem loseHold_faults_ends (horigin : a.run.origin = .triggered) (hq : s.seq.queue = []) :
    (loseHold s).seq.active = none ∧ (loseHold s).seq.latch = true ∧
    look (loseHold s).seq.holdoffs a.run.line = some (s.time + 60000 * s.settings.holdoff) ∧
    look (loseHold s).meas.lastRuns a.run.line = some ⟨a.run.id, .triggered, .busLost, s.time⟩ := by
  have hseq := endRecord_seq (busFaulted a.run) .busLost a.slot
    (clearActive (setSeq (fun q => { q with latch := true }) (leaveHolding s)))
  have hlast := endRecord_lastRun (busFaulted a.run) .busLost a.slot
    (clearActive (setSeq (fun q => { q with latch := true }) (leaveHolding s)))
  have htime : (clearActive (setSeq (fun q => { q with latch := true }) (leaveHolding s))).time = s.time :=
    leaveHolding_time s
  have hsettings : (clearActive (setSeq (fun q => { q with latch := true }) (leaveHolding s))).settings = s.settings :=
    leaveHolding_settings s
  rw [clearActive, setSeq_seq, setSeq_seq, (leaveHolding_runs s).1, ← clearActive, htime, hsettings,
    if_pos (by exact horigin)] at hseq
  rw [htime] at hlast
  rw [loseHold_faults hc ha hwaits hends horigin, activate_none (by rw [refreshTests, setAllLines_seq, hseq]; exact hq),
    refreshTests, setAllLines_seq, hseq]
  refine ⟨rfl, rfl, look_put_same _ _ _, hlast.trans ?_⟩
  rw [← horigin]; rfl

/-- The OPERATOR run waits for the bus again (R146, R150). -/
theorem loseHold_resumes (horigin : a.run.origin = .operator) (hq : s.seq.queue = [])
    (hgood : (chainFrom s.seq.steps a.slot).good = true) (hhazard : (lineOf s a.run.line).hazard = false) :
    ((loseHold s).seq = { s.seq with
      active := some ⟨suspended a, a.slot, .waitingBus, none, false, false, .passed⟩ } ∧
    (loseHold s).claims.recorded = some ⟨.scheduled, holdEstimate s.seq.steps (chainFrom s.seq.steps a.slot)⟩) ∧
    (loseHold s).meas = s.meas := by
  obtain ⟨hruns, hmeas⟩ := leaveHolding_runs s
  have hroom : (leaveHolding s).seq.queue.length < 16 := by rw [hruns, hq]; decide
  have hsuspended := suspendRun_room (a := a) hroom
  rw [hruns] at hsuspended
  obtain ⟨hseq, hrecorded, hmeas'⟩ := activate_suspended (u := suspendRun a a.slot (leaveHolding s))
    (by rw [suspendRun_claims, leaveHolding_claims]; rfl) hsuspended hq hc horigin hgood
    (by rw [suspendRun_hazard hroom, leaveHolding_hazard]; exact hhazard)
  rw [loseHold_suspends hc ha hwaits hends horigin]
  exact ⟨⟨hseq, hrecorded⟩, hmeas'.trans ((suspendRun_meas hroom).trans hmeas)⟩

end

end

/-- Settles O51: the outcome of each of the three events is one equation per case of the active run, behind a hold that is
entered, or left. -/
theorem confirmWindowHoldLimitAndOccupancyAct : Obligations.ConfirmWindowHoldLimitAndOccupancyAct := by
  intro s hrun
  dsimp only
  refine ⟨fun b hdue => ?_, fun hdue => ?_, fun hlost => ?_, fun hdue => ⟨fun a ha hphase hhazard hlimit hown ht hr => ?_,
    fun c hc hholder hq hattempt hgap => ?_⟩, fun a hdue ha hwaits hends => ?_, fun ho hocc => ?_⟩
  · exact congrArg _ (live_whenDue_not hrun (mt (confirmDue_iff s b).mp hdue) _)
  · exact congrArg _ (live_whenDue_not hrun (mt (ownLimitDue_iff s).mp hdue) _)
  · exact exec_live hrun (if_neg hlost)
  · have hexec : exec (.confirmWindowEnd false) s = .next (settle (takeConfirm false s)) :=
      congrArg _ (live_whenDue hrun ((confirmDue_iff s false).mpr hdue) _)
    obtain ⟨htest, hclaims, hseq⟩ := closeRelay_closes a.run.line
      (setActive (fun _ => { a with phase := .connecting, until_ := none }) (holdingEntered s))
    refine ⟨_, hexec, ?_⟩
    rw [(settle_line _ _).test, settle_claims, (undisturbed_settle _).seq,
      takeConfirm_free ha hphase hhazard (not_pastLimit hlimit hown) ht hr]
    refine ⟨htest, hclaims, ?_⟩
    rw [hseq, setActive, setSeq_seq, holdingEntered, setClaims_seq, ha]; rfl
  · have hexec : exec (.confirmWindowEnd true) s = .next (settle (takeConfirm true s)) :=
      congrArg _ (live_whenDue hrun ((confirmDue_iff s false).mpr hdue) _)
    exact ⟨_, hexec, takeConfirm_busy hc hholder hq hattempt hgap⟩
  · have hexec : exec .ownHoldLimit s = .next (settle (takeOwnLimit s)) :=
      congrArg _ (live_whenDue hrun ((ownLimitDue_iff s).mpr hdue) _)
    have ho : s.claims.own = .holding := hdue.1
    refine ⟨fun hcharged => ?_, fun hcharged => ⟨_, hexec, ?_⟩⟩
    · refine ⟨_, hexec, ?_⟩
      rw [settle_claims, (undisturbed_settle _).seq]
      exact takeOwnLimit_charged ha hwaits hends hcharged
    · have hresults : (takeOwnLimit s).meas.results = s.meas.results :=
        Leads.same (sc := Scope.none) (fun u => u.meas.results) (fun _ _ c => c.keeps_results rfl)
          (leads_takeOwnLimit .refl)
      rw [takeOwnLimit_left ho ha hwaits hends hcharged]
      refine ⟨rfl, rfl, rfl, rfl, rfl, hresults,
        takeOwnLimit_timeout_ends ho ha hwaits hends hcharged, fun horigin hroom => ?_,
        fun horigin ⟨hq, hc, hgood, hhazard⟩ =>
          takeOwnLimit_resumes ho ha hwaits hends hcharged horigin hq hc hgood hhazard⟩
      have hruns := (leaveHolding_runs (suspendRun a a.slot (limitMarked s))).1
      rw [suspendRun_room (by exact hroom)] at hruns
      exact ⟨_, takeOwnLimit_suspends ho ha hwaits hends hcharged horigin, hruns⟩
  · have hexec : exec .occupancyLoss s = .next (settle (loseHold (lossReported s))) :=
      exec_live hrun (takeOccupancyLoss_lost ho hocc)
    obtain ⟨hseq, hmeas, htime, hsettings⟩ := lossReported_rest s
    refine ⟨_, hexec, ?_⟩
    rw [lostOccupancy_claims]
    refine ⟨rfl, rfl, hocc, rfl, rfl, rfl, lostOccupancy_reports, fun l hr htest => ?_, fun a ha hwaits hends =>
      ⟨fun horigin hq hc => ?_, fun horigin ⟨hq, hc, hgood, hhazard⟩ => ?_⟩⟩
    · exact loseHold_line (by rw [claims_of_sight (sight_lossReported s)]; exact hr)
        (by rw [lineOf, lossReported_lines]; exact htest)
    · have hends := loseHold_faults_ends (s := lossReported s) (by rw [hseq]; exact hc) (by rw [hseq]; exact ha) hwaits hends
        horigin (by rw [hseq]; exact hq)
      rw [htime, hsettings] at hends
      exact hends
    · have hresumes := loseHold_resumes (s := lossReported s) (by rw [hseq]; exact hc) (by rw [hseq]; exact ha) hwaits hends
        horigin (by rw [hseq]; exact hq) (by rw [hseq]; exact hgood) (by rw [lossReported_hazard]; exact hhazard)
      rw [hseq, hmeas, lostOccupancy_claims] at hresumes
      exact hresumes

end Sys2Proof.Machine

/-! SUBMIT RUN, CANCEL RUN and the examination of a run at activation (R129, R133, R142, R143, R145, R146, R148). -/

namespace Sys2Proof.Machine

/-! ### The examination of the head of the queue (R146) -/

section
variable {s : State} {r : Run} {rest : List Run}

theorem isTriggered_iff (r : Run) : isTriggered r = true ↔ r.origin = .triggered := by simp [isTriggered]

theorem examine_malformed (hgood : (chainFrom s.seq.steps (firstSlot r)).good = false) :
    examine s r = some .malformed := by
  simp [examine, hgood]

theorem examine_hazard (hgood : (chainFrom s.seq.steps (firstSlot r)).good = true)
    (hhazard : (lineOf s r.line).hazard = true) : examine s r = some .hazard := by
  simp [examine, hgood, hhazard]

theorem examine_recovered (hgood : (chainFrom s.seq.steps (firstSlot r)).good = true)
    (hhazard : (lineOf s r.line).hazard = false) (hup : r.origin = .triggered ∧ (lineOf s r.line).service = .up) :
    examine s r = some .recovered := by
  simp [examine, hgood, hhazard, (isTriggered_iff r).mpr hup.1, hup.2]

theorem examine_none (hgood : (chainFrom s.seq.steps (firstSlot r)).good = true)
    (hhazard : (lineOf s r.line).hazard = false) (hup : ¬ (r.origin = .triggered ∧ (lineOf s r.line).service = .up)) :
    examine s r = none := by
  rw [← isTriggered_iff] at hup
  simp [examine, hgood, hhazard, hup]

theorem termsOf_eq (s : State) (r : Run) : termsOf s r =
    ⟨if r.origin = .triggered then .triggered else .scheduled,
      holdEstimate s.seq.steps (chainFrom s.seq.steps (firstSlot r))⟩ := by
  simp only [termsOf, isTriggered_iff]

/-- The head taken off the queue, for its examination (R146). -/
def headTaken (rest : List Run) (s : State) : State := setSeq (fun q => { q with queue := rest }) s

/-- A head that ends leaves the next one to be examined (R146). -/
theorem activate_ends {o : RunOutcome} (ha : s.seq.active = none) (hc : s.seq.closing = none)
    (hq : s.seq.queue = r :: rest) (hends : examine (headTaken rest s) r = some o)
    (hrest : (endAtActivation r o (headTaken rest s)).seq.queue = rest) :
    activate s = activate (endAtActivation r o (headTaken rest s)) := by
  have hexamine : examine (setSeq (fun q => { q with queue := rest }) s) r = some o := hends
  rw [activate, activate, hrest, hq, List.length_cons, activateUpTo, ha, hc, hq]
  simp only [hexamine]
  rfl

/-! ### A run that ends at activation (R148) -/

/-- The hold stands, or is left (R148). -/
theorem decideHold_eq (o : RunOutcome) (s : State) : decideHold o s = s ∨ decideHold o s = leaveHolding s := by
  unfold decideHold; split
  · exact .inl rfl
  · next h =>
    have ho : s.claims.own = .holding := by by_contra ho; exact h (.inl ho)
    exact .inr (giveUp_holding ho)

theorem decideHold_unheld (o : RunOutcome) (ho : s.claims.own ≠ .holding) : decideHold o s = s := if_pos (.inl ho)

theorem decideHold_seq (o : RunOutcome) (s : State) : (decideHold o s).seq = s.seq ∧ (decideHold o s).time = s.time ∧
    (decideHold o s).settings = s.settings := by
  rcases decideHold_eq o s with h | h <;> rw [h]
  · exact ⟨rfl, rfl, rfl⟩
  · exact ⟨(leaveHolding_runs s).1, leaveHolding_time s, leaveHolding_settings s⟩

/-- Where there is no hold, or no relay is closed under it, its giving up touches no line and tells of none (R133). -/
theorem decideHold_aside (o : RunOutcome) (h : s.claims.own ≠ .holding ∨ s.claims.relay = none) :
    (decideHold o s).mgmt = s.mgmt ∧ (decideHold o s).store = s.store ∧ (decideHold o s).lines = s.lines := by
  rcases h with ho | hr
  · rw [decideHold_unheld o ho]; exact ⟨rfl, rfl, rfl⟩
  · rcases decideHold_eq o s with h | h <;> rw [h]
    · exact ⟨rfl, rfl, rfl⟩
    · rw [leaveHolding, disconnect_open hr]; exact ⟨rfl, rfl, rfl⟩

theorem endAtActivation_seq (r : Run) (o : RunOutcome) (s : State) : (endAtActivation r o s).seq = { s.seq with
    holdoffs := if r.origin = .triggered then
      put s.seq.holdoffs r.line (some (s.time + 60000 * s.settings.holdoff)) else s.seq.holdoffs } := by
  obtain ⟨hseq, htime, hsettings⟩ := decideHold_seq o s
  rw [endAtActivation, refreshTests, setAllLines_seq, endRecord_seq, hseq, htime, hsettings]

theorem endAtActivation_lastRun (r : Run) (o : RunOutcome) (s : State) :
    look (endAtActivation r o s).meas.lastRuns r.line = some ⟨r.id, r.origin, o, s.time⟩ := by
  have hlast := endRecord_lastRun r o (firstSlot r) (decideHold o s)
  rw [(decideHold_seq o s).2.1] at hlast
  exact hlast

theorem endAtActivation_claims (r : Run) (o : RunOutcome) (s : State) :
    (endAtActivation r o s).claims = (decideHold o s).claims := by
  rw [endAtActivation, refreshTests_claims, endRecord_claims]

theorem endAtActivation_reports (r : Run) (o : RunOutcome) (h : s.claims.own ≠ .holding ∨ s.claims.relay = none) :
    (endAtActivation r o s).mgmt = (queueReport (.runEnded r o (firstSlot r)) s).mgmt ∧
    (endAtActivation r o s).store = (queueReport (.runEnded r o (firstSlot r)) s).store := by
  obtain ⟨hmgmt, hstore, -⟩ := decideHold_aside o h
  exact (endRecord_ends r o (firstSlot r) (decideHold_seq o s).2.1 hstore hmgmt).2

/-- The lines that are not CONNECTED follow what is left of the queue (R141). -/
theorem endAtActivation_test (r : Run) (o : RunOutcome) (h : s.claims.own ≠ .holding ∨ s.claims.relay = none)
    (ha : s.seq.active = none) (l : Line) : (lineOf (endAtActivation r o s) l).test =
      if (lineOf s l).test = .connected then .connected
      else if ∃ x ∈ s.seq.queue, x.line = l then .pending else .none := by
  have hline : lineOf (endRecord r o (firstSlot r) (decideHold o s)) l = lineOf s l := by
    rw [lineOf, endRecord_lines, (decideHold_aside o h).2.2]; rfl
  have hseq := endRecord_seq r o (firstSlot r) (decideHold o s)
  rw [endAtActivation, refreshTests_test, hline, restingTest, hseq, (decideHold_seq o s).1, ha]
  simp

/-! ### A run that becomes active (R129, R133, R146) -/

/-- The head of the queue made active in a phase, before anything is asked of the claim unit (R146). -/
def headActive (r : Run) (rest : List Run) (p : Phase) (s : State) : State :=
  refreshTests (setSeq (fun q => { q with queue := rest, active := some (activeIn r p) }) s)

theorem headActive_seq (r : Run) (rest : List Run) (p : Phase) (s : State) :
    (headActive r rest p s).seq = { s.seq with queue := rest, active := some (activeIn r p) } := rfl

theorem headActive_claims (r : Run) (rest : List Run) (p : Phase) (s : State) :
    (headActive r rest p s).claims = s.claims := rfl

/-- Past the own hold limit no relay closes (R133, R134). -/
theorem connect_refused (l : Line) (hlimit : pastLimit s = true) : connect l s = s := if_pos hlimit

/-- While a release time runs the Connect waits (R133). -/
theorem connect_delayed (l : Line) (hlimit : ¬ pastLimit s = true) (ht : s.claims.releaseAt ≠ none) :
    connect l s = setClaims (fun cl => { cl with connectWaits := some l }) s := by
  rw [connect, if_neg hlimit, if_pos (Option.isSome_iff_ne_none.mpr ht)]

section
variable (ha : s.seq.active = none) (hc : s.seq.closing = none) (hq : s.seq.queue = r :: rest)
  (hpass : examine (headTaken rest s) r = none)
include ha hc hq hpass

theorem activate_connects (ho : s.claims.own = .holding) :
    activate s = connect r.line (headActive r rest .connecting s) := by
  rw [activate_passes ha hc hq hpass]
  exact if_pos ho

/-- Under a hold that is kept the relay stays open past the own hold limit, waits for a release time, or closes (R133). -/
theorem activate_holding (ho : s.claims.own = .holding) :
    (pastLimit s = true → (activate s).claims = s.claims ∧
      (activate s).seq = { s.seq with queue := rest, active := some (activeIn r .connecting) }) ∧
    (¬ pastLimit s = true → s.claims.releaseAt ≠ none →
      (activate s).claims = { s.claims with connectWaits := some r.line } ∧
      (activate s).seq = { s.seq with queue := rest, active := some (activeIn r .connecting) }) ∧
    (¬ pastLimit s = true → s.claims.releaseAt = none → s.claims.relay = none →
      (lineOf (activate s) r.line).test = .connected ∧
      (activate s).claims = { s.claims with relay := some r.line, connectWaits := none } ∧
      (activate s).seq = { s.seq with
        queue := rest, active := some { activeIn r .connecting with until_ := some (s.time + 10) } }) := by
  rw [activate_connects ha hc hq hpass ho]
  refine ⟨fun hlimit => ?_, fun hlimit ht => ?_, fun hlimit ht hr => ?_⟩
  · rw [connect_refused _ (by exact hlimit)]; exact ⟨headActive_claims .., headActive_seq ..⟩
  · rw [connect_delayed _ (by exact hlimit) (by exact ht)]; exact ⟨rfl, headActive_seq ..⟩
  · rw [connect_closes (by exact hlimit) (by exact ht) (by exact hr)]
    exact closeRelay_closes r.line (headActive r rest .connecting s)

theorem activate_waits (ho : s.claims.own ≠ .holding) :
    activate s = claimHead (termsOf s r) (headActive r rest .waitingBus s) := by
  rw [activate_passes ha hc hq hpass]
  exact if_neg ho

end

end

/-! ### The claim asked of the claim unit (R129) -/

section
variable {s t : State} {c : ClaimTerms}

/-- A step of the claim unit that tells nobody and closes or opens no relay. -/
def ClaimStep (s t : State) : Prop := t.mgmt = s.mgmt ∧ t.claims.relay = s.claims.relay

theorem claimStep_askNotice (a : Ask) (h : ClaimStep s t) : ClaimStep s (askNotice a t) := by
  obtain ⟨n, hn⟩ := askNotice_frame a t
  rw [hn]; exact h

theorem claimStep_enterQueued (h : ClaimStep s t) : ClaimStep s (enterQueued t) := by
  have hasked : ClaimStep s (claimAsked t) := claimStep_askNotice _ h
  rw [enterQueued_eq, followTurn]; split
  · exact claimStep_askNotice _ hasked
  · exact hasked

theorem claimStep_claimHead (c : ClaimTerms) (s : State) : ClaimStep s (claimHead c s) := by
  have hrefl : ClaimStep s s := ⟨rfl, rfl⟩
  have hforce : ClaimStep s (setClaims (fun cl => { cl with inForce := some c }) s) := ⟨rfl, rfl⟩
  unfold claimHead; split
  · unfold claimFromNone; dsimp only; split
    · exact hforce
    · exact claimStep_enterQueued hforce
  · exact claimStep_enterQueued hforce
  · exact hforce
  · exact hforce
  · exact hrefl
  · exact ⟨rfl, rfl⟩

/-- Before two STATUS notices have completed the claim is recorded, and waits (R129). -/
theorem claimHead_records (ho : s.claims.own = .none) (hdone : s.notices.statusDone < 2) :
    claimHead c s = setClaims (fun cl => { cl with inForce := some c, waiting := true }) s := by
  simp only [claimHead, ho, claimFromNone, if_pos hdone]; rfl

theorem claimHead_asks (h : s.claims.own = .queued ∨ (s.claims.own = .none ∧ 2 ≤ s.notices.statusDone)) :
    claimHead c s = enterQueued (setClaims (fun cl => { cl with inForce := some c }) s) := by
  rcases h with ho | ⟨ho, hdone⟩
  · simp only [claimHead, ho]
  · simp only [claimHead, ho]; exact claimFromNone_ready hdone

theorem claimHead_stands (h : s.claims.own = .turn ∨ s.claims.own = .taking) :
    claimHead c s = setClaims (fun cl => { cl with inForce := some c }) s := by
  rcases h with ho | ho <;> simp only [claimHead, ho]

/-- A CLAIM that is asked for stands in the outgoing queue, behind the station's turn or before it (R129, R130). -/
theorem claimHead_asked (h : s.claims.own = .queued ∨ (s.claims.own = .none ∧ 2 ≤ s.notices.statusDone)) :
    (claimHead c s).claims.inForce = some c ∧
    ((claimHead c s).claims.own = if ownTurn s = true then .turn else .queued) ∧
    ∃ e ∈ (claimHead c s).notices.queue, e.ask = .claim c.priority c.hold := by
  rw [claimHead_asks h, enterQueued_claims]
  exact ⟨rfl, rfl, mem_enterQueued rfl⟩

end

/-- A run that passes its examination where its claim is asked for at once (R129, R146). -/
theorem activate_asks {r : Run} {rest : List Run} (ha : s.seq.active = none) (hc : s.seq.closing = none)
    (hq : s.seq.queue = r :: rest) (hpass : examine (headTaken rest s) r = none)
    (h : s.claims.own = .queued ∨ (s.claims.own = .none ∧ 2 ≤ s.notices.statusDone)) :
    (activate s).claims.inForce = some (termsOf s r) ∧
    ((activate s).claims.own = if ownTurn s = true then .turn else .queued) ∧
    ∃ e ∈ (activate s).notices.queue, e.ask = .claim (termsOf s r).priority (termsOf s r).hold := by
  have ho : s.claims.own ≠ .holding := by rcases h with h | ⟨h, -⟩ <;> rw [h] <;> decide
  rw [activate_waits ha hc hq hpass ho]
  exact claimHead_asked (s := headActive r rest .waitingBus s) h

theorem activate_waits_seq {r : Run} {rest : List Run} (ha : s.seq.active = none) (hc : s.seq.closing = none)
    (hq : s.seq.queue = r :: rest) (hpass : examine (headTaken rest s) r = none) (ho : s.claims.own ≠ .holding) :
    (activate s).seq = { s.seq with queue := rest, active := some (activeIn r .waitingBus) } := by
  rw [activate_waits ha hc hq hpass ho, (claimsOnly_claimHead _ _).seq, headActive_seq]

/-! ### SUBMIT RUN (R142, R143) -/

theorem slotOperand_eq_none {slot : Byte} (h : 127 < slot.toNat) : slotOperand slot = none := by
  rw [slotOperand]; exact dif_neg (by omega)

theorem slotOperand_eq_some {slot : Byte} {k : Slot} (h : slot.toNat = k.val) : slotOperand slot = some k := by
  simp only [slotOperand, h, k.isLt, dite_true]

section
variable {num line slot option : Byte} {l : Line} {k : Slot} {s : State}

theorem submitRequest_outOfRange (h : 11 < line.toNat ∨ 127 < slot.toNat) :
    submitRequest num line slot option s = respond 10 num .refusedRange [] false s := by
  rcases h with h | h
  · simp only [submitRequest, lineOperand_eq_none h]; rfl
  · simp only [submitRequest, slotOperand_eq_none h]
    cases lineOperand line <;> rfl

theorem submitRequest_refused (hl : line.toNat = l.val) (hk : slot.toNat = k.val) {c : RefusalCause}
    (h : submitRefusal s l k = some c) :
    submitRequest num line slot option s = respond 10 num .refusedState [refusalByte c] false s := by
  simp only [submitRequest, lineOperand_eq_some hl, slotOperand_eq_some hk, h]; rfl

theorem submitRequest_accepted (hl : line.toNat = l.val) (hk : slot.toNat = k.val) (h : submitRefusal s l k = none) :
    submitRequest num line slot option s = submitGood num l k (option.getLsbD 0) s := by
  simp only [submitRequest, lineOperand_eq_some hl, slotOperand_eq_some hk, h]

section
variable (hroom : ¬ 16 ≤ s.seq.queue.length)

theorem submitRefusal_full (hfull : 16 ≤ s.seq.queue.length) : submitRefusal s l k = some .queueFull := if_pos hfull

include hroom

theorem submitRefusal_vacant (hvacant : (lineOf s l).service = .vacant) : submitRefusal s l k = some .vacant := by
  rw [submitRefusal, if_neg (by exact hroom), if_pos hvacant]

variable (hvacant : ¬ (lineOf s l).service = .vacant)
include hvacant

theorem submitRefusal_hazard (hhazard : (lineOf s l).hazard = true) : submitRefusal s l k = some .hazard := by
  rw [submitRefusal, if_neg (by exact hroom), if_neg hvacant, if_pos hhazard]

variable (hhazard : ¬ (lineOf s l).hazard = true)
include hhazard

theorem submitRefusal_malformed (hgood : (chainFrom s.seq.steps k).good = false) :
    submitRefusal s l k = some .malformed := by
  rw [submitRefusal, if_neg (by exact hroom), if_neg hvacant, if_neg hhazard, if_pos (by rw [hgood]; rfl)]

theorem submitRefusal_none (hgood : (chainFrom s.seq.steps k).good = true) : submitRefusal s l k = none := by
  rw [submitRefusal, if_neg (by exact hroom), if_neg hvacant, if_neg hhazard, if_neg (by rw [hgood]; decide)]

end

/-- The run that a submission forms (R143). -/
def submitted (s : State) (l : Line) (k : Slot) (report : Bool) : Run := newRun s l k .operator report none

/-- A line whose run has been queued is PENDING, unless its relay is closed (R141). -/
theorem enterTail_test (r : Run) (s : State) :
    (lineOf (enterTail r s) r.line).test = if (lineOf s r.line).test = .connected then .connected else .pending := by
  have hpending : restingTest (setSeq (fun q => { q with queue := q.queue ++ [r] }) s) r.line = .pending :=
    if_pos (by simp)
  rw [enterTail, refreshTests_test, hpending]; rfl

/-- With no run ahead of it, and a claim unit that has nothing to wait for, the run is made active and its claim is asked for
(R129, R146). -/
theorem submitted_activates (report : Bool) (hhazard : (lineOf s l).hazard = false)
    (hgood : (chainFrom s.seq.steps k).good = true) (ha : s.seq.active = none) (hc : s.seq.closing = none)
    (hq : s.seq.queue = []) (ho : s.claims.own = .none) (hview : s.claims.queue = []) (hdone : 2 ≤ s.notices.statusDone) :
    let s1 := activate (enterTail (submitted s l k report) (takeId s))
    s1.seq = { s.seq with
      counter := assignedId s.seq
      active := some ⟨submitted s l k report, k, .waitingBus, none, false, false, .passed⟩ } ∧
    s1.claims.own = .queued ∧
    s1.claims.inForce = some ⟨.scheduled, holdEstimate s.seq.steps (chainFrom s.seq.steps k)⟩ ∧
    ∃ e ∈ s1.notices.queue, e.ask = .claim .scheduled (holdEstimate s.seq.steps (chainFrom s.seq.steps k)) := by
  have hseq : (enterTail (submitted s l k report) (takeId s)).seq =
      { s.seq with counter := assignedId s.seq, queue := [submitted s l k report] } := by
    rw [enterTail, refreshTests, setAllLines_seq, setSeq_seq, takeId, setSeq_seq]
    dsimp only
    rw [hq]; rfl
  have hclaims : (enterTail (submitted s l k report) (takeId s)).claims = s.claims := refreshTests_claims _
  have hnotices : (enterTail (submitted s l k report) (takeId s)).notices = s.notices := by
    rw [enterTail_notices]; rfl
  have hclear : (lineOf (enterTail (submitted s l k report) (takeId s)) l).hazard = false :=
    (refreshTests_hazard _ l).trans hhazard
  generalize enterTail (submitted s l k report) (takeId s) = u at hseq hclaims hnotices hclear
  have hpass : examine (headTaken [] u) (submitted s l k report) = none := by
    refine examine_none ?_ hclear (fun h => by cases h.1)
    change (chainFrom u.seq.steps k).good = true
    rw [hseq]; exact hgood
  have hterms : termsOf u (submitted s l k report) =
      ⟨.scheduled, holdEstimate s.seq.steps (chainFrom s.seq.steps k)⟩ := by
    rw [termsOf_eq, hseq]; rfl
  have hturn : ¬ ownTurn u = true := fun h => by
    have hhead := ((ownTurn_iff u).mp h).2
    rw [hclaims, hview] at hhead; cases hhead
  have hactive : u.seq.active = none := by rw [hseq]; exact ha
  have hclosing : u.seq.closing = none := by rw [hseq]; exact hc
  have hqueue : u.seq.queue = [submitted s l k report] := by rw [hseq]
  obtain ⟨hforce, hown, hclaim⟩ := activate_asks hactive hclosing hqueue hpass
    (.inr ⟨by rw [hclaims]; exact ho, by rw [hnotices]; exact hdone⟩)
  rw [hterms] at hforce hclaim
  refine ⟨?_, hown.trans (if_neg hturn), hforce, hclaim⟩
  rw [activate_waits_seq hactive hclosing hqueue hpass (by rw [hclaims, ho]; decide), hseq]
  dsimp only
  rw [hq]; rfl

end

/-! ### CANCEL RUN (R145) -/

section
variable {id : Nat} {s : State} {a : Active} {r : Run} {before behind : List Run}

theorem withoutRun_append (h : ∀ x ∈ before ++ behind, x.id ≠ r.id) :
    withoutRun r.id (before ++ r :: behind) = before ++ behind := by
  have hkept : ∀ x ∈ before ++ behind, decide (x.id ≠ r.id) = true := fun x hx => decide_eq_true (h x hx)
  rw [withoutRun, List.filter_append, List.filter_cons_of_neg (by simp), ← List.filter_append, List.filter_eq_self]
  exact hkept

theorem cancelRun_queued (hq : s.seq.queue = before ++ r :: behind) (hid : r.id = id)
    (hothers : ∀ x ∈ before ++ behind, x.id ≠ id) : cancelRun id s = some (cancelQueued r s) := by
  have hbefore : ∀ x ∈ before, ¬ decide (x.id = id) = true := fun x hx => by
    simpa using hothers x (List.mem_append_left _ hx)
  have hfind : s.seq.queue.find? (fun r => decide (r.id = id)) = some r := by
    rw [hq, List.find?_append, List.find?_eq_none.mpr hbefore, List.find?_cons_of_pos (by simpa using hid)]; rfl
  simp only [cancelRun, hfind]

theorem cancelQueued_ends (hq : s.seq.queue = before ++ r :: behind) (hothers : ∀ x ∈ before ++ behind, x.id ≠ r.id) :
    (cancelQueued r s).seq = { s.seq with
      queue := before ++ behind
      holdoffs := if r.origin = .triggered then
        put s.seq.holdoffs r.line (some (s.time + 60000 * s.settings.holdoff)) else s.seq.holdoffs } ∧
    look (cancelQueued r s).meas.lastRuns r.line = some ⟨r.id, r.origin, .cancelled, s.time⟩ ∧
    (cancelQueued r s).mgmt = (queueReport (.runEnded r .cancelled (firstSlot r)) s).mgmt ∧
    (cancelQueued r s).store = (queueReport (.runEnded r .cancelled (firstSlot r)) s).store := by
  refine ⟨?_, endRecord_ends (s := s) _ _ _ rfl rfl rfl⟩
  rw [cancelQueued, refreshTests, setAllLines_seq, endRecord_seq, setSeq_seq]
  dsimp only
  rw [hq, withoutRun_append hothers]; rfl

theorem find_queued_none (hqueued : ¬ ∃ r ∈ s.seq.queue, r.id = id) :
    s.seq.queue.find? (fun r => decide (r.id = id)) = none :=
  List.find?_eq_none.mpr fun x hx h => hqueued ⟨x, hx, of_decide_eq_true h⟩

theorem faultHolder_none (hfaulted : ¬ ∃ l, ∃ r ∈ look s.seq.faults l, r.id = id) : faultHolder s.seq id = none := by
  refine List.find?_eq_none.mpr fun l _ h => hfaulted ⟨l, ?_⟩
  obtain ⟨x, hx, hid⟩ := Option.any_eq_true _ _ |>.mp h
  exact ⟨x, hx, of_decide_eq_true hid⟩

section
variable (hqueued : ¬ ∃ r ∈ s.seq.queue, r.id = id)
include hqueued

theorem cancelRun_faulted {l : Line} (hr : look s.seq.faults l = some r) (hid : r.id = id)
    (hothers : ∀ k, k ≠ l → ∀ x ∈ look s.seq.faults k, x.id ≠ id) : cancelRun id s = some (discardFault l s) := by
  have hholder : faultHolder s.seq id = some l := by
    cases hfound : faultHolder s.seq id with
    | none =>
      have hnone := List.find?_eq_none.mp hfound l (mem_indices l)
      rw [hr] at hnone
      exact absurd (decide_eq_true hid) hnone
    | some k =>
      have hfault := List.find?_some hfound
      obtain ⟨x, hx, hxid⟩ := Option.any_eq_true _ _ |>.mp hfault
      by_contra hne
      exact hothers k (fun h => hne (by rw [h])) x hx (of_decide_eq_true hxid)
  simp only [cancelRun, find_queued_none hqueued, hholder]

variable (hfaulted : ¬ ∃ l, ∃ r ∈ look s.seq.faults l, r.id = id)
include hfaulted

theorem cancelRun_none (hactive : ∀ a ∈ s.seq.active, a.run.id ≠ id) : cancelRun id s = none := by
  simp only [cancelRun, find_queued_none hqueued, faultHolder_none hfaulted]
  split
  · next a ha => exact if_neg (hactive a ha)
  · rfl

theorem cancelRun_active (ha : s.seq.active = some a) (hid : a.run.id = id) : cancelRun id s = cancelActive a s := by
  simp only [cancelRun, find_queued_none hqueued, faultHolder_none hfaulted, ha, hid, if_true]

end

theorem cancelActive_refused (h : a.phase = .ending ∨ (a.phase ≠ .waitingBus ∧ a.cancel = true)) :
    cancelActive a s = none := by
  have hwaits : a.phase ≠ .waitingBus := by
    rcases h with h | h
    · rw [h]; decide
    · exact h.1
  rw [cancelActive, if_neg hwaits, if_pos (h.imp_right And.right)]

theorem cancelActive_marks (hends : a.phase ≠ .ending) (hwaits : a.phase ≠ .waitingBus) (hcancel : a.cancel = false) :
    cancelActive a s = some (setActive (fun a => { a with cancel := true }) s) := by
  rw [cancelActive, if_neg hwaits, if_neg (by simp [hends, hcancel])]

/-- The run that waits for the bus ends at once, and its claim is given up (R129, R145). -/
theorem cancelWaiting_ends (hq : s.seq.queue = []) (ho : s.claims.own = .queued) :
    (cancelWaiting a s).seq = { s.seq with
      active := none
      holdoffs := if a.run.origin = .triggered then
        put s.seq.holdoffs a.run.line (some (s.time + 60000 * s.settings.holdoff)) else s.seq.holdoffs } ∧
    (cancelWaiting a s).claims.own = .none ∧ (cancelWaiting a s).claims.inForce = none ∧
    look (cancelWaiting a s).meas.lastRuns a.run.line = some ⟨a.run.id, a.run.origin, .cancelled, s.time⟩ ∧
    (cancelWaiting a s).mgmt = (queueReport (.runEnded a.run .cancelled a.slot) s).mgmt ∧
    (cancelWaiting a s).store = (queueReport (.runEnded a.run .cancelled a.slot) s).store := by
  have hgiven : giveUp s = askNotice .release (setClaims (fun cl =>
      { cl with own := .none, inForce := none, reclaim := false, confirmAt := none, ownLimit := none }) s) := by
    simp only [giveUp, ho]
  obtain ⟨n, hasked⟩ := askNotice_frame .release (setClaims (fun cl =>
    { cl with own := .none, inForce := none, reclaim := false, confirmAt := none, ownLimit := none }) s)
  rw [hasked] at hgiven
  have hseq : (refreshTests (endRecord a.run .cancelled a.slot (clearActive (giveUp s)))).seq = { s.seq with
      active := none
      holdoffs := if a.run.origin = .triggered then
        put s.seq.holdoffs a.run.line (some (s.time + 60000 * s.settings.holdoff)) else s.seq.holdoffs } := by
    rw [refreshTests, setAllLines_seq, endRecord_seq, hgiven]; rfl
  rw [cancelWaiting, activate_none (by rw [hseq]; exact hq), refreshTests_claims, endRecord_claims]
  refine ⟨hseq, ?_, ?_, endRecord_ends (s := s) _ _ _ ?_ ?_ ?_⟩ <;> rw [hgiven] <;> rfl

theorem cancelRequest_done {num id : Byte} {t : State} (hid : id ≠ 0) (h : cancelRun id.toNat s = some t) :
    cancelRequest num id s = respond 11 num .done [] false t := by
  rw [cancelRequest, if_neg hid, h]; rfl

theorem cancelRequest_refused {num id : Byte} (hid : id ≠ 0) (h : cancelRun id.toNat s = none) :
    cancelRequest num id s = respond 11 num .refusedState [] false s := by
  rw [cancelRequest, if_neg hid, h]; rfl

end

/-- Settles O58: the answer of each request is read off the first row that applies, and the activation of the head of the queue
off its examination and the state of the claim unit. -/
theorem runsAreSubmittedAndCancelled : Obligations.RunsAreSubmittedAndCancelled := by
  unfold Obligations.RunsAreSubmittedAndCancelled
  intro slotOf holdoffsAfter ended
  refine ⟨fun num line slot option s htakes => ?_, fun num id s htakes => ?_, fun r rest s ha hc hq => ?_⟩
  · intro s0 answers
    have hanswers {a : Answer} {data : List Byte} {t : State}
        (h : submitRequest num line slot option s = respond 10 num a data false t) : answers a data t :=
      congrArg Host.Outcome.next ((live_takeRequest htakes _).trans (congrArg settle h))
    refine ⟨fun h => hanswers (submitRequest_outOfRange h), fun l k hl hk => ?_⟩
    intro chain full vacant hazard runId r data
    refine ⟨fun hfull => ?_, fun hroom hvacant => ?_, fun hroom hvacant hhazard => ?_,
      fun hroom hvacant hhazard hgood => ?_, fun hroom hvacant hhazard hgood => ?_⟩
    · exact hanswers (submitRequest_refused (c := .queueFull) hl hk (submitRefusal_full hfull))
    · exact hanswers (submitRequest_refused (c := .vacant) hl hk (submitRefusal_vacant hroom hvacant))
    · exact hanswers (submitRequest_refused (c := .hazard) hl hk (submitRefusal_hazard hroom hvacant hhazard))
    · exact hanswers (submitRequest_refused (c := .malformed) hl hk (submitRefusal_malformed hroom hvacant hhazard hgood))
    · have haccepted : answers .done data (activate (enterTail r (takeId s))) :=
        hanswers (submitRequest_accepted hl hk (submitRefusal_none hroom hvacant hhazard hgood))
      refine ⟨fun ha => ⟨_, haccepted, ?_⟩, fun ha hc hq ho hview hdone => ⟨_, haccepted, ?_⟩⟩
      · rw [activate_active (by exact ha)]
        exact ⟨rfl, enterTail_test r (takeId s)⟩
      · exact submitted_activates _ (Bool.eq_false_iff.mpr hhazard) hgood ha hc hq ho hview hdone
  · intro s0 answers queued faulted
    have hanswers {a : Answer} {t : State} (h : cancelRequest num id s = respond 11 num a [] false t) : answers a t :=
      congrArg Host.Outcome.next ((live_takeRequest htakes _).trans (congrArg settle h))
    refine ⟨fun hid => ?_, fun hid hqueued hfaulted hactive => ?_, fun before r behind hid hq hr hothers => ?_,
      fun l r hr hid hqueued hrid hothers => ?_, fun a ha hid hqueued hfaulted harun => ?_⟩
    · exact hanswers (if_pos hid)
    · exact hanswers (cancelRequest_refused hid (cancelRun_none hqueued hfaulted hactive))
    · refine ⟨_, hanswers (cancelRequest_done hid (cancelRun_queued hq hr hothers)), ?_⟩
      have hends := cancelQueued_ends hq (by rw [hr]; exact hothers)
      rw [firstSlot_eq] at hends
      exact hends
    · exact hanswers (cancelRequest_done hid (cancelRun_faulted hqueued hr hrid hothers))
    · have hcancel := cancelRun_active hqueued hfaulted ha harun
      refine ⟨fun h => ?_, fun hends hwaits hmark => ?_, fun hwaits hq ho => ?_⟩
      · exact hanswers (cancelRequest_refused hid (hcancel.trans (cancelActive_refused h)))
      · have hmarked : setActive (fun a => { a with cancel := true }) s =
            { s with seq := { s.seq with active := some { a with cancel := true } } } := by
          rw [setActive, setSeq, ha]; rfl
        exact hanswers (cancelRequest_done hid (hcancel.trans
          ((cancelActive_marks hends hwaits hmark).trans (congrArg some hmarked))))
      · exact ⟨_, hanswers (cancelRequest_done hid (hcancel.trans (if_pos hwaits))), cancelWaiting_ends hq ho⟩
  · intro slot chain terms recovered ends
    have hslot : firstSlot r = slot := firstSlot_eq r
    have hchain : chainFrom (headTaken rest s).seq.steps (firstSlot r) = chain := by rw [hslot]; rfl
    have hterms : termsOf s r = terms := by rw [termsOf_eq, hslot]
    have hends {o : RunOutcome} (h : examine (headTaken rest s) r = some o) : ends o := by
      have hseq := endAtActivation_seq r o (headTaken rest s)
      have hclaims := endAtActivation_claims r o (headTaken rest s)
      refine ⟨_, activate_ends ha hc hq h (by rw [hseq]; rfl), hseq, endAtActivation_lastRun r o (headTaken rest s),
        hclaims, fun ho => ?_, fun hfree => ⟨?_, endAtActivation_test r o hfree ha⟩⟩
      · rw [hclaims, decideHold_unheld o (by exact ho)]; rfl
      · obtain ⟨hmgmt, hstore⟩ := endAtActivation_reports (s := headTaken rest s) r o hfree
        obtain ⟨hmgmt', hstore'⟩ := queueReport_congr (.runEnded r o (firstSlot r)) (s := s) (t := headTaken rest s) rfl rfl rfl
        rw [hslot] at hmgmt hstore hmgmt' hstore'
        exact ⟨hmgmt.trans hmgmt', hstore.trans hstore'⟩
    refine ⟨fun hgood => ?_, fun hgood hhazard => ?_, fun hgood hhazard hup => ?_, fun hgood hhazard hup => ?_⟩
    · exact hends (examine_malformed (by rw [hchain]; exact hgood))
    · exact hends (examine_hazard (by rw [hchain]; exact hgood) hhazard)
    · exact hends (examine_recovered (by rw [hchain]; exact hgood) hhazard hup)
    have hpass : examine (headTaken rest s) r = none := examine_none (by rw [hchain]; exact hgood) hhazard hup
    have hactive (p : Phase) : activeIn r p = ⟨r, slot, p, none, false, false, .passed⟩ := by rw [activeIn, hslot]
    have hwaits (ho : s.claims.own ≠ .holding) : activate s = claimHead terms (headActive r rest .waitingBus s) := by
      rw [activate_waits ha hc hq hpass ho, hterms]
    intro t cl begins limit
    refine ⟨fun ho => ?_, fun ho => ?_, fun ho hdone => ?_, fun h => ?_, fun h => ?_, fun ho => ?_⟩
    · obtain ⟨hpast, hdelayed, hcloses⟩ := activate_holding ha hc hq hpass ho
      have hlimit : limit ↔ pastLimit s = true := (pastLimit_iff s).symm
      rw [hactive] at hpast hdelayed hcloses
      refine ⟨fun h => (hpast (hlimit.mp h)).symm, fun h hrelease => (hdelayed (mt hlimit.mpr h) hrelease).symm,
        fun h hrelease hr => ?_⟩
      obtain ⟨htest, hclaims, hseq⟩ := hcloses (mt hlimit.mpr h) hrelease hr
      exact ⟨hseq, hclaims, htest⟩
    · have hstep := claimStep_claimHead terms (headActive r rest .waitingBus s)
      rw [← hwaits ho] at hstep
      refine ⟨?_, hstep⟩
      exact (activate_waits_seq ha hc hq hpass ho).trans (by rw [hactive])
    · have ht : t = _ := (hwaits (ne_of_eq_of_ne ho (by decide))).trans (claimHead_records ho hdone)
      exact congrArg State.claims ht
    · obtain ⟨hforce, hown, hclaim⟩ := activate_asks ha hc hq hpass h
      rw [hterms] at hforce hclaim
      refine ⟨hforce, ?_, hclaim⟩
      rw [hown]; split
      · exact .inr rfl
      · exact .inl rfl
    · have ho : s.claims.own ≠ .holding := by rcases h with h | h <;> exact ne_of_eq_of_ne h (by decide)
      have ht : t = _ := (hwaits ho).trans (claimHead_stands h)
      exact ⟨congrArg State.claims ht, (congrArg State.notices ht).trans rfl⟩
    · have ht : t = _ := (hwaits (ne_of_eq_of_ne ho (by decide))).trans (claimHead_releasing terms ho)
      exact congrArg State.claims ht

end Sys2Proof.Machine

/-! Chains of steps, hold estimates and run ids (R139 to R141). -/

namespace Sys2Proof.Machine

/-! ### The walk of a chain (R139) -/

section
variable {steps : Table (Option Step) 128} {k j : Slot} {p : Step}

theorem walkChain_empty (n : Nat) (h : look steps k = none) : walkChain steps (n + 1) k = ⟨[k], false⟩ := by
  simp only [walkChain, h]

theorem walkChain_stop (n : Nat) (h : look steps k = some p) (hstop : p.stop = true) :
    walkChain steps (n + 1) k = ⟨[k], true⟩ := by
  simp only [walkChain, h, hstop, if_true]

theorem walkChain_end (n : Nat) (h : look steps k = some p) (hstop : p.stop = false) (hnext : p.next = none) :
    walkChain steps (n + 1) k = ⟨[k], false⟩ := by
  simp [walkChain, h, hstop, hnext]

/-- A slot is linked to the next slot of its step, where that is no stop step (R139). -/
def Linked (steps : Table (Option Step) 128) (a b : Slot) : Prop :=
  ∃ p, look steps a = some p ∧ p.stop = false ∧ p.next = some b

theorem walkChain_linked (n : Nat) (h : Linked steps k j) :
    walkChain steps (n + 1) k = ⟨k :: (walkChain steps n j).slots, (walkChain steps n j).good⟩ := by
  obtain ⟨p, hp, hstop, hnext⟩ := h
  simp [walkChain, hp, hstop, hnext]

/-- What the step in a slot makes of a walk: it ends there, or goes on to a linked slot. -/
theorem walkChain_cases (steps : Table (Option Step) 128) (n : Nat) (k : Slot) :
    (walkChain steps (n + 1) k = ⟨[k], false⟩ ∧ ∀ p, look steps k = some p → p.stop = false) ∨
    (walkChain steps (n + 1) k = ⟨[k], true⟩ ∧ ∃ p, look steps k = some p ∧ p.stop = true) ∨
    ∃ j, Linked steps k j := by
  cases hk : look steps k with
  | none => exact .inl ⟨walkChain_empty n hk, nofun⟩
  | some p =>
    cases hstop : p.stop with
    | true => exact .inr (.inl ⟨walkChain_stop n hk hstop, p, rfl, hstop⟩)
    | false =>
      cases hnext : p.next with
      | none => exact .inl ⟨walkChain_end n hk hstop hnext, fun q hq => by cases hq; exact hstop⟩
      | some j => exact .inr (.inr ⟨j, p, hk, hstop, hnext⟩)

theorem walkChain_head (n : Nat) (k : Slot) : ∃ rest, (walkChain steps (n + 1) k).slots = k :: rest := by
  rcases walkChain_cases steps n k with ⟨h, -⟩ | ⟨h, -⟩ | ⟨j, h⟩
  · exact ⟨[], by rw [h]⟩
  · exact ⟨[], by rw [h]⟩
  · exact ⟨_, by rw [walkChain_linked n h]⟩

theorem walkChain_length (n : Nat) (k : Slot) : (walkChain steps n k).slots.length ≤ n := by
  induction n generalizing k with
  | zero => exact Nat.le_refl 0
  | succ n ih =>
    rcases walkChain_cases steps n k with ⟨h, -⟩ | ⟨h, -⟩ | ⟨j, h⟩
    · rw [h]; exact Nat.succ_le_succ (Nat.zero_le n)
    · rw [h]; exact Nat.succ_le_succ (Nat.zero_le n)
    · rw [walkChain_linked n h]; exact Nat.succ_le_succ (ih j)

/-- The slots of a walk are linked, each to the next. -/
theorem walkChain_isChain (n : Nat) (k : Slot) : (walkChain steps n k).slots.IsChain (Linked steps) := by
  induction n generalizing k with
  | zero => exact .nil
  | succ n ih =>
    rcases walkChain_cases steps n k with ⟨h, -⟩ | ⟨h, -⟩ | ⟨j, h⟩
    · rw [h]; exact .singleton k
    · rw [h]; exact .singleton k
    · rw [walkChain_linked n h]
      cases n with
      | zero => exact .singleton k
      | succ n =>
        obtain ⟨rest, hrest⟩ := walkChain_head (steps := steps) n j
        have htail := ih j
        rw [hrest] at htail ⊢
        exact .cons_cons h htail

/-- A walk is good exactly where its last slot holds a stop step. -/
theorem walkChain_good_iff (n : Nat) (k : Slot) : (walkChain steps n k).good = true ↔
    ∃ last p, (walkChain steps n k).slots.getLast? = some last ∧ look steps last = some p ∧ p.stop = true := by
  induction n generalizing k with
  | zero => simp [walkChain]
  | succ n ih =>
    rcases walkChain_cases steps n k with ⟨h, hnone⟩ | ⟨h, p, hp, hstop⟩ | ⟨j, h⟩
    · rw [h]
      refine ⟨nofun, ?_⟩
      rintro ⟨last, p, hlast, hp, hstop⟩
      cases hlast
      rw [hnone p hp] at hstop; cases hstop
    · rw [h]
      exact ⟨fun _ => ⟨k, p, rfl, hp, hstop⟩, fun _ => rfl⟩
    · rw [walkChain_linked n h]
      refine (ih j).trans ?_
      cases n with
      | zero =>
        obtain ⟨p, hp, hstop, -⟩ := h
        simp [walkChain, hp, hstop]
      | succ n =>
        obtain ⟨rest, hrest⟩ := walkChain_head (steps := steps) n j
        rw [hrest, List.getLast?_cons_cons]

/-! ### A good chain visits each slot once (R139) -/

/-- Where a walk is good, a walk with another bound that is good too is the same. -/
theorem walkChain_good_unique {n m : Nat} {k : Slot} (hn : (walkChain steps n k).good = true)
    (hm : (walkChain steps m k).good = true) : walkChain steps n k = walkChain steps m k := by
  induction n generalizing m k with
  | zero => cases hn
  | succ n ih =>
    cases m with
    | zero => cases hm
    | succ m =>
      rcases walkChain_cases steps n k with ⟨h, -⟩ | ⟨h, p, hp, hstop⟩ | ⟨j, h⟩
      · rw [h] at hn; cases hn
      · rw [h, walkChain_stop m hp hstop]
      · rw [walkChain_linked n h] at hn ⊢
        rw [walkChain_linked m h] at hm ⊢
        rw [ih hn hm]

/-- The walk from a slot of a good chain is good, and the end of that chain. -/
theorem walkChain_suffix {n : Nat} {x : Slot} (hgood : (walkChain steps n k).good = true)
    (hx : x ∈ (walkChain steps n k).slots) :
    ∃ m, (walkChain steps m x).good = true ∧ (walkChain steps m x).slots <:+ (walkChain steps n k).slots := by
  induction n generalizing k with
  | zero => cases hgood
  | succ n ih =>
    by_cases hk : x = k
    · rw [hk]; exact ⟨n + 1, hgood, List.suffix_refl _⟩
    rcases walkChain_cases steps n k with ⟨h, -⟩ | ⟨h, -⟩ | ⟨j, h⟩
    · rw [h] at hgood; cases hgood
    · rw [h] at hx; exact absurd (List.mem_singleton.mp hx) hk
    · rw [walkChain_linked n h] at hgood hx ⊢
      obtain ⟨m, hm, hsuffix⟩ := ih hgood ((List.mem_cons.mp hx).resolve_left hk)
      exact ⟨m, hm, hsuffix.trans (List.suffix_cons ..)⟩

/-- A chain that came back to a slot would be a proper end of itself. -/
theorem walkChain_nodup {n : Nat} (hgood : (walkChain steps n k).good = true) : (walkChain steps n k).slots.Nodup := by
  induction n generalizing k with
  | zero => cases hgood
  | succ n ih =>
    rcases walkChain_cases steps n k with ⟨h, -⟩ | ⟨h, -⟩ | ⟨j, h⟩
    · rw [h] at hgood; cases hgood
    · rw [h]; exact List.nodup_singleton k
    · have hlinked := walkChain_linked n h
      have htail : (walkChain steps n j).good = true := by rw [hlinked] at hgood; exact hgood
      rw [hlinked]
      refine List.nodup_cons.mpr ⟨fun hk => ?_, ih htail⟩
      obtain ⟨m, hm, hsuffix⟩ := walkChain_suffix htail hk
      have hlength := hsuffix.length_le
      rw [walkChain_good_unique hm hgood, hlinked, List.length_cons] at hlength
      exact absurd hlength (Nat.not_succ_le_self _)

/-! ### Paths of linked slots (R139) -/

/-- A path of linked slots begins the walk, which goes on from its last slot. -/
theorem walkChain_path {path : List Slot} {last : Slot} (hpath : (path ++ [last]).IsChain (Linked steps))
    (hhead : (path ++ [last]).head? = some k) (m : Nat) : walkChain steps (path.length + m) k =
      ⟨path ++ (walkChain steps m last).slots, (walkChain steps m last).good⟩ := by
  induction path generalizing k with
  | nil => cases hhead; simp
  | cons x path ih =>
    cases hhead
    obtain ⟨j, hj⟩ : ∃ j, (path ++ [last]).head? = some j := by cases path <;> exact ⟨_, rfl⟩
    obtain ⟨rest, hrest⟩ : ∃ rest, path ++ [last] = j :: rest := by
      cases hp : path ++ [last] with
      | nil => rw [hp] at hj; cases hj
      | cons y rest => rw [hp] at hj; cases hj; exact ⟨rest, rfl⟩
    rw [List.cons_append, hrest] at hpath
    obtain ⟨hlink, htail⟩ := List.isChain_cons_cons.mp hpath
    rw [List.length_cons, Nat.succ_add, walkChain_linked _ hlink, ih (by rw [hrest]; exact htail) hj]
    rfl

end

theorem isChain_of_getElem? {R : Slot → Slot → Prop} {l : List Slot}
    (h : ∀ i a b, l[i]? = some a → l[i + 1]? = some b → R a b) : l.IsChain R := by
  refine List.isChain_iff_getElem.mpr fun i hi => ?_
  exact h i _ _ (List.getElem?_eq_getElem _) (List.getElem?_eq_getElem _)


/-! ### Hold estimates (R140) -/

theorem stepQuarters_eq (p : Step) : stepQuarters p =
    4 * p.settle + p.samples + 80 + if p.quantity = .capacitance ∨ p.quantity = .length then 200 else 0 := by
  simp [stepQuarters, isStepStep]

/-! ### Free run ids (R141) -/

theorem nextId_range (n : Nat) : 1 ≤ nextId n ∧ nextId n ≤ 255 := by
  unfold nextId; split <;> omega

/-- The counter goes round 1 to 255. -/
theorem nextId_iterate (a i : Nat) (ha : 1 ≤ a) (ha' : a ≤ 255) : nextId^[i] a = (a - 1 + i) % 255 + 1 := by
  induction i with
  | zero => simp only [Function.iterate_zero, id_eq]; omega
  | succ i ih =>
    rw [Function.iterate_succ_apply', ih]
    unfold nextId; split <;> omega

theorem freeId_range (used : List Nat) (n c : Nat) : 1 ≤ freeId used n c ∧ freeId used n c ≤ 255 := by
  induction n generalizing c with
  | zero => exact nextId_range c
  | succ n ih =>
    unfold freeId; split
    · exact ih _
    · exact nextId_range c

/-- An id is only used again where every id tried on the way is in use. -/
theorem used_of_freeId {used : List Nat} {n c : Nat} (h : freeId used n c ∈ used) {i : Nat} (hi : i ≤ n) :
    nextId^[i] (nextId c) ∈ used := by
  induction n generalizing c i with
  | zero => rw [Nat.le_zero.mp hi]; exact h
  | succ n ih =>
    unfold freeId at h
    split at h
    · next hused =>
      cases i with
      | zero => exact hused
      | succ i => exact ih h (Nat.le_of_succ_le_succ hi)
    · next hfree => exact absurd h hfree

/-- With fewer ids in use than there are, the id found is in use by no run. -/
theorem freeId_fresh {used : List Nat} (h : used.length < 255) (c : Nat) : freeId used 255 c ∉ used := by
  intro hmem
  obtain ⟨hlow, hhigh⟩ := nextId_range c
  have hall : (Finset.range 255).image (fun i => nextId^[i] (nextId c)) ⊆ used.toFinset := by
    intro x hx
    obtain ⟨i, hi, rfl⟩ := Finset.mem_image.mp hx
    exact List.mem_toFinset.mpr (used_of_freeId hmem (Finset.mem_range.mp hi).le)
  have hdistinct : ((Finset.range 255).image fun i => nextId^[i] (nextId c)).card = 255 := by
    rw [Finset.card_image_of_injOn, Finset.card_range]
    intro i hi j hj hij
    simp only [Finset.coe_range, Set.mem_Iio] at hi hj
    simp only [nextId_iterate _ _ hlow hhigh] at hij
    omega
  have hcard := Finset.card_le_card hall
  rw [hdistinct] at hcard
  have hlength := List.toFinset_card_le used
  omega

/-- Settles O52: the walk by what its next slot holds, and the search of a free id by the ids that it passes. -/
theorem chainsEstimatesAndIdsAreFormed : Obligations.ChainsEstimatesAndIdsAreFormed := by
  refine ⟨fun steps k => ?_, fun q hused => ?_⟩
  · intro c
    obtain ⟨rest, hrest⟩ := walkChain_head (steps := steps) 127 k
    refine ⟨by rw [show c.slots = k :: rest from hrest]; rfl, walkChain_length 128 k, fun h => ?_,
      fun i a b ha hb => ?_, fun h => ⟨walkChain_nodup h, (walkChain_good_iff 128 k).mp h⟩,
      fun last p hlast hp hstop => (walkChain_good_iff 128 k).mpr ⟨last, p, hlast, hp, hstop⟩,
      fun path last hhead hlast hlength hlinked => ?_, ?_⟩
    · rw [show c = ⟨[k], false⟩ from walkChain_empty 127 h]; exact ⟨rfl, rfl⟩
    · obtain ⟨hi, rfl⟩ := List.getElem?_eq_some_iff.mp hb
      obtain ⟨_, rfl⟩ := List.getElem?_eq_some_iff.mp ha
      exact List.isChain_iff_getElem.mp (walkChain_isChain 128 k) i hi
    · obtain ⟨body, rfl⟩ := List.getLast?_eq_some_iff.mp hlast
      obtain ⟨m, hm⟩ : ∃ m, 128 = body.length + (m + 1) := ⟨127 - body.length, by simp at hlength; omega⟩
      have hc : c = ⟨body ++ (walkChain steps (m + 1) last).slots, (walkChain steps (m + 1) last).good⟩ := by
        have hwalk := walkChain_path (isChain_of_getElem? hlinked) hhead (m + 1)
        rw [← hm] at hwalk; exact hwalk
      obtain ⟨tail, htail⟩ := walkChain_head (steps := steps) m last
      refine ⟨?_, fun h => ?_, fun p hp => ⟨fun hstop => ?_, fun hstop hend => ?_, fun j hstop hroom hnext => ?_⟩⟩
      · rw [hc, htail]; exact ⟨tail, by simp⟩
      · rw [hc, walkChain_empty m h]
      · rw [hc, walkChain_stop m hp hstop]
      · rcases hend with hfull | hnext
        · have hm0 : m = 0 := by simp at hfull; omega
          subst hm0
          cases hnext : p.next with
          | none => rw [hc, walkChain_end 0 hp hstop hnext]
          | some j => rw [hc, walkChain_linked 0 ⟨p, hp, hstop, hnext⟩]; rfl
        · rw [hc, walkChain_end m hp hstop hnext]
      · obtain ⟨n, rfl⟩ : ∃ n, m = n + 1 := ⟨m - 1, by simp at hroom; omega⟩
        obtain ⟨tail, htail⟩ := walkChain_head (steps := steps) n j
        rw [hc, walkChain_linked _ ⟨p, hp, hstop, hnext⟩, htail]
        exact ⟨tail, by simp⟩
    · have hquarters (j : Slot) : ((look steps j).map stepQuarters).getD 0 = (match look steps j with
          | some p => 4 * p.settle + p.samples + 80 +
              if p.quantity = .capacitance ∨ p.quantity = .length then 200 else 0
          | none => 0) := by
        cases look steps j with
        | none => rfl
        | some p => exact stepQuarters_eq p
      simp only [holdEstimate, ceilDiv, hquarters]
      rfl
  · obtain ⟨hlow, hhigh⟩ := freeId_range (idsInUse q) 255 q.counter
    exact ⟨hlow, hhigh, freeId_fresh (by omega) q.counter, fun h => if_neg h⟩

end Sys2Proof.Machine


/-! LOAD STEP: the refusals, the slot written, and the record read back (R137, R138, R176). -/

namespace Sys2Proof.Machine

/-! ### The slot (R138) -/

section
variable {num slot : Byte} {k : Slot} {rec : RawStep} {s : State} {p : Option Step}

/-- The runs whose chains hold a slot, the active run first (R138). -/
def slotUsers (s : State) (k : Slot) : List Run :=
  ((s.seq.active.map (·.run)).toList ++ s.seq.queue).filter fun r => decide (k ∈ (chainFrom s.seq.steps r.start).slots)

theorem slotUser_eq (s : State) (k : Slot) : slotUser s k = (slotUsers s k).head? :=
  (List.head?_filter ..).symm

theorem writeStep_used {r : Run} {rest : List Run} (h : slotUsers s k = r :: rest) : writeStep num k p s =
    respond 9 num .refusedState (stepBytes (look s.seq.steps k) ++ [byteOf r.id]) false s := by
  simp only [writeStep, slotUser_eq, h, List.head?_cons]; rfl

theorem writeStep_free (h : slotUsers s k = []) : writeStep num k p s =
    respond 9 num .done (stepBytes p) false (setSeq (fun q => { q with steps := put q.steps k p }) s) := by
  simp only [writeStep, slotUser_eq, h, List.head?_nil]; rfl

theorem loadStepRequest_outOfRange (h : 127 < slot.toNat) :
    loadStepRequest num slot rec s = respond 9 num .refusedRange [] false s := by
  rw [loadStepRequest, slotOperand_eq_none h]; rfl

theorem emptyStepRequest_outOfRange (h : 127 < slot.toNat) :
    emptyStepRequest num slot s = respond 9 num .refusedRange [] false s := by
  rw [emptyStepRequest, slotOperand_eq_none h]; rfl

theorem loadStepRequest_badRecord (hk : slot.toNat = k.val) (h : stepOperand rec = none) :
    loadStepRequest num slot rec s = respond 9 num .refusedRange (stepBytes (look s.seq.steps k)) false s := by
  simp only [loadStepRequest, slotOperand_eq_some hk, h]; rfl

theorem loadStepRequest_inRange {p : Step} (hk : slot.toNat = k.val) (h : stepOperand rec = some p) :
    loadStepRequest num slot rec s = writeStep num k (some p) s := by
  simp only [loadStepRequest, slotOperand_eq_some hk, h]

theorem emptyStepRequest_inRange (hk : slot.toNat = k.val) : emptyStepRequest num slot s = writeStep num k none s := by
  simp only [emptyStepRequest, slotOperand_eq_some hk]

end

/-! ### The record (R137, R176) -/

theorem wiresOperand_iff (b : Byte) (w : Wires) : wiresOperand b = some w ↔ b = wiresCode w := by
  unfold wiresOperand
  cases w <;> simp only [wiresCode] <;> split_ifs <;> simp_all

theorem quantityOperand_iff (b : Byte) (q : Quantity) : quantityOperand b = some q ↔ b = quantityCode q := by
  unfold quantityOperand
  cases q <;> simp only [quantityCode] <;> split_ifs <;> simp_all

theorem wiresOperand_isSome (b : Byte) : (∃ w, wiresOperand b = some w) ↔ b.toNat ≤ 2 := by
  simp only [wiresOperand_iff]
  constructor
  · rintro ⟨w, rfl⟩; cases w <;> decide
  · intro h
    have hcases : b = 0 ∨ b = 1 ∨ b = 2 := by bv_omega
    rcases hcases with h | h | h
    · exact ⟨.tipRing, h⟩
    · exact ⟨.tipGround, h⟩
    · exact ⟨.ringGround, h⟩

theorem quantityOperand_isSome (b : Byte) : (∃ q, quantityOperand b = some q) ↔ b.toNat ≤ 4 := by
  simp only [quantityOperand_iff]
  constructor
  · rintro ⟨q, rfl⟩; cases q <;> decide
  · intro h
    have hcases : b = 0 ∨ b = 1 ∨ b = 2 ∨ b = 3 ∨ b = 4 := by bv_omega
    rcases hcases with h | h | h | h | h
    · exact ⟨.foreignDc, h⟩
    · exact ⟨.foreignAc, h⟩
    · exact ⟨.resistance, h⟩
    · exact ⟨.capacitance, h⟩
    · exact ⟨.length, h⟩

/-- The limits and the next slot that a record carries; an option bit says of each whether it is there (R176). -/
def rawLow (r : RawStep) : Option Int := if r.options.getLsbD 4 then some r.low.toInt else none
def rawHigh (r : RawStep) : Option Int := if r.options.getLsbD 5 then some r.high.toInt else none
def rawNext (r : RawStep) : Option Slot := if r.options.getLsbD 6 then slotOperand r.next else none

/-- What makes a record of a quantity one that a slot can hold (R137, R138). -/
structure Storable (r : RawStep) (q : Quantity) : Prop where
  mark : r.mark = 1
  spare : r.options.getLsbD 7 = false
  settle : r.settle.toNat ≤ 2000
  fewest : 16 ≤ r.samples.toNat
  most : r.samples.toNat ≤ 4096
  low : limitInRange q (rawLow r) = true
  high : limitInRange q (rawHigh r) = true
  ordered : limitsOrdered (rawLow r) (rawHigh r) = true
  next : r.options.getLsbD 6 = true → (rawNext r).isSome = true
  goesOn : r.options.getLsbD 0 = true ∨ r.options.getLsbD 6 = true

/-- The step that a record is read as. -/
abbrev readStep (r : RawStep) (w : Wires) (q : Quantity) : Step :=
  ⟨w, q, r.settle.toNat, r.samples.toNat, rawLow r, rawHigh r, r.options.getLsbD 0, r.options.getLsbD 1,
    r.options.getLsbD 2, r.options.getLsbD 3, rawNext r⟩

theorem stepOperand_eq_some_iff (r : RawStep) (p : Step) : stepOperand r = some p ↔
    ∃ w q, wiresOperand r.wire = some w ∧ quantityOperand r.quantity = some q ∧ Storable r q ∧ readStep r w q = p := by
  unfold stepOperand
  cases wiresOperand r.wire with
  | none => simp
  | some w =>
    cases quantityOperand r.quantity with
    | none => simp
    | some q =>
      simp only [Option.some.injEq, exists_and_left, exists_eq_left']
      change (if _ then some (readStep r w q) else none) = some p ↔ _
      rw [Option.ite_none_right_eq_some, Option.some.injEq]
      refine and_congr_left' ?_
      simp only [Bool.and_eq_true, Bool.or_eq_true, Bool.not_eq_true', decide_eq_true_eq]
      constructor
      · rintro ⟨⟨⟨⟨⟨⟨⟨⟨⟨hmark, hspare⟩, hsettle⟩, hfewest⟩, hmost⟩, hlow⟩, hhigh⟩, hordered⟩, hnext⟩, hgoes⟩
        exact ⟨hmark, hspare, hsettle, hfewest, hmost, hlow, hhigh, hordered,
          fun h => hnext.resolve_left (by rw [h]; decide), hgoes⟩
      · intro h
        exact ⟨⟨⟨⟨⟨⟨⟨⟨⟨h.mark, h.spare⟩, h.settle⟩, h.fewest⟩, h.most⟩, h.low⟩, h.high⟩, h.ordered⟩,
          (Bool.eq_false_or_eq_true _).symm.imp_right h.next⟩, h.goesOn⟩

theorem rawNext_isSome (r : RawStep) : (r.options.getLsbD 6 = true → (rawNext r).isSome = true) ↔
    (r.options.getLsbD 6 = true → r.next.toNat ≤ 127) := by
  refine forall_congr' fun h => ?_
  rw [rawNext, if_pos h]
  unfold slotOperand; split <;> simp <;> omega

theorem limitInRange_some (q : Quantity) (v : Int) :
    limitInRange q (some v) = true ↔ (quantityRange q).1 ≤ v ∧ v ≤ (quantityRange q).2 := by
  simp [limitInRange]

theorem rawLow_inRange (r : RawStep) (q : Quantity) : limitInRange q (rawLow r) = true ↔
    (r.options.getLsbD 4 = true → (quantityRange q).1 ≤ r.low.toInt ∧ r.low.toInt ≤ (quantityRange q).2) := by
  rw [rawLow, ← limitInRange_some]; split <;> simp_all [limitInRange]

theorem rawHigh_inRange (r : RawStep) (q : Quantity) : limitInRange q (rawHigh r) = true ↔
    (r.options.getLsbD 5 = true → (quantityRange q).1 ≤ r.high.toInt ∧ r.high.toInt ≤ (quantityRange q).2) := by
  rw [rawHigh, ← limitInRange_some]; split <;> simp_all [limitInRange]

theorem limits_ordered (r : RawStep) : limitsOrdered (rawLow r) (rawHigh r) = true ↔
    (r.options.getLsbD 4 = true → r.options.getLsbD 5 = true → r.low.toInt ≤ r.high.toInt) := by
  unfold rawLow rawHigh; split_ifs <;> simp_all [limitsOrdered]

/-! ### The record read back (R138, R175) -/

/-- The option byte that the bits of a record without the spare bit spell (R176). -/
theorem optionByte (o : Byte) (h : o.getLsbD 7 = false) :
    byteOf ((if o.getLsbD 0 then 1 else 0) + (if o.getLsbD 1 then 2 else 0) + (if o.getLsbD 2 then 4 else 0) +
      (if o.getLsbD 3 then 8 else 0) + (if o.getLsbD 4 then 16 else 0) + (if o.getLsbD 5 then 32 else 0) +
      (if o.getLsbD 6 then 64 else 0)) = o := by
  revert o; decide

theorem limitBytes (b : Bool) (x : BitVec 32) :
    ((if b then some x.toInt else none).map fourSigned).getD absentFour = bytes32 (if b then x else BitVec.allOnes 32) := by
  cases b with
  | false => simp only [Bool.false_eq_true, if_false]; rfl
  | true => simp [fourSigned_eq]

theorem nextByte (r : RawStep) (h : r.options.getLsbD 6 = true → (rawNext r).isSome = true) :
    oneOr ((rawNext r).map (·.val)) = [if r.options.getLsbD 6 then r.next else 255] := by
  have hrange := (rawNext_isSome r).mp h
  cases hbit : r.options.getLsbD 6 with
  | false => simp only [rawNext, hbit]; rfl
  | true =>
    have hslot : rawNext r = some ⟨r.next.toNat, by have := hrange hbit; omega⟩ := by
      rw [rawNext, if_pos hbit]; exact slotOperand_eq_some rfl
    rw [hslot]
    simp [oneOr, byteOf]

theorem stepBytes_readStep {r : RawStep} {w : Wires} {q : Quantity} (hw : r.wire = wiresCode w)
    (hq : r.quantity = quantityCode q) (h : Storable r q) : stepBytes (some (readStep r w q)) =
      [1, r.wire, r.quantity, r.options] ++ bytes16 r.settle ++ bytes16 r.samples ++
        [if r.options.getLsbD 6 then r.next else 255] ++
        bytes32 (if r.options.getLsbD 4 then r.low else BitVec.allOnes 32) ++
        bytes32 (if r.options.getLsbD 5 then r.high else BitVec.allOnes 32) := by
  have hlow : (rawLow r).isSome = r.options.getLsbD 4 := by unfold rawLow; split <;> simp_all
  have hhigh : (rawHigh r).isSome = r.options.getLsbD 5 := by unfold rawHigh; split <;> simp_all
  have hnext : (rawNext r).isSome = r.options.getLsbD 6 := by
    cases hbit : r.options.getLsbD 6 with
    | false => simp only [rawNext, hbit]; rfl
    | true => exact h.next hbit
  have hoptions := optionByte r.options h.spare
  rw [← hlow, ← hhigh, ← hnext] at hoptions
  have htwo (x : BitVec 16) : two x.toNat = bytes16 x := by rw [two_eq, BitVec.ofNat_toNat, BitVec.setWidth_eq]
  have hlast := nextByte r h.next
  have hlows : ((rawLow r).map fourSigned).getD absentFour = _ := limitBytes _ _
  have hhighs : ((rawHigh r).map fourSigned).getD absentFour = _ := limitBytes _ _
  simp only [stepBytes, ← hw, ← hq, htwo, hlast, hlows, hhighs]
  rw [hoptions]

/-- Settles O57: the requests by the runs whose chains hold the slot, the records by the fields that a step is read from. -/
theorem loadStepWritesAFreeSlot : Obligations.LoadStepWritesAFreeSlot := by
  refine ⟨fun num slot rec s htakes => ?_, fun r => ?_⟩
  · intro s0 answers
    refine ⟨fun h => ⟨exec_request htakes (loadStepRequest_outOfRange h), exec_request htakes (emptyStepRequest_outOfRange h)⟩,
      fun k hk => ?_⟩
    have hempty {t : State} (h : writeStep num k none s = t) : exec (.loadStepEmpty num slot) s = .next (settle t) :=
      exec_request htakes ((emptyStepRequest_inRange hk).trans h)
    have hload {p : Step} {t : State} (hp : stepOperand rec = some p) (h : writeStep num k (some p) s = t) :
        exec (.loadStep num slot rec) s = .next (settle t) :=
      exec_request htakes ((loadStepRequest_inRange hk hp).trans h)
    intro users written before
    refine ⟨fun h => exec_request htakes (loadStepRequest_badRecord hk h), fun r rest hused => ⟨?_, fun hgood => ?_⟩,
      fun hfree => ⟨?_, fun p hp => ?_⟩⟩
    · exact hempty (writeStep_used hused)
    · obtain ⟨p, hp⟩ := Option.ne_none_iff_exists'.mp hgood
      exact hload hp (writeStep_used hused)
    · exact hempty (writeStep_free hfree)
    · exact hload hp (writeStep_free hfree)
  · intro o low high within
    have hwithin {q : Quantity} (hq : quantityOperand r.quantity = some q) (x : BitVec 32) :
        within x ↔ (quantityRange q).1 ≤ x.toInt ∧ x.toInt ≤ (quantityRange q).2 := by
      have hcode := (quantityOperand_iff _ _).mp hq
      simp only [within, hcode]
      cases q <;> exact Iff.rfl
    refine ⟨?_, fun p hp => ?_⟩
    · constructor
      · rintro ⟨p, hp⟩
        obtain ⟨w, q, hw, hq, h, -⟩ := (stepOperand_eq_some_iff r p).mp hp
        exact ⟨h.mark, (wiresOperand_isSome _).mp ⟨w, hw⟩, (quantityOperand_isSome _).mp ⟨q, hq⟩, h.spare, h.settle,
          h.fewest, h.most, (rawNext_isSome r).mp h.next, h.goesOn,
          fun hb => (hwithin hq _).mpr ((rawLow_inRange r q).mp h.low hb),
          fun hb => (hwithin hq _).mpr ((rawHigh_inRange r q).mp h.high hb), (limits_ordered r).mp h.ordered⟩
      · rintro ⟨hmark, hwire, hquantity, hspare, hsettle, hfewest, hmost, hnext, hgoes, hlow, hhigh, hordered⟩
        obtain ⟨w, hw⟩ := (wiresOperand_isSome _).mpr hwire
        obtain ⟨q, hq⟩ := (quantityOperand_isSome _).mpr hquantity
        exact ⟨readStep r w q, (stepOperand_eq_some_iff r _).mpr ⟨w, q, hw, hq,
          ⟨hmark, hspare, hsettle, hfewest, hmost, (rawLow_inRange r q).mpr fun hb => (hwithin hq _).mp (hlow hb),
            (rawHigh_inRange r q).mpr fun hb => (hwithin hq _).mp (hhigh hb), (limits_ordered r).mpr hordered,
            (rawNext_isSome r).mpr hnext, hgoes⟩, rfl⟩⟩
    · obtain ⟨w, q, hw, hq, h, rfl⟩ := (stepOperand_eq_some_iff r p).mp hp
      exact stepBytes_readStep ((wiresOperand_iff _ _).mp hw) ((quantityOperand_iff _ _).mp hq) h

end Sys2Proof.Machine


/-! The ids of the runs in the run queue, the active run and the fault slots (R141): the law of ids with some records in hand,
between two places. -/

namespace Sys2Proof.Machine

/-! ### The ids in their places -/

/-- The id of a record that may be there. -/
def oneId (x : Option Nat) : Multiset Nat := x.elim 0 fun id => {id}

/-- The ids of the fault slots. -/
def faultIds (t : Table (Option Run) 12) : Multiset Nat := ∑ l, oneId ((look t l).map (·.id))

/-- The ids in use, by the places of their records (R141). -/
def rosterOf (q : Sequencer) : Multiset Nat :=
  (q.queue.map (·.id) : List Nat) + oneId (q.active.map (·.run.id)) + faultIds q.faults

theorem coe_filterMap {α : Type} (f : α → Option Nat) (xs : List α) :
    ((xs.filterMap f : List Nat) : Multiset Nat) = (xs.map fun x => oneId (f x)).sum := by
  induction xs with
  | nil => rfl
  | cons x xs ih =>
    rw [List.map_cons, List.sum_cons, ← ih]
    cases hx : f x with
    | none => rw [List.filterMap_cons_none hx]; exact (zero_add _).symm
    | some id => rw [List.filterMap_cons_some hx]; rfl

theorem coe_idsInUse (q : Sequencer) : ((idsInUse q : List Nat) : Multiset Nat) = rosterOf q := by
  have hactive : (((q.active.map (·.run.id)).toList : List Nat) : Multiset Nat) = oneId (q.active.map (·.run.id)) := by
    cases q.active <;> rfl
  rw [idsInUse, ← Multiset.coe_add, ← Multiset.coe_add, hactive, coe_filterMap, rosterOf, faultIds, Fin.sum_univ_def]
  rfl

theorem faultIds_put (t : Table (Option Run) 12) (k : Line) (x : Option Run) :
    faultIds (put t k x) ≤ oneId (x.map (·.id)) + faultIds t := by
  have hone : oneId (x.map (·.id)) = ∑ l : Line, if k = l then oneId (x.map (·.id)) else 0 := by
    rw [Finset.sum_ite_eq, if_pos (Finset.mem_univ k)]
  rw [hone, faultIds, faultIds, ← Finset.sum_add_distrib]
  refine Finset.sum_le_sum fun l _ => ?_
  rw [look_put]; split
  · exact Multiset.le_add_right _ _
  · exact Multiset.le_add_left _ _

/-- A record taken out of its fault slot. -/
theorem faultIds_take (t : Table (Option Run) 12) (k : Line) :
    oneId ((look t k).map (·.id)) + faultIds (put t k none) = faultIds t := by
  have hone : oneId ((look t k).map (·.id)) = ∑ l : Line, if k = l then oneId ((look t k).map (·.id)) else 0 := by
    rw [Finset.sum_ite_eq, if_pos (Finset.mem_univ k)]
  rw [hone, faultIds, faultIds, ← Finset.sum_add_distrib]
  refine Finset.sum_congr rfl fun l _ => ?_
  rw [look_put]; split
  · next h => rw [h]; exact add_zero _
  · exact zero_add _

theorem faultIds_discard (t : Table (Option Run) 12) (k : Line) : faultIds (put t k none) ≤ faultIds t := by
  rw [← faultIds_take t k]; exact Multiset.le_add_left _ _

/-! ### The law, with some records in hand -/

/-- No id stands twice, in a place or in hand, each lies in 1 to 255, and the run queue is within its bound (R141, R142). -/
structure Enrolled (m : Multiset Nat) (s : State) : Prop where
  once : (m + rosterOf s.seq).Nodup
  range : ∀ id ∈ m + rosterOf s.seq, 1 ≤ id ∧ id ≤ 255
  room : s.seq.queue.length ≤ 16

theorem enrolled_of_sound {s : State} (hruns : RunsSound s) (hids : IdsSound s) : Enrolled 0 s := by
  obtain ⟨honce, hrange⟩ := hids
  refine ⟨?_, fun id hid => hrange id ?_, hruns.1⟩
  · rw [zero_add, ← coe_idsInUse]; exact honce
  · rw [zero_add, ← coe_idsInUse] at hid; exact hid

theorem Enrolled.sound {s : State} (h : Enrolled 0 s) : IdsSound s := by
  obtain ⟨honce, hrange, -⟩ := h
  rw [zero_add, ← coe_idsInUse] at honce hrange
  exact ⟨honce, hrange⟩

section
variable {m n : Multiset Nat} {t u : State}

/-- Records that go from hand to a place, from a place to hand, or out of both. -/
theorem Enrolled.moves (h : Enrolled m t) (hids : n + rosterOf u.seq ≤ m + rosterOf t.seq)
    (hroom : u.seq.queue.length ≤ 16) : Enrolled n u :=
  ⟨Multiset.nodup_of_le hids h.once, fun id hid => h.range id (Multiset.mem_of_le hids hid), hroom⟩

theorem Enrolled.aside (h : Enrolled m t) (hu : u.seq = t.seq) : Enrolled m u :=
  h.moves (by rw [hu]) (by rw [hu]; exact h.room)

/-- A change of the sequencer that leaves each record in its place. -/
theorem enrolled_seq (f : Sequencer → Sequencer) (h : Enrolled m t) (hqueue : (f t.seq).queue = t.seq.queue)
    (hactive : (f t.seq).active.map (·.run.id) = t.seq.active.map (·.run.id))
    (hfaults : (f t.seq).faults = t.seq.faults) : Enrolled m (setSeq f t) :=
  h.moves (by rw [setSeq_seq, rosterOf, rosterOf, hqueue, hactive, hfaults])
    (by rw [setSeq_seq, hqueue]; exact h.room)

theorem enrolled_claims (f : Claims → Claims) (h : Enrolled m t) : Enrolled m (setClaims f t) := h.aside rfl
theorem enrolled_meas (f : Measurement → Measurement) (h : Enrolled m t) : Enrolled m (setMeas f t) := h.aside rfl
theorem enrolled_setLine (l : Line) (f : LineRec → LineRec) (h : Enrolled m t) : Enrolled m (setLine l f t) := h.aside rfl
theorem enrolled_refreshTests (h : Enrolled m t) : Enrolled m (refreshTests t) := h.aside rfl
theorem enrolled_setHazard (l : Line) (b : Bool) (h : Enrolled m t) : Enrolled m (setHazard l b t) := h.aside rfl
theorem enrolled_drive (x : Stimulus) (h : Enrolled m t) : Enrolled m (drive x t) := h.aside rfl

theorem enrolled_queueReport (body : ReportBody) (h : Enrolled m t) : Enrolled m (queueReport body t) :=
  h.aside (queueReport_frame body t).1.seq

theorem enrolled_askNotice (a : Ask) (h : Enrolled m t) : Enrolled m (askNotice a t) := h.aside (askNotice_seq a t)

theorem enrolled_endRecord (r : Run) (o : RunOutcome) (k : Slot) (h : Enrolled m t) : Enrolled m (endRecord r o k t) := by
  have hseq := endRecord_seq r o k t
  exact h.moves (by rw [hseq]; exact le_rfl) (by rw [hseq]; exact h.room)

theorem enrolled_disconnect (h : Enrolled m t) : Enrolled m (disconnect t) := h.aside (disconnect_runs t).1

theorem enrolled_decideHold (o : RunOutcome) (h : Enrolled m t) : Enrolled m (decideHold o t) :=
  h.aside (decideHold_seq o t).1

/-! ### Records taken in hand -/

/-- The record of the active run is let go, or taken in hand. -/
theorem enrolled_clearActive (h : Enrolled m t) : Enrolled m (clearActive t) := by
  refine h.moves (add_le_add le_rfl ?_) h.room
  exact add_le_add (add_le_add le_rfl (Multiset.zero_le _)) le_rfl

theorem enrolled_takeActive {id : Nat} (ha : t.seq.active.map (·.run.id) = some id) (h : Enrolled 0 t) :
    Enrolled {id} (clearActive t) := by
  refine h.moves (le_of_eq ?_) h.room
  rw [rosterOf, rosterOf, ha]
  change ({id} : Multiset Nat) + (_ + 0 + _) = 0 + (_ + {id} + _)
  rw [clearActive, setSeq_seq]
  abel

/-- Runs taken out of the queue. -/
theorem enrolled_fewerQueued (f : List Run → List Run) (hf : (f t.seq.queue).Sublist t.seq.queue) (h : Enrolled m t) :
    Enrolled m (setSeq (fun q => { q with queue := f q.queue }) t) := by
  refine h.moves (add_le_add le_rfl ?_) (hf.length_le.trans h.room)
  exact add_le_add (add_le_add (Multiset.coe_le.mpr (hf.map _).subperm) le_rfl) le_rfl

/-- The head of the queue taken in hand. -/
theorem enrolled_takeHead {r : Run} {rest : List Run} (hq : t.seq.queue = r :: rest) (h : Enrolled 0 t) :
    Enrolled {r.id} (setSeq (fun q => { q with queue := rest }) t) := by
  refine h.moves (le_of_eq ?_) ?_
  · rw [setSeq_seq, rosterOf, rosterOf, hq, List.map_cons, ← Multiset.cons_coe, ← Multiset.singleton_add]
    abel
  · have hroom := h.room
    rw [hq] at hroom
    exact (Nat.le_succ _).trans hroom

/-- A queued run taken in hand by its id. -/
theorem enrolled_takeQueued {r : Run} (hr : r ∈ t.seq.queue) (h : Enrolled 0 t) :
    Enrolled {r.id} (setSeq (fun q => { q with queue := withoutRun r.id q.queue }) t) := by
  have hsub : (withoutRun r.id t.seq.queue).Sublist t.seq.queue := List.filter_sublist
  have hgone : r.id ∉ ((withoutRun r.id t.seq.queue).map (·.id) : Multiset Nat) := by
    simp [withoutRun]
  have hqueue : r.id ::ₘ ((withoutRun r.id t.seq.queue).map (·.id) : List Nat) ≤
      ((t.seq.queue.map (·.id) : List Nat) : Multiset Nat) :=
    (Multiset.cons_le_of_notMem hgone).mpr ⟨Multiset.mem_coe.mpr (List.mem_map_of_mem hr),
      Multiset.coe_le.mpr (hsub.map _).subperm⟩
  refine h.moves ?_ (hsub.length_le.trans h.room)
  rw [setSeq_seq, rosterOf, rosterOf, zero_add, ← add_assoc, ← add_assoc, Multiset.singleton_add]
  exact add_le_add (add_le_add hqueue le_rfl) le_rfl

theorem enrolled_discardFault (l : Line) (h : Enrolled m t) : Enrolled m (discardFault l t) :=
  h.moves (add_le_add le_rfl (add_le_add le_rfl (faultIds_discard _ _))) h.room

theorem enrolled_takeFault {l : Line} {r : Run} (hr : look t.seq.faults l = some r) (h : Enrolled 0 t) :
    Enrolled {r.id} (discardFault l t) := by
  refine h.moves (le_of_eq ?_) h.room
  have hfaults := faultIds_take t.seq.faults l
  rw [hr] at hfaults
  rw [zero_add, rosterOf, rosterOf, ← hfaults]
  change {r.id} + (_ + _ + _) = _ + _ + ({r.id} + _)
  rw [discardFault, setSeq_seq]
  abel

/-- A fresh id taken (R141). -/
theorem enrolled_takeId (h : Enrolled 0 t) : Enrolled {assignedId t.seq} (takeId t) := by
  have hlength : (idsInUse t.seq).length ≤ 29 := by
    have hroom := h.room
    have hfaults : ((indices 12).filterMap fun l => (look t.seq.faults l).map (·.id)).length ≤ 12 :=
      (List.length_filterMap_le _ _).trans (by simp [indices])
    have hactive : (t.seq.active.map (·.run.id)).toList.length ≤ 1 := by cases t.seq.active <;> simp
    rw [idsInUse, List.length_append, List.length_append, List.length_map]
    omega
  obtain ⟨hlow, hhigh⟩ := freeId_range (idsInUse t.seq) 255 t.seq.counter
  have hfresh : assignedId t.seq ∉ rosterOf t.seq := by
    rw [← coe_idsInUse]
    exact freeId_fresh (by omega) t.seq.counter
  have honce := h.once
  have hrange := h.range
  rw [zero_add] at honce hrange
  refine ⟨?_, fun id hid => ?_, h.room⟩
  · exact Multiset.nodup_cons.mpr ⟨hfresh, honce⟩
  · rcases Multiset.mem_cons.mp (by rwa [Multiset.singleton_add] at hid) with rfl | hid
    · exact ⟨hlow, hhigh⟩
    · exact hrange id hid

/-! ### Records put in a place -/

/-- The active run changed, its record with its id kept. -/
theorem enrolled_setActive {a b : Active} (hb : b.run.id = a.run.id)
    (ha : t.seq.active.map (·.run.id) = some a.run.id) (h : Enrolled m t) : Enrolled m (setActive (fun _ => b) t) := by
  refine enrolled_seq _ h rfl ?_ rfl
  rw [ha, ← hb]
  cases hactive : t.seq.active with
  | none => rw [hactive] at ha; cases ha
  | some c => rfl

/-- A change of the active run that keeps the record of every run. -/
theorem enrolled_alterActive (f : Active → Active) (hf : ∀ a, (f a).run = a.run) (h : Enrolled m t) :
    Enrolled m (setActive f t) := by
  refine enrolled_seq _ h rfl ?_ rfl
  cases t.seq.active with
  | none => rfl
  | some a => exact congrArg (fun r : Run => some r.id) (hf a)

/-- A record in hand made active. -/
theorem enrolled_makeActive (a : Active) (h : Enrolled {a.run.id} t) :
    Enrolled 0 (setSeq (fun q => { q with active := some a }) t) := by
  refine h.moves ?_ h.room
  refine Multiset.le_iff_exists_add.mpr ⟨oneId (t.seq.active.map (·.run.id)), ?_⟩
  change ({a.run.id} : Multiset Nat) + (_ + _ + _) = 0 + (_ + {a.run.id} + _) + _
  rw [setSeq_seq]
  abel

theorem coe_placeFront (q : List Run) (r : Run) :
    (((placeFront q r).map (·.id) : List Nat) : Multiset Nat) = r.id ::ₘ (q.map (·.id) : List Nat) := by
  have hperm : (placeFront q r).Perm (r :: q) := by
    have hmiddle := List.perm_middle (a := r) (l₁ := q.takeWhile isTriggered) (l₂ := q.dropWhile isTriggered)
    rwa [List.takeWhile_append_dropWhile] at hmiddle
  exact Multiset.coe_eq_coe.mpr (hperm.map _)

/-- A record in hand placed in the queue; the record that it displaces is let go (R142). -/
theorem enrolled_enterFront (r : Run) (h : Enrolled (r.id ::ₘ m) t) : Enrolled m (enterFront r t) := by
  have hplaced : Enrolled m (setSeq (fun q => { q with queue := placeFront (roomIn q.queue) r }) t) := by
    refine h.moves ?_ (roomIn_length _ h.room r)
    have hqueue : (((roomIn t.seq.queue).map (·.id) : List Nat) : Multiset Nat) ≤ (t.seq.queue.map (·.id) : List Nat) :=
      Multiset.coe_le.mpr ((roomIn_sublist _).map _).subperm
    rw [setSeq_seq, rosterOf, rosterOf, coe_placeFront, Multiset.cons_add, Multiset.cons_add, Multiset.cons_add,
      Multiset.add_cons]
    exact Multiset.cons_le_cons _ (add_le_add le_rfl (add_le_add (add_le_add hqueue le_rfl) le_rfl))
  unfold enterFront
  refine enrolled_refreshTests ?_
  split
  · exact enrolled_endRecord _ _ _ hplaced
  · exact hplaced

/-- A record in hand placed at the tail of a queue with room. -/
theorem enrolled_enterTail (r : Run) (hroom : t.seq.queue.length < 16) (h : Enrolled {r.id} t) :
    Enrolled 0 (enterTail r t) := by
  refine enrolled_refreshTests (h.moves (le_of_eq ?_) ?_)
  · rw [setSeq_seq, rosterOf, rosterOf, List.map_append, ← Multiset.coe_add]
    change (0 : Multiset Nat) + (_ + {r.id} + _ + _) = {r.id} + (_ + _ + _)
    abel
  · rw [setSeq_seq, List.length_append]
    exact hroom

/-- A record in hand put into its line's fault slot; one that it takes the place of is let go (R151). -/
theorem enrolled_faultRun (r : Run) (k : Slot) (h : Enrolled {r.id} t) : Enrolled 0 (faultRun r k t) := by
  refine enrolled_endRecord _ _ _ (enrolled_decideHold _ (h.moves ?_ h.room))
  have hput := faultIds_put t.seq.faults r.line (some { r with status := .faultedHazard, resume := none })
  change 0 + (_ + _ + faultIds (put t.seq.faults r.line _)) ≤ {r.id} + (_ + _ + _)
  rw [zero_add]
  refine (add_le_add le_rfl hput).trans (le_of_eq ?_)
  rw [setSeq_seq]
  change _ + _ + ({r.id} + _) = _
  abel

end

end Sys2Proof.Machine


/-! The functions of the machine that the test sequencer does not hear of: its run records, fault slots and timers stand. -/

namespace Sys2Proof.Machine

section
variable (s : State)

/-! ### Reports, references, notices and shares -/

@[simp] theorem seq_queueReport (body : ReportBody) : (queueReport body s).seq = s.seq := (queueReport_frame body s).1.seq
@[simp] theorem seq_releaseEntries (es : List Entry) : (releaseEntries es s).seq = s.seq := (releaseEntries_frame es s).1.seq
@[simp] theorem seq_releaseChain (cells : List CellNo) : (releaseChain cells s).seq = s.seq := (releaseChain_frame cells s).1.seq
@[simp] theorem seq_respond (code num : Byte) (a : Answer) (data : List Byte) (w : Bool) :
    (respond code num a data w s).seq = s.seq := (respond_frame code num a data w s).1.seq
@[simp] theorem seq_settle : (settle s).seq = s.seq := (undisturbed_settle s).seq
@[simp] theorem seq_recompute : (recompute s).seq = s.seq := (recompute_rest s).2.1
@[simp] theorem seq_takeRiseCheck : (takeRiseCheck s).seq = s.seq := (takeRiseCheck_frame s).2.1
@[simp] theorem seq_setPeer (k : StationNo) (f : Peer → Peer) : (setPeer k f s).seq = s.seq := rfl

@[simp] theorem seq_startHead : (startHead s).seq = s.seq := by
  unfold startHead; dsimp only; split
  · split <;> rfl
  · rfl

theorem seq_setCondition (c : BusCondition) : (setCondition c s).seq = s.seq := by
  unfold setCondition; dsimp only; split <;> simp

theorem seq_countNotice : (countNotice s).seq = s.seq := by
  unfold countNotice; split
  · rfl
  · exact seq_setCondition _ _

theorem seq_reportDuplicate (g : GoodNotice) : (reportDuplicate g s).seq = s.seq := by
  unfold reportDuplicate; split <;> simp

theorem seq_takeNoticePeriod : (takeNoticePeriod s).seq = s.seq := by
  have hdemands (t : State) : (updateDemands t).seq = t.seq := rfl
  unfold takeNoticePeriod noticePeriodWork askStatus advertise
  rw [askNotice_seq, seq_setPeer, seq_recompute, seq_setPeer, hdemands, setShare_seq]

/-! ### Receptions and transmissions -/

@[simp] theorem seq_countDrop (l : Line) : (countDrop l s).seq = s.seq := rfl
@[simp] theorem seq_countFlood : (countFlood s).seq = s.seq := rfl
@[simp] theorem seq_countMalformed : (countMalformed s).seq = s.seq := rfl
@[simp] theorem seq_countUnmapped : (countUnmapped s).seq = s.seq := rfl
@[simp] theorem seq_setLineRx (l : Line) (r : LineRx) : (setLineRx l r s).seq = s.seq := rfl
@[simp] theorem seq_setUplinkRx (r : UplinkRx) : (setUplinkRx r s).seq = s.seq := rfl

@[simp] theorem seq_dropLineRx (l : Line) : (dropLineRx l s).seq = s.seq := by
  unfold dropLineRx; split <;> simp

@[simp] theorem seq_dropDownstream (r x : UplinkRx) : (dropDownstream r x s).seq = s.seq := by
  unfold dropDownstream; split <;> simp

theorem seq_takeHeader (header : List Byte) : (takeHeader header s).seq = s.seq := by
  have hclassify (tag : Nat) (kind : Byte) (n : Nat) : (classify tag kind n s).seq = s.seq := by
    unfold classify; split_ifs
    · simp
    · simp
    · simp
    · simp
    · split <;> simp
    · simp
  unfold takeHeader; split
  · exact hclassify _ _ _
  · exact hclassify _ _ _
  · rfl

theorem seq_admitFirst (p : Port) (b : Byte) : (admitFirst p b s).seq = s.seq := by
  cases p with
  | line l =>
    simp only [admitFirst, admitLine]; split
    · rfl
    · split
      · split <;> simp
      · simp
  | uplink =>
    simp only [admitFirst, admitUplink]; split
    · split <;> simp
    · simp
    · split <;> simp
    · simp
    · simp
    · rfl

theorem seq_growFrame (p : Port) (bytes : List Byte) : (growFrame p bytes s).seq = s.seq := by
  cases p with
  | line l =>
    simp only [growFrame, growLine]; split
    · split
      · split <;> simp
      · simp
    · rfl
  | uplink =>
    simp only [growFrame, growUplink]; split
    · split <;> simp
    · split <;> simp
    · simp
    · simp
    · simp
    · rfl

@[simp] theorem seq_checkPort (l : Line) : (checkPort l s).seq = s.seq := by
  have hread : (readReady l s).seq = s.seq := by unfold readReady; split <;> rfl
  have hlook (t : State) : (lookDown l t).seq = t.seq := seq_releaseEntries _ _
  have htake (t : State) : (takeDown l t).seq = t.seq := by unfold takeDown; split <;> rfl
  unfold checkPort takeIfReady; split
  · rw [htake, hlook, hread]
  · exact hread

theorem seq_checkPorts (ls : List Line) : (ls.foldl (fun s l => checkPort l s) s).seq = s.seq := by
  induction ls generalizing s with
  | nil => rfl
  | cons l ls ih => exact (ih (checkPort l s)).trans (seq_checkPort s l)

theorem seq_endFrame (p : Port) (rest : List Byte) : (endFrame p rest s).seq = s.seq := by
  cases p with
  | line l =>
    simp only [endFrame, endLine]; split
    · simp
    · simp
    · split <;> simp
  | uplink =>
    simp only [endFrame, endUplink]; split
    · simp
    · simp
    · rfl
    · simp
    · simp
    · split <;> simp
    · split
      · rw [seq_checkPorts]; rfl
      · simp

theorem seq_abortFrame (p : Port) : (abortFrame p s).seq = s.seq := by
  cases p with
  | line l => simp only [abortFrame, abortLine]; split <;> simp
  | uplink => simp only [abortFrame, abortUplink]; split <;> simp

theorem seq_completeDown (l : Line) : (completeDown l s).seq = s.seq := by
  unfold completeDown; split <;> simp

theorem seq_takeUnderflow (p : Pacer) : (takeUnderflow p s).seq = s.seq := by
  have hopportunity (t : State) : (startOpportunity t).seq = t.seq := (undisturbed_startOpportunity t).seq
  unfold takeUnderflow; split
  · split <;> rfl
  · split
    · unfold underflowStation; dsimp only; split <;> simp [hopportunity]
    · rfl

theorem seq_completeUp : (completeUp s).seq = s.seq := by
  have hwait (f : UplinkFrame) (t : State) : (endWaitFor f t).seq = t.seq := by unfold endWaitFor; split <;> rfl
  have hopportunity (t : State) : (startOpportunity t).seq = t.seq := (undisturbed_startOpportunity t).seq
  unfold completeUp; split
  · rfl
  · dsimp only; split <;> simp [hwait, hopportunity]

/-! ### Supervision and service states -/

theorem seq_setBarred (l : Line) (b : Bool) : (setBarred l b s).seq = s.seq := (rederive_runs l _).1

@[simp] theorem seq_followTimer (l : Line) : (followTimer l s).seq = s.seq := by rw [followTimer_eq, setSup_seq]

@[simp] theorem seq_setSync (l : Line) (x : Sync) : (setSync l x s).seq = s.seq := by
  unfold setSync; dsimp only; split
  · rfl
  · rw [seq_followTimer, (rederive_runs l _).1]; split <;> rfl

theorem seq_debounceFlags (l : Line) (word : BitVec 48) : (debounceFlags l word s).seq = s.seq := by
  have halarm (a : Alarm) (old new : Bool) (t : State) : (alarmIfChanged l a old new t).seq = t.seq := by
    unfold alarmIfChanged; split
    · rfl
    · exact seq_queueReport _ _
  unfold debounceFlags
  simp [halarm]

theorem seq_usePosition (l : Line) (word : BitVec 48) : (usePosition l word s).seq = s.seq := by
  have hdecide (t : State) : (decideSync l t).seq = t.seq := by
    unfold decideSync; dsimp only; split
    · simp
    · split <;> simp
  unfold usePosition useReport; split
  · rfl
  · split
    · rfl
    · rw [hdecide, seq_debounceFlags, setLine_seq, setSup_seq]

theorem seq_closePosition (l : Line) : (closePosition l s).1.seq = s.seq := by
  have hend (d : Second) (t : State) : (endSecond l d t).1.seq = t.seq := by
    unfold endSecond; dsimp only; split
    · exact seq_setSync _ _ _
    · rfl
  unfold closePosition; dsimp only; split
  · rfl
  · rw [hend, setSup_seq]

theorem seq_takePosition (l : Line) (word : BitVec 48) : (takePosition l word s).1.seq = s.seq := by
  unfold takePosition; dsimp only; split
  · rfl
  · rw [seq_closePosition, seq_usePosition, setSup_seq]

theorem seq_takeMarker (l : Line) (position : Nat) : (takeMarker l position s).seq = s.seq := by
  have hconfirm (b : Bool) : (confirm l b position s).seq = s.seq := by
    unfold confirm; dsimp only; split
    · rfl
    · split
      · rfl
      · rw [seq_queueReport, setSup_seq]
  unfold takeMarker; split
  · split
    · rfl
    · rfl
    · exact hconfirm _
  · rfl

/-! ### The claim unit with no indication to the sequencer (R129 to R135) -/

theorem seq_followTurn : (followTurn s).seq = s.seq := by
  unfold followTurn; split
  · rw [askNotice_seq, setClaims_seq]
  · rfl

theorem seq_enterQueued : (enterQueued s).seq = s.seq := (claimsOnly_enterQueued ⟨rfl, rfl⟩).seq

theorem seq_claimHead (x : ClaimTerms) : (claimHead x s).seq = s.seq := (claimsOnly_claimHead x s).seq

theorem seq_giveUp : (giveUp s).seq = s.seq := by
  unfold giveUp; split
  · rfl
  · rw [askNotice_seq, setClaims_seq]
  · rw [askNotice_seq, setClaims_seq]
  · rw [askNotice_seq, setClaims_seq]
  · exact (leaveHolding_runs s).1
  · rfl

theorem seq_storeResult (run : Run) (p : Step) (q : Quantity) (r : Result) : (storeResult run p q r s).seq = s.seq := by
  unfold storeResult; dsimp only; split
  · rw [seq_queueReport, setMeas_seq]
  · rfl

/-! ### Requests that name no run -/

theorem seq_setTagRequest (num index : Byte) (tag : BitVec 16) (line cls : Byte) :
    (setTagRequest num index tag line cls s).seq = s.seq := by
  have hput (x : MapIndex) (e : Option MapEntry) : (putMap x e s).seq = s.seq := rfl
  have hplace (x : MapIndex) (l : Line) (c : FrameClass) : (placeTag num x tag.toNat l c s).seq = s.seq := by
    unfold placeTag done refuse; split
    · simp
    · split
      · split <;> simp [hput]
      · simp [hput]
  unfold setTagRequest answer; split
  · simp
  · split
    · split
      · simp
      · exact hplace _ _ _
    · simp

theorem seq_clearTagRequest (num index : Byte) : (clearTagRequest num index s).seq = s.seq := by
  unfold clearTagRequest answer done putMap; split <;> simp

theorem seq_realignLine (num : Byte) (l : Line) : (realignLine num l s).seq = s.seq := by
  unfold realignLine refuse done; split
  · simp
  · dsimp only; rw [seq_respond]; split <;> rfl

end

end Sys2Proof.Machine


/-! The law of ids through the claim unit, the test sequencer and the measurement unit (R141, R142, R146 to R151). -/

namespace Sys2Proof.Machine

section
variable {t : State}

/-! ### Claims and the relay (R129 to R135) -/

theorem enrolled_closeRelay (l : Line) (h : Enrolled 0 t) : Enrolled 0 (closeRelay l t) := by
  refine enrolled_alterActive _ (fun _ => rfl) ?_
  exact h.aside (setTest_runs _ _ _).1

theorem enrolled_connect (l : Line) (h : Enrolled 0 t) : Enrolled 0 (connect l t) := by
  unfold connect; split
  · exact h
  · split
    · exact enrolled_claims _ h
    · split
      · exact enrolled_closeRelay l h
      · split
        · exact enrolled_alterActive _ (fun _ => rfl) h
        · exact enrolled_claims _ (enrolled_disconnect h)

theorem enrolled_giveUp (h : Enrolled 0 t) : Enrolled 0 (giveUp t) := h.aside (seq_giveUp t)
theorem enrolled_enterQueued (h : Enrolled 0 t) : Enrolled 0 (enterQueued t) := h.aside (seq_enterQueued t)
theorem enrolled_claimHead (x : ClaimTerms) (h : Enrolled 0 t) : Enrolled 0 (claimHead x t) := h.aside (seq_claimHead t x)
theorem enrolled_followTurn (h : Enrolled 0 t) : Enrolled 0 (followTurn t) := h.aside (seq_followTurn t)

/-! ### Activation (R146) -/

theorem enrolled_becomeActive (r : Run) (h : Enrolled {r.id} t) : Enrolled 0 (becomeActive r t) := by
  have hactive (p : Phase) := enrolled_refreshTests (enrolled_makeActive (activeIn r p) h)
  unfold becomeActive; split
  · exact enrolled_connect _ (hactive _)
  · exact enrolled_claimHead _ (hactive _)

theorem enrolled_activateUpTo (n : Nat) (h : Enrolled 0 t) : Enrolled 0 (activateUpTo n t) := by
  induction n generalizing t with
  | zero => exact h
  | succ n ih =>
    unfold activateUpTo; split
    · exact h
    · split
      · exact h
      · next r rest hq =>
        have hhead := enrolled_takeHead hq h
        have hgone := hhead.moves (n := 0) (add_le_add (Multiset.zero_le _) le_rfl) hhead.room
        dsimp only; split
        · exact ih (enrolled_refreshTests (enrolled_endRecord _ _ _ (enrolled_decideHold _ hgone)))
        · exact enrolled_becomeActive r hhead

theorem enrolled_activate (h : Enrolled 0 t) : Enrolled 0 (activate t) := enrolled_activateUpTo _ h

/-! ### Endings and phases (R147, R148) -/

/-- The active run is the one of a record, in whatever phase. -/
def RunsNow (a : Active) (t : State) : Prop := t.seq.active.map (·.run.id) = some a.run.id

theorem runsNow_of_active {a : Active} (h : t.seq.active = some a) : RunsNow a t := by rw [RunsNow, h]; rfl

theorem RunsNow.aside {a : Active} {u : State} (h : RunsNow a t) (hu : u.seq = t.seq) : RunsNow a u := by
  rw [RunsNow, hu]; exact h

/-- The active run goes on with another state of the same record. -/
theorem RunsNow.goesOn {a : Active} (b : Active) (h : RunsNow a t) :
    RunsNow b (setActive (fun _ => b) t) := by
  obtain ⟨c, hc, -⟩ := Option.map_eq_some_iff.mp h
  exact runsNow_of_active (congrArg (Option.map fun _ => b) hc)

theorem enrolled_goesOn {a b : Active} (hb : b.run.id = a.run.id) (ha : RunsNow a t) (h : Enrolled 0 t) :
    Enrolled 0 (setActive (fun _ => b) t) := enrolled_setActive hb ha h

theorem enrolled_finishEnding (a : Active) (h : Enrolled 0 t) : Enrolled 0 (finishEnding a t) :=
  enrolled_activate (enrolled_refreshTests (enrolled_endRecord _ _ _ (enrolled_clearActive
    (enrolled_decideHold _ (enrolled_disconnect h)))))

theorem enrolled_beginEnding (o : RunOutcome) {a : Active} (ha : RunsNow a t) (h : Enrolled 0 t) :
    Enrolled 0 (beginEnding o a t) := by
  unfold beginEnding; dsimp only; split
  · exact enrolled_drive _ (enrolled_goesOn rfl ha h)
  · exact enrolled_finishEnding _ (enrolled_goesOn rfl ha h)

theorem enrolled_startSampling (h : Enrolled 0 t) : Enrolled 0 (startSampling t) :=
  enrolled_meas _ (enrolled_alterActive _ (fun _ => rfl) h)

theorem enrolled_startSettling (b : Bool) (a : Active) (h : Enrolled 0 t) : Enrolled 0 (startSettling b a t) := by
  unfold startSettling; split
  · exact h
  · next p _ =>
    have hsettling := enrolled_drive (stimulusOf p) (enrolled_meas (handStep b p) (enrolled_alterActive (fun a =>
      { a with phase := .settling, until_ := some (t.time + p.settle), charged := a.charged || isStepStep p })
      (fun _ => rfl) h))
    dsimp only; split
    · exact enrolled_startSampling hsettling
    · exact hsettling

theorem enrolled_startDischarging (h : Enrolled 0 t) : Enrolled 0 (startDischarging t) :=
  enrolled_drive _ (enrolled_alterActive _ (fun _ => rfl) h)

theorem enrolled_suspendRun {a : Active} (k : Slot) (ha : RunsNow a t) (h : Enrolled 0 t) :
    Enrolled 0 (suspendRun a k t) :=
  enrolled_enterFront _ (enrolled_takeActive ha h)

theorem enrolled_nextPhase {a : Active} (ha : RunsNow a t) (h : Enrolled 0 t) : Enrolled 0 (nextPhase a t) := by
  unfold nextPhase; split
  · exact h
  · next p _ =>
    have hrec : ∀ r : Run, r.id = a.run.id → RunsNow { a with run := r } (setActive (fun _ => { a with run := r }) t) ∧
        Enrolled 0 (setActive (fun _ => { a with run := r }) t) :=
      fun r hr => ⟨ha.goesOn _, enrolled_goesOn hr ha h⟩
    obtain ⟨hnow, hcounted⟩ := hrec { a.run with
      steps := satAdd 65535 a.run.steps 1
      fails := if decide (t.meas.verdict = some .fail) then satAdd 65535 a.run.fails 1 else a.run.fails } rfl
    dsimp only; split
    · exact enrolled_beginEnding _ hnow hcounted
    · split
      · exact enrolled_beginEnding _ hnow hcounted
      · split
        · exact enrolled_beginEnding _ (hnow.aside rfl) (enrolled_setLine _ _ hcounted)
        · split
          · exact hcounted
          · split
            · exact enrolled_activate (enrolled_suspendRun _ hnow hcounted)
            · exact enrolled_startSettling _ _ (enrolled_goesOn (by rfl) hnow hcounted)

/-! ### Indications of the claim unit (R146, R150) -/

theorem enrolled_headHeld (h : Enrolled 0 t) : Enrolled 0 (headHeld t) := by
  unfold headHeld; split
  · next a ha =>
    have hnow := runsNow_of_active ha
    split
    · unfold startConnecting; dsimp only; split
      · exact enrolled_beginEnding _ (hnow.goesOn _) (enrolled_goesOn (by rfl) hnow h)
      · exact enrolled_connect _ (enrolled_goesOn (by rfl) hnow h)
    · exact enrolled_giveUp h
  · exact enrolled_giveUp h

theorem enrolled_limitTaken (h : Enrolled 0 t) : Enrolled 0 (limitTaken t) := by
  unfold limitTaken; split
  · exact h
  · next a ha =>
    have hnow := runsNow_of_active ha
    split
    · exact h
    · split
      · exact enrolled_beginEnding _ hnow h
      · have hsuspended := enrolled_suspendRun a.slot hnow h
        dsimp only; split
        · exact enrolled_drive _ (enrolled_seq _ hsuspended rfl rfl rfl)
        · exact enrolled_activate (enrolled_giveUp (enrolled_disconnect hsuspended))

theorem enrolled_holdLost (h : Enrolled 0 t) : Enrolled 0 (holdLost t) := by
  unfold holdLost; split
  · exact enrolled_activate (enrolled_seq _ h rfl rfl rfl)
  · split
    · exact h
    · next a ha =>
      have hnow := runsNow_of_active ha
      split
      · exact h
      · split
        · exact enrolled_finishEnding _ h
        · split
          · exact enrolled_activate (enrolled_suspendRun _ hnow h)
          · exact enrolled_activate (enrolled_refreshTests (enrolled_endRecord _ _ _ (enrolled_clearActive
              (enrolled_seq _ h rfl rfl rfl))))

/-! ### Protective stop and triggers (R144, R151) -/

theorem enrolled_protectiveStop (h : Enrolled 0 t) : Enrolled 0 (protectiveStop t) := by
  unfold protectiveStop; split
  · next c _ =>
    have hopen := enrolled_setHazard c.line true (enrolled_disconnect (enrolled_seq (t := t)
      (fun q => { q with closing := none }) h rfl rfl rfl))
    dsimp only; split
    · next r hr =>
      have hid : r.id = c.runId := by simpa using List.find?_some hr
      have htaken := enrolled_takeQueued (List.mem_of_find?_eq_some hr) hopen
      rw [hid] at htaken
      exact enrolled_activate (enrolled_refreshTests (enrolled_faultRun r _ (hid ▸ htaken)))
    · exact enrolled_activate (enrolled_decideHold _ hopen)
  · next a _ ha =>
    have hending := enrolled_alterActive (fun a => { a with phase := .ending }) (fun _ => rfl) h
    have hnow : RunsNow a (setActive (fun a => { a with phase := .ending }) t) := by
      rw [RunsNow, setActive, setSeq_seq, ha]; rfl
    have hopen := enrolled_setHazard a.run.line true (enrolled_disconnect hending)
    have hopenNow := (hnow.aside (disconnect_runs _).1).aside (setLine_seq a.run.line (fun r => { r with hazard := true }) _)
    exact enrolled_activate (enrolled_refreshTests (enrolled_faultRun _ _ (enrolled_takeActive hopenNow hopen)))
  · exact enrolled_disconnect h

theorem enrolled_displaceWaiting (h : Enrolled 0 t) : Enrolled 0 (displaceWaiting t) := by
  unfold displaceWaiting; split
  · next a ha =>
    split
    · exact enrolled_enterFront _ (enrolled_takeActive (runsNow_of_active ha) h)
    · exact h
  · exact h

theorem enrolled_raiseTrigger (l : Line) (c : Cause) (h : Enrolled 0 t) : Enrolled 0 (raiseTrigger l c t) := by
  have htaken := enrolled_takeId h
  unfold raiseTrigger triggeredRequest; dsimp only; split
  · exact h
  · split
    · exact h
    · split
      · exact enrolled_endRecord _ _ _ (htaken.moves (add_le_add (Multiset.zero_le _) le_rfl) htaken.room)
      · exact enrolled_activate (enrolled_displaceWaiting (enrolled_enterFront _ htaken))

/-! ### The measurement unit (R155 to R162) -/

theorem enrolled_storeResult (run : Run) (p : Step) (q : Quantity) (r : Result) (h : Enrolled 0 t) :
    Enrolled 0 (storeResult run p q r t) := h.aside (seq_storeResult t run p q r)

theorem enrolled_afterFinal (p : Step) {a : Active} (ha : RunsNow a t) (h : Enrolled 0 t) :
    Enrolled 0 (afterFinal a p t) := by
  unfold afterFinal; split
  · split
    · exact enrolled_beginEnding _ ha h
    · exact enrolled_startDischarging h
  · exact enrolled_nextPhase ha h

theorem enrolled_afterAnother (p : Step) (h : Enrolled 0 t) : Enrolled 0 (afterAnother p t) := by
  unfold afterAnother; split
  · exact enrolled_startDischarging h
  · exact enrolled_startSampling h

theorem enrolled_endMeasurement (p : Step) (q : Quantity) (x : Wires) {a : Active} (ha : RunsNow a t) (h : Enrolled 0 t) :
    Enrolled 0 (endMeasurement a p q x t) := by
  unfold endMeasurement; dsimp only; split
  · exact enrolled_protectiveStop (enrolled_storeResult _ _ _ _ h)
  · split
    · exact enrolled_afterAnother _ (enrolled_meas _ h)
    · exact enrolled_afterFinal _ (ha.aside (seq_storeResult _ _ _ _ _)) (enrolled_storeResult _ _ _ _ (enrolled_meas _ h))

theorem enrolled_samplePair (v i : Int) (h : Enrolled 0 t) : Enrolled 0 (samplePair v i t) := by
  unfold samplePair takePair; split
  · exact enrolled_protectiveStop h
  · split
    · next a ha =>
      have hnow := runsNow_of_active ha
      split
      · dsimp only; split
        · exact enrolled_meas _ h
        · split
          · exact enrolled_endMeasurement _ _ _ (hnow.aside rfl) (enrolled_meas _ h)
          · exact enrolled_meas _ h
      · exact h
    · exact h

/-! ### What notices and timers do to claims (R124 to R135) -/

theorem enrolled_loseHold (h : Enrolled 0 t) : Enrolled 0 (loseHold t) :=
  enrolled_holdLost (h.aside (leaveHolding_runs t).1)

theorem enrolled_followOwn (h : Enrolled 0 t) : Enrolled 0 (followOwn t) := by
  unfold followOwn; split
  · exact enrolled_followTurn h
  · split
    · exact h
    · exact enrolled_enterQueued h
  · split
    · exact h
    · exact enrolled_loseHold h
  · exact h

theorem enrolled_changeView (f : Claims → Claims) (h : Enrolled 0 t) : Enrolled 0 (changeView f t) :=
  enrolled_followOwn (enrolled_claims _ h)

theorem enrolled_heardTake (k : StationNo) (n : Nat) (h : Enrolled 0 t) : Enrolled 0 (heardTake k n t) := by
  unfold heardTake; dsimp only; split
  · exact enrolled_askNotice _ (enrolled_changeView _ h)
  · exact enrolled_changeView _ h

theorem enrolled_backToQueued (h : Enrolled 0 t) : Enrolled 0 (backToQueued t) := by
  unfold backToQueued; split
  · exact enrolled_followTurn (enrolled_claims _ h)
  · exact enrolled_enterQueued h

theorem enrolled_ownTakeEnd (n : Nat) (h : Enrolled 0 t) : Enrolled 0 (ownTakeEnd n t) := by
  unfold ownTakeEnd; dsimp only; split
  · split
    · exact enrolled_claims _ (enrolled_claims _ h)
    · exact enrolled_backToQueued (enrolled_claims _ h)
  · exact enrolled_followOwn (enrolled_claims _ h)

theorem enrolled_claimFromNone (x : ClaimTerms) (h : Enrolled 0 t) : Enrolled 0 (claimFromNone x t) := by
  unfold claimFromNone; dsimp only; split
  · exact enrolled_claims _ (enrolled_claims _ h)
  · exact enrolled_enterQueued (enrolled_claims _ h)

theorem enrolled_ownHoldOver (f : Claims → Claims) (h : Enrolled 0 t) : Enrolled 0 (ownHoldOver f t) := by
  have hcleared (g : Claims → Claims) {u : State} (h : Enrolled 0 u) : Enrolled 0 (endReleasing (setClaims g u)) := by
    unfold endReleasing; dsimp only; split
    · exact enrolled_claimFromNone _ (enrolled_claims _ (enrolled_claims _ h))
    · exact enrolled_claims _ (enrolled_claims _ h)
  unfold ownHoldOver; split
  · exact hcleared _ h
  · exact enrolled_changeView f h

theorem enrolled_ownStatusEnd (b : Bool) (h : Enrolled 0 t) : Enrolled 0 (ownStatusEnd b t) := by
  have hwaiting : Enrolled 0 (releaseWaitingClaim (changeView (viewStatus t.station b) t)) := by
    unfold releaseWaitingClaim; split
    · exact enrolled_enterQueued (enrolled_changeView _ h)
    · exact enrolled_changeView _ h
  unfold ownStatusEnd reclaimAfterStatus; split
  · dsimp only; split
    · exact enrolled_enterQueued (enrolled_claims _ hwaiting)
    · exact enrolled_claims _ hwaiting
  · exact hwaiting

theorem enrolled_noticeDiscarded (k : NoticeKind) (h : Enrolled 0 t) : Enrolled 0 (noticeDiscarded k t) := by
  unfold noticeDiscarded; split
  · exact enrolled_enterQueued h
  · split
    · exact enrolled_askNotice _ h
    · exact enrolled_backToQueued h
  · exact enrolled_ownHoldOver _ h
  · split
    · exact enrolled_changeView _ (enrolled_claims _ h)
    · exact h
  · split
    · exact enrolled_changeView _ h
    · exact h
  · split
    · exact enrolled_changeView _ h
    · exact h
  · exact h

theorem enrolled_releaseAbsorbed (h : Enrolled 0 t) : Enrolled 0 (releaseAbsorbed t) := by
  unfold releaseAbsorbed; split
  · split
    · exact h
    · exact enrolled_ownHoldOver _ h
  · exact h

theorem enrolled_takeConfirm (b : Bool) (h : Enrolled 0 t) : Enrolled 0 (takeConfirm b t) := by
  unfold takeConfirm; dsimp only; split
  · exact enrolled_enterQueued (enrolled_askNotice _ (enrolled_queueReport _ (enrolled_claims _ h)))
  · exact enrolled_headHeld (enrolled_claims _ (enrolled_claims _ h))

theorem enrolled_takeReleaseEnd (h : Enrolled 0 t) : Enrolled 0 (takeReleaseEnd t) := by
  unfold takeReleaseEnd; dsimp only; split
  · unfold releaseOccupancy; dsimp only; split
    · exact enrolled_releaseAbsorbed (enrolled_askNotice _ (enrolled_claims _ (enrolled_claims _ h)))
    · exact enrolled_askNotice _ (enrolled_claims _ (enrolled_claims _ h))
  · split
    · exact enrolled_connect _ (enrolled_claims _ h)
    · exact enrolled_claims _ h

theorem enrolled_takeOccupancyLoss (h : Enrolled 0 t) : Enrolled 0 (takeOccupancyLoss t) := by
  unfold takeOccupancyLoss; split
  · exact enrolled_loseHold (enrolled_queueReport _ (enrolled_claims _ h))
  · exact h

/-! ### The timed events of the sequencer, and a report position -/

theorem enrolled_takeOperateEnd (h : Enrolled 0 t) : Enrolled 0 (takeOperateEnd t) := by
  unfold takeOperateEnd; split
  · next a ha =>
    split
    · exact enrolled_beginEnding _ (runsNow_of_active ha) h
    · exact enrolled_startSettling _ _ h
  · exact h

theorem enrolled_takeSettleEnd (h : Enrolled 0 t) : Enrolled 0 (takeSettleEnd t) := by
  unfold takeSettleEnd; split
  · next a ha =>
    split
    · exact enrolled_beginEnding _ (runsNow_of_active ha) h
    · exact enrolled_startSampling h
  · exact h

theorem enrolled_takeDischargeEnd (h : Enrolled 0 t) : Enrolled 0 (takeDischargeEnd t) := by
  unfold takeDischargeEnd; split
  · next a ha =>
    split
    · exact enrolled_beginEnding _ (runsNow_of_active ha) h
    · split
      · exact enrolled_nextPhase (runsNow_of_active ha) h
      · exact enrolled_startSettling _ _ h
  · exact h

theorem enrolled_takeEndingEnd (h : Enrolled 0 t) : Enrolled 0 (takeEndingEnd t) := by
  unfold takeEndingEnd; split
  · exact enrolled_activate (enrolled_giveUp (enrolled_disconnect (enrolled_seq _ h rfl rfl rfl)))
  · exact enrolled_finishEnding _ h
  · exact h

theorem enrolled_takeReport (l : Line) (word : BitVec 48) (h : Enrolled 0 t) : Enrolled 0 (takeReport l word t) := by
  have hposition := h.aside (seq_takePosition t l word)
  unfold takeReport; split
  · dsimp only; split
    · exact enrolled_raiseTrigger _ _ hposition
    · exact hposition
  · split
    · exact h.aside rfl
    · exact h

end

end Sys2Proof.Machine


/-! The law of ids through the notice interface, the requests and every command; so every step keeps it (R141). -/

namespace Sys2Proof.Machine

section
variable {t : State}

/-! ### Peers and what is heard on the bus -/

theorem enrolled_setPresence (k : StationNo) (x : Presence) (h : Enrolled 0 t) : Enrolled 0 (setPresence k x t) := by
  have htold (old new : Presence) {u : State} (h : Enrolled 0 u) : Enrolled 0 (tellPresence k old new u) := by
    unfold tellPresence; split
    · exact enrolled_changeView _ (enrolled_claims _ h)
    · split
      · exact enrolled_claims _ h
      · exact h
  unfold setPresence; dsimp only; split
  · exact h
  · refine htold _ _ (h.aside ?_)
    rw [seq_recompute, seq_queueReport, seq_setPeer]

theorem enrolled_peerStatus (k : StationNo) (n : Nat) (r b : Bool) (wt d a : Nat) (h : Enrolled 0 t) :
    Enrolled 0 (peerStatus k n r b wt d a t) := by
  have hpresence (f : Peer → Peer) (x : Presence) : Enrolled 0 (setPresence k x (setPeer k f t)) :=
    enrolled_setPresence k x (h.aside rfl)
  unfold peerStatus; dsimp only
  refine Enrolled.aside ?_ (seq_recompute _)
  split
  · exact enrolled_changeView _ (hpresence _ _)
  · exact hpresence _ _

theorem enrolled_handOn (g : GoodNotice) (h : Enrolled 0 t) : Enrolled 0 (handOn g t) := by
  have hpeers (k : StationNo) (n : Nat) (x : Heard) : Enrolled 0 (handToPeers k n x t) := by
    unfold handToPeers; split
    · exact enrolled_peerStatus _ _ _ _ _ _ _ h
    · exact h.aside rfl
  have hclaims (k : StationNo) (x : Heard) {u : State} (h : Enrolled 0 u) : Enrolled 0 (handToClaims k x u) := by
    unfold handToClaims; split
    · exact enrolled_changeView _ h
    · exact h
    · exact enrolled_changeView _ h
    · exact enrolled_heardTake _ _ h
    · exact enrolled_changeView _ h
    · exact enrolled_changeView _ h
  unfold handOn; dsimp only; split
  · exact h.aside (seq_recompute _)
  · split
    · split
      · exact h
      · exact hclaims _ _ (hpeers _ _ _)
    · exact h

theorem enrolled_takeNotice (levels : List Bool) (h : Enrolled 0 t) : Enrolled 0 (takeNotice levels t) := by
  unfold takeNotice; split
  · dsimp only; split
    · unfold takeGood; dsimp only
      refine enrolled_handOn _ (h.aside ?_)
      rw [seq_countNotice]
      split
      · exact seq_reportDuplicate _ _
      · rfl
    · exact h.aside rfl
  · exact h

theorem enrolled_takeCompletion (h : Enrolled 0 t) : Enrolled 0 (takeCompletion t) := by
  have hown (a : Ask) (x : Attempt) {u : State} (h : Enrolled 0 u) : Enrolled 0 (handOwn a x u) := by
    unfold handOwn; split
    · exact enrolled_ownStatusEnd _ (h.aside (seq_recompute _))
    · exact enrolled_changeView _ h
    · exact enrolled_ownTakeEnd _ h
    · exact enrolled_changeView _ h
    · exact enrolled_ownHoldOver _ h
  unfold takeCompletion; split
  · exact hown _ _ (h.aside rfl)
  · exact h

theorem enrolled_takeLoss (h : Enrolled 0 t) : Enrolled 0 (takeLoss t) := by
  unfold takeLoss; split
  · next a e waiting _ _ =>
    have hlost : Enrolled 0
        (setNotices (loseAttempt (settleLoss { e with losses := e.losses + 1 } waiting).queue a) t) := h.aside rfl
    have hsettled : Enrolled 0 (match (settleLoss { e with losses := e.losses + 1 } waiting).dropped with
        | some d => reportDropped d
            (setNotices (loseAttempt (settleLoss { e with losses := e.losses + 1 } waiting).queue a) t)
        | none => setNotices (loseAttempt (settleLoss { e with losses := e.losses + 1 } waiting).queue a) t) := by
      split
      · exact enrolled_noticeDiscarded _ (enrolled_queueReport _ hlost)
      · exact hlost
    dsimp only; split
    · exact enrolled_releaseAbsorbed hsettled
    · exact hsettled
  · exact h

/-! ### Requests (R137 to R145, R151) -/

theorem enrolled_respond (c n : Byte) (a : Answer) (d : List Byte) (w : Bool) (h : Enrolled 0 t) :
    Enrolled 0 (respond c n a d w t) := h.aside (seq_respond _ _ _ _ _ _)

theorem enrolled_onLine (c n l : Byte) (f : Line → State → State) (hf : ∀ l, Enrolled 0 (f l t)) (h : Enrolled 0 t) :
    Enrolled 0 (onLine c n l f t) := by
  unfold onLine; split
  · exact hf _
  · exact enrolled_respond _ _ _ _ _ h

theorem enrolled_writeStep (num : Byte) (k : Slot) (p : Option Step) (h : Enrolled 0 t) :
    Enrolled 0 (writeStep num k p t) := by
  unfold writeStep; split
  · exact enrolled_respond _ _ _ _ _ h
  · exact enrolled_respond _ _ _ _ _ (enrolled_seq _ h rfl rfl rfl)

theorem enrolled_loadStepRequest (num slot : Byte) (rec : RawStep) (h : Enrolled 0 t) :
    Enrolled 0 (loadStepRequest num slot rec t) := by
  unfold loadStepRequest; split
  · exact enrolled_respond _ _ _ _ _ h
  · split
    · exact enrolled_writeStep _ _ _ h
    · exact enrolled_respond _ _ _ _ _ h

theorem enrolled_emptyStepRequest (num slot : Byte) (h : Enrolled 0 t) : Enrolled 0 (emptyStepRequest num slot t) := by
  unfold emptyStepRequest; split
  · exact enrolled_respond _ _ _ _ _ h
  · exact enrolled_writeStep _ _ _ h

theorem submitRefusal_none_room {s : State} {l : Line} {k : Slot} (h : submitRefusal s l k = none) :
    s.seq.queue.length < 16 := by
  unfold submitRefusal at h
  split at h
  · cases h
  · next hroom => exact Nat.lt_of_not_le hroom

theorem enrolled_submitRequest (n l k o : Byte) (h : Enrolled 0 t) : Enrolled 0 (submitRequest n l k o t) := by
  unfold submitRequest; split
  · split
    · exact enrolled_respond _ _ _ _ _ h
    · next hgood =>
      exact enrolled_respond _ _ _ _ _ (enrolled_activate (enrolled_enterTail _ (submitRefusal_none_room hgood)
        (enrolled_takeId h)))
  · exact enrolled_respond _ _ _ _ _ h

theorem enrolled_cancelRun (id : Nat) {u : State} (hu : cancelRun id t = some u) (h : Enrolled 0 t) : Enrolled 0 u := by
  unfold cancelRun at hu
  split at hu
  · next r _ =>
    cases hu
    exact enrolled_refreshTests (enrolled_endRecord _ _ _ (enrolled_fewerQueued (withoutRun r.id) List.filter_sublist h))
  · split at hu
    · cases hu; exact enrolled_discardFault _ h
    · split at hu
      · split at hu
        · unfold cancelActive at hu
          split at hu
          · cases hu
            exact enrolled_activate (enrolled_refreshTests (enrolled_endRecord _ _ _ (enrolled_clearActive
              (enrolled_giveUp h))))
          · split at hu
            · cases hu
            · cases hu; exact enrolled_alterActive _ (fun _ => rfl) h
        · cases hu
      · cases hu

theorem enrolled_cancelRequest (n i : Byte) (h : Enrolled 0 t) : Enrolled 0 (cancelRequest n i t) := by
  unfold cancelRequest; split
  · exact enrolled_respond _ _ _ _ _ h
  · split
    · next u hu => exact enrolled_respond _ _ _ _ _ (enrolled_cancelRun _ hu h)
    · exact enrolled_respond _ _ _ _ _ h

theorem enrolled_clearFaultLine (n : Byte) (l : Line) (h : Enrolled 0 t) : Enrolled 0 (clearFaultLine n l t) := by
  have hcleared := enrolled_setHazard l false h
  unfold clearFaultLine clearLineFault; dsimp only; split
  · split
    · next r hr =>
      split
      · split
        · exact enrolled_respond _ _ _ _ _ h
        · next hroom =>
          have htaken := enrolled_takeFault (t := setHazard l false t) hr hcleared
          exact enrolled_respond _ _ _ _ _ (enrolled_activate
            (enrolled_enterTail (requeued r) (Nat.lt_of_not_le hroom) htaken))
      · exact enrolled_respond _ _ _ _ _ (enrolled_discardFault _ hcleared)
    · exact enrolled_respond _ _ _ _ _ (enrolled_discardFault _ hcleared)
  · exact enrolled_respond _ _ _ _ _ h

theorem enrolled_clearLatch (n : Byte) (h : Enrolled 0 t) : Enrolled 0 (clearLatch n t) := by
  unfold clearLatch; split
  · exact enrolled_respond _ _ _ _ _ (enrolled_seq _ h rfl rfl rfl)
  · exact enrolled_respond _ _ _ _ _ h

theorem enrolled_requestEffect (c : Instr) (h : Enrolled 0 t) : Enrolled 0 (requestEffect c t) := by
  have hanswered (c n : Byte) (a : Answer) (d : List Byte) (w : Bool) : Enrolled 0 (respond c n a d w t) :=
    enrolled_respond _ _ _ _ _ h
  have hbar (n k : Byte) (b : Bool) (l : Line) : Enrolled 0 (barTo k n b l t) :=
    enrolled_respond _ _ _ _ _ (h.aside (seq_setBarred t l b))
  cases c <;> simp only [requestEffect]
  case readLine n l => exact enrolled_onLine _ _ _ _ (fun _ => hanswered ..) h
  case readStation n => exact hanswered ..
  case readPeers n => exact hanswered ..
  case readResults n l => exact enrolled_onLine _ _ _ _ (fun _ => hanswered ..) h
  case barLine n l => exact enrolled_onLine _ _ _ _ (fun _ => hbar _ _ _ _) h
  case unbarLine n l => exact enrolled_onLine _ _ _ _ (fun _ => hbar _ _ _ _) h
  case setTag n x g l k => exact h.aside (seq_setTagRequest t n x g l k)
  case clearTag n x => exact h.aside (seq_clearTagRequest t n x)
  case loadStep n k r => exact enrolled_loadStepRequest _ _ _ h
  case loadStepEmpty n k => exact enrolled_emptyStepRequest _ _ h
  case submitRun n l k o => exact enrolled_submitRequest _ _ _ _ h
  case cancelRun n i => exact enrolled_cancelRequest _ _ h
  case clearFault n l => exact enrolled_onLine _ _ _ _ (fun _ => enrolled_clearFaultLine _ _ h) h
  case clearFaultLatch n => exact enrolled_clearLatch _ h
  case realign n l => exact enrolled_onLine _ _ _ _ (fun l => h.aside (seq_realignLine t n l)) h
  case restart n => exact (hanswered ..).aside rfl
  case unknown c =>
    unfold unknownRequest; split
    · exact hanswered ..
    · exact hanswered ..
  all_goals exact h

theorem enrolled_request (c : Instr) (h : Enrolled 0 t) : Enrolled 0 (request (requestEffect c) t) := by
  have hended : Enrolled 0 (setStore endRequestFrame t) := h.aside rfl
  unfold request; dsimp only; split
  · exact enrolled_requestEffect _ hended
  · exact hended

theorem enrolled_takeFrameEnd (p : Port) (rest : List Byte) (h : Enrolled 0 t) : Enrolled 0 (takeFrameEnd p rest t) := by
  unfold takeFrameEnd; split
  · exact enrolled_request _ h
  · exact h.aside (seq_endFrame _ _ _)

/-! ### Every command of a running part -/

theorem enrolled_live (f : State → State) (hf : Enrolled 0 t → Enrolled 0 (f t)) (h : Enrolled 0 t) :
    Enrolled 0 (live f t) := by
  unfold live; split
  · exact (hf h).aside (seq_settle _)
  · exact h

theorem enrolled_exec (c : Instr) (hc : isLive c = true) (h : Enrolled 0 t) : ∃ u, exec c t = .next u ∧ Enrolled 0 u := by
  have hlive {f : State → State} (hf : Enrolled 0 t → Enrolled 0 (f t)) : Enrolled 0 (live f t) := enrolled_live f hf h
  have haside {f : State → State} (hf : (f t).seq = t.seq) : Enrolled 0 (live f t) := hlive fun h => h.aside hf
  have hdue {due : State → Bool} {f : State → State} (hf : Enrolled 0 t → Enrolled 0 (f t)) :
      Enrolled 0 (live (whenDue due f) t) := hlive fun h => by
    unfold whenDue; split
    · exact hf h
    · exact h
  have hdueAside {due : State → Bool} {f : State → State} (hf : (f t).seq = t.seq) :
      Enrolled 0 (live (whenDue due f) t) := hdue fun h => h.aside hf
  have hrequest (d : Instr) : Enrolled 0 (live (takeRequest d) t) := hlive (enrolled_request (asReceived t d))
  cases c with
  | powerOn => cases hc
  | pwrgoodFall => cases hc
  | restartStart => cases hc
  | configurationReadEnd => cases hc
  | firstRecessiveRun =>
    refine ⟨_, rfl, haside ?_⟩
    unfold takeRecessiveRun; split <;> rfl
  | noticeEnd b e => exact ⟨_, rfl, hlive (enrolled_takeNotice _)⟩
  | duplicateNumberHoldoffExpiry => exact ⟨_, rfl, hdueAside rfl⟩
  | noticeCompletion => exact ⟨_, rfl, hlive enrolled_takeCompletion⟩
  | contentionLoss => exact ⟨_, rfl, hlive enrolled_takeLoss⟩
  | accessGapExpiry => exact ⟨_, rfl, hdueAside (seq_startHead _)⟩
  | busQuietTimeout => exact ⟨_, rfl, hdueAside (seq_startHead _)⟩
  | isolationTimerExpiry => exact ⟨_, rfl, hdueAside (seq_setCondition _ _)⟩
  | noticePeriodExpiry => exact ⟨_, rfl, hdueAside (seq_takeNoticePeriod _)⟩
  | presenceTimerExpiry k => exact ⟨_, rfl, hdue (enrolled_setPresence _ _)⟩
  | capacityViewExpiry => exact ⟨_, rfl, hdueAside rfl⟩
  | riseCheck => exact ⟨_, rfl, hdueAside (seq_takeRiseCheck _)⟩
  | firstCellAdmission p b => exact ⟨_, rfl, haside (seq_admitFirst _ _ _)⟩
  | furtherCellNeeded p b => exact ⟨_, rfl, haside (seq_growFrame _ _ _)⟩
  | frameReceptionEnd p b => exact ⟨_, rfl, hlive (enrolled_takeFrameEnd p _)⟩
  | frameAbortReceived p => exact ⟨_, rfl, haside (seq_abortFrame _ _)⟩
  | uplinkHeaderEnd g k n => exact ⟨_, rfl, haside (seq_takeHeader _ _)⟩
  | pacingUnderflow p => exact ⟨_, rfl, haside (seq_takeUnderflow _ _)⟩
  | uplinkTransmissionComplete => exact ⟨_, rfl, haside (seq_completeUp _)⟩
  | lpRdyAsserted l => exact ⟨_, rfl, haside (seq_checkPort _ _)⟩
  | lpRdyWithdrawn l => exact ⟨_, rfl, haside rfl⟩
  | linePortTransmissionComplete l => exact ⟨_, rfl, haside (seq_completeDown _ _)⟩
  | searchMarkerFound l n => exact ⟨_, rfl, haside (seq_takeMarker _ _ _)⟩
  | searchTimeExpiry l => exact ⟨_, rfl, hdueAside (seq_setSync _ _ _)⟩
  | reportPositionEnd l word => exact ⟨_, rfl, hlive (enrolled_takeReport l word)⟩
  | losTriggerTimerExpiry l => exact ⟨_, rfl, hdue fun h => enrolled_raiseTrigger _ _ (h.aside rfl)⟩
  | holdExpiry => exact ⟨_, rfl, hdue (enrolled_changeView _)⟩
  | turnLapse => exact ⟨_, rfl, hdue (enrolled_changeView _)⟩
  | confirmWindowEnd b => exact ⟨_, rfl, hdue (enrolled_takeConfirm b)⟩
  | relayReleaseTimeEnd => exact ⟨_, rfl, hdue enrolled_takeReleaseEnd⟩
  | ownHoldLimit => exact ⟨_, rfl, hdue fun h => enrolled_limitTaken (enrolled_claims _ h)⟩
  | occupancyLoss => exact ⟨_, rfl, hlive enrolled_takeOccupancyLoss⟩
  | operateTimeEnd => exact ⟨_, rfl, hdue enrolled_takeOperateEnd⟩
  | settleTimeEnd => exact ⟨_, rfl, hdue enrolled_takeSettleEnd⟩
  | dischargeTimeEnd => exact ⟨_, rfl, hdue enrolled_takeDischargeEnd⟩
  | endingDischargeEnd => exact ⟨_, rfl, hdue enrolled_takeEndingEnd⟩
  | holdoffExpiry l => exact ⟨_, rfl, hdue fun h => enrolled_seq _ h rfl rfl rfl⟩
  | sampleTaken v i => exact ⟨_, rfl, hlive (enrolled_samplePair _ _)⟩
  | sampleFrameFault => exact ⟨_, rfl, haside rfl⟩
  | readLine => exact ⟨_, rfl, hrequest _⟩
  | readStation => exact ⟨_, rfl, hrequest _⟩
  | readPeers => exact ⟨_, rfl, hrequest _⟩
  | readResults => exact ⟨_, rfl, hrequest _⟩
  | barLine => exact ⟨_, rfl, hrequest _⟩
  | unbarLine => exact ⟨_, rfl, hrequest _⟩
  | setTag => exact ⟨_, rfl, hrequest _⟩
  | clearTag => exact ⟨_, rfl, hrequest _⟩
  | loadStep => exact ⟨_, rfl, hrequest _⟩
  | loadStepEmpty => exact ⟨_, rfl, hrequest _⟩
  | submitRun => exact ⟨_, rfl, hrequest _⟩
  | cancelRun => exact ⟨_, rfl, hrequest _⟩
  | clearFault => exact ⟨_, rfl, hrequest _⟩
  | clearFaultLatch => exact ⟨_, rfl, hrequest _⟩
  | realign => exact ⟨_, rfl, hrequest _⟩
  | restart => exact ⟨_, rfl, hrequest _⟩
  | unknown => exact ⟨_, rfl, hrequest _⟩
  | restartWaitTimeout => exact ⟨_, rfl, hdueAside rfl⟩
  | startBitRead =>
    refine ⟨_, rfl, haside ?_⟩
    unfold takeStartBit; split <;> rfl
  | upstreamByteArrival l => exact ⟨_, rfl, haside rfl⟩

end

/-! ### The run queue and the results through every step (R142, 10.4) -/

section
variable {s t : State}

theorem Change.keeps_runsSound {sc : Scope} (h : Change sc s t) (hs : RunsSound s) : RunsSound t := by
  cases h with
  | seq f _ hf => exact hf hs
  | recompute => rw [RunsSound, seq_recompute]; exact hs
  | riseCheck => rw [RunsSound, seq_takeRiseCheck]; exact hs
  | _ => exact hs

theorem RunsSound.congr (h : RunsSound s) (hseq : t.seq = s.seq) : RunsSound t := by rw [RunsSound, hseq]; exact h

/-- No run is queued after a start (R171). -/
theorem runsSound_start {steps : Table (Option Step) 128} (hseq : t.seq = startSequencer steps) : RunsSound t := by
  rw [RunsSound, hseq]
  exact ⟨Nat.zero_le _, .nil⟩

theorem stepKeeps_runsSound : StepKeeps RunsSound where
  pending _ _ hs := hs
  clocks s hs := by rw [tickClocks_eq]; exact hs
  tick s hs := hs.congr (by rw [tickRunning_eq, tickClocks_eq])
  live c hc _ _ hs he := exec_keeps (fun _ _ _ h => h.keeps_runsSound) hc he hs
  powerUp _ _ := runsSound_start rfl
  cutOff _ hs := hs
  restart _ _ := runsSound_start rfl
  opens straps b s hs := RunsSound.congr (s := deliver straps b s) hs (opened_undisturbed straps b s).seq

theorem ResultsClamped.congr (h : ResultsClamped s) (hresults : t.meas.results = s.meas.results) : ResultsClamped t := by
  rw [ResultsClamped, hresults]; exact h

theorem quantityIndex_injective : Function.Injective quantityIndex :=
  Function.LeftInverse.injective (g := ![.foreignDc, .foreignAc, .resistance, .capacitance, .length])
    fun q => by cases q <;> rfl

/-- A result stored within the clamp of its quantity (R162). -/
theorem ResultsClamped.stored {l : Line} {q : Quantity} {r : Result} (h : ResultsClamped s) (hr : InClamp q r.value) :
    ResultsClamped (setMeas (fun m =>
      { m with results := alter m.results l fun row => put row (quantityIndex q) (some r) }) s) := by
  intro k p e he
  change e ∈ look (look (alter s.meas.results l fun row => put row (quantityIndex q) (some r)) k) (quantityIndex p) at he
  by_cases hk : l = k
  · subst hk
    rw [look_alter_same] at he
    by_cases hq : quantityIndex q = quantityIndex p
    · have hqp := quantityIndex_injective hq
      subst hqp
      rw [look_put_same] at he
      cases he; exact hr
    · rw [look_put_ne _ _ _ _ hq] at he
      exact h l p e he
  · rw [look_alter_ne _ _ _ _ hk] at he
    exact h k p e he

theorem Change.keeps_resultsClamped {sc : Scope} (h : Change sc s t) (hs : ResultsClamped s) : ResultsClamped t := by
  cases h with
  | meas f hf _ => exact hs.congr (hf _)
  | result l q r _ hr _ => exact hs.stored hr
  | recompute => exact hs.congr (by rw [(recompute_rest s).2.2.1])
  | riseCheck => exact hs.congr (by rw [(takeRiseCheck_frame s).2.2.1])
  | _ => exact hs

theorem stepKeeps_resultsClamped : StepKeeps ResultsClamped where
  pending _ _ hs := hs
  clocks s hs := by rw [tickClocks_eq]; exact hs
  tick s hs := hs.congr (by rw [tickRunning_eq, tickClocks_eq])
  live c hc _ _ hs he := exec_keeps (fun _ _ _ h => h.keeps_resultsClamped) hc he hs
  powerUp s _ := fun l q r hr => by
    have hempty : look (look (powerUp s).meas.results l) (quantityIndex q) = none :=
      (congrArg (fun row => look row (quantityIndex q)) (look_filled ..)).trans (look_filled ..)
    rw [hempty] at hr; cases hr
  cutOff _ hs := hs
  restart _ hs := hs
  opens straps b s hs :=
    ResultsClamped.congr (s := deliver straps b s) hs (congrArg Measurement.results (opened_undisturbed straps b s).meas)

/-! ### Ids through every step (R141) -/

theorem enrolled_start {steps : Table (Option Step) 128} (hseq : t.seq = startSequencer steps) : Enrolled 0 t := by
  have hfaults : faultIds (filled 12 none) = 0 := Finset.sum_eq_zero fun l _ => by rw [look_filled]; rfl
  have hempty : rosterOf t.seq = 0 := by
    rw [hseq]
    exact hfaults
  refine ⟨by rw [hempty]; exact Multiset.nodup_zero, fun id hid => ?_, by rw [hseq]; exact Nat.zero_le _⟩
  rw [hempty] at hid
  cases hid

theorem stepKeeps_enrolled : StepKeeps (Enrolled 0) where
  pending _ _ hs := hs.aside rfl
  clocks s hs := hs.aside (by rw [tickClocks_eq])
  tick s hs := hs.aside (by rw [tickRunning_eq, tickClocks_eq])
  live c hc s t hs he := by
    obtain ⟨u, hu, henrolled⟩ := enrolled_exec c hc hs
    rw [he] at hu; cases hu
    exact henrolled
  powerUp _ _ := enrolled_start rfl
  cutOff _ hs := hs.aside rfl
  restart _ _ := enrolled_start rfl
  opens straps b s hs := by
    have hdelivered : Enrolled 0 (deliver straps b s) := hs.aside rfl
    exact hdelivered.aside (opened_undisturbed straps b s).seq

end

/-- Settles O18: the queue and the results through the chains of elementary changes, the ids by what each effect has in hand
while a record changes its place. -/
theorem everyStepKeepsRunQueueAndResultsInBounds : Obligations.EveryStepKeepsRunQueueAndResultsInBounds :=
  ⟨fun _ _ hs ht => stepKeeps_runsSound.step hs ht,
    fun _ _ hruns hids ht => (stepKeeps_enrolled.step (enrolled_of_sound hruns hids) ht).sound,
    fun _ _ hs ht => stepKeeps_resultsClamped.step hs ht⟩

end Sys2Proof.Machine


/-! The timed ends of a run's phases, NEXT, and the endings of runs (R147 to R150). -/

namespace Sys2Proof.Machine

/-! ### The updates of the active run, written out -/

section
variable {s : State} {a : Active}

theorem setActive_eq (f : Active → Active) (ha : s.seq.active = some a) :
    setActive f s = { s with seq := { s.seq with active := some (f a) } } := by
  simp only [setActive, setSeq, ha, Option.map_some]

theorem drive_eq (x : Stimulus) (s : State) : drive x s =
    { s with claims := { s.claims with stimulus := if s.claims.relay = none then .none else x } } := by
  cases h : s.claims.relay <;> simp [drive, setClaims, h]

theorem isStepStep_eq (p : Step) : isStepStep p = decide (p.quantity = .capacitance ∨ p.quantity = .length) := by
  rw [isStepStep]; cases p.quantity <;> rfl

theorem startSampling_eq (ha : s.seq.active = some a) : startSampling s = { s with
    seq := { s.seq with active := some { a with phase := .sampling, until_ := none } }
    meas := { s.meas with acc := ⟨0, 0, 0, 0, none, none⟩ } } := by
  rw [startSampling, setActive_eq _ ha]; rfl

theorem startDischarging_eq (ha : s.seq.active = some a) : startDischarging s = { s with
    seq := { s.seq with active := some { a with
      phase := .discharging, until_ := some (s.time + 50), charged := false } }
    claims := { s.claims with stimulus := if s.claims.relay = none then .none else .discharge } } := by
  rw [startDischarging, setActive_eq _ ha, drive_eq]; rfl

/-- SETTLING of a step; one with a settle time of 0 is in SAMPLING at once (R147). -/
theorem startSettling_eq {p : Step} (first : Bool) (ha : s.seq.active = some a) (hp : look s.seq.steps a.slot = some p) :
    startSettling first a s = { s with
      seq := { s.seq with active := some { a with
        phase := (if p.settle = 0 then .sampling else .settling)
        until_ := (if p.settle = 0 then none else some (s.time + p.settle))
        charged := a.charged || decide (p.quantity = .capacitance ∨ p.quantity = .length) } }
      claims := { s.claims with stimulus := if s.claims.relay = none then .none else stimulusOf p }
      meas := { s.meas with
        wires := some p.wires, quantity := some p.quantity, samples := p.samples, verdict := none
        made := (if first then 0 else s.meas.made), previous := (if first then none else s.meas.previous)
        acc := (if p.settle = 0 then ⟨0, 0, 0, 0, none, none⟩ else s.meas.acc) } } := by
  unfold startSettling
  rw [hp]
  dsimp only
  rw [setActive_eq _ ha, drive_eq, ← isStepStep_eq]
  by_cases hsettle : p.settle = 0
  · simp only [if_pos hsettle]
    rw [startSampling_eq rfl]; rfl
  · simp only [if_neg hsettle]; rfl

end

/-! ### Whether the hold is kept (R148) -/

/-- The conditions under which the hold is kept for the head of the queue (R148). -/
def Kept (o : RunOutcome) (s : State) : Prop :=
  (o = .passed ∨ o = .failed ∨ o = .aborted ∨ o = .cancelled ∨ o = .recovered) ∧
    (∃ t ∈ s.claims.ownLimit, s.time + 1000 ≤ t) ∧
    (∃ r ∈ s.seq.queue.head?, r.origin = .triggered ∨ r.status = .suspended)

section
variable {s : State} {o : RunOutcome}

theorem mayKeep_iff (o : RunOutcome) :
    mayKeep o = true ↔ o = .passed ∨ o = .failed ∨ o = .aborted ∨ o = .cancelled ∨ o = .recovered := by
  cases o <;> simp [mayKeep]

theorem keepsHold_iff (ho : s.claims.own = .holding) : keepsHold o s = true ↔ Kept o s := by
  have hmargin : Config.keepMargin = 1000 := rfl
  rw [keepsHold, Kept, ho, ← mayKeep_iff, hmargin]
  cases s.claims.ownLimit with
  | none => simp
  | some t => cases s.seq.queue.head? <;> simp [isTriggered_iff, and_assoc]

theorem decideHold_kept (ho : s.claims.own = .holding) (h : Kept o s) : decideHold o s = s :=
  if_pos (.inr ((keepsHold_iff ho).mpr h))

theorem decideHold_given (ho : s.claims.own = .holding) (h : ¬ Kept o s) : decideHold o s = leaveHolding s := by
  rw [← giveUp_holding ho]
  exact if_neg (by rw [keepsHold_iff ho]; exact fun h' => h'.elim (fun hne => hne ho) h)

theorem not_kept_of_empty (hq : s.seq.queue = []) : ¬ Kept o s := by
  rintro ⟨-, -, r, hr, -⟩
  rw [hq] at hr; cases hr

end

/-! ### The end of a run (R148) -/

/-- The ending of a run up to the next activation: relay open, head kept or given up, record ended. -/
def runOver (o : RunOutcome) (a : Active) (s : State) : State :=
  refreshTests (endRecord a.run o a.slot (clearActive (decideHold o (disconnect s))))

/-- What the ending of a run leaves (R148, R152, R162). -/
structure RunEnds (o : RunOutcome) (a : Active) (s t : State) : Prop where
  seq : t.seq = { s.seq with
    active := none
    holdoffs := if a.run.origin = .triggered then
      put s.seq.holdoffs a.run.line (some (s.time + 60000 * s.settings.holdoff)) else s.seq.holdoffs }
  lastRun : look t.meas.lastRuns a.run.line = some ⟨a.run.id, a.run.origin, o, s.time⟩
  relay : t.claims.relay = none
  own : s.claims.own = .holding → (Kept o s → t.claims.own = .holding) ∧ (¬ Kept o s → t.claims.own = .releasing)
  report : ServiceDerived s → s.mgmt.reports ≠ [] → s.mgmt.reports.length ≤ 14 →
    ⟨s.time, .runEnded a.run o a.slot⟩ ∈ t.mgmt.reports

section
variable {s : State} {a : Active} {o : RunOutcome}

theorem disconnect_time (s : State) : (disconnect s).time = s.time := (leads_disconnect (sc := Scope.none) .refl).time

theorem disconnect_settings (s : State) : (disconnect s).settings = s.settings :=
  congrArg Loader.settings (leads_disconnect (sc := Scope.none) (s := s) .refl).loader

theorem disconnect_kept : Kept o (disconnect s) ↔ Kept o s := by
  rw [Kept, Kept, claims_disconnect, (disconnect_runs s).1, disconnect_time]; rfl

theorem runOver_claims (o : RunOutcome) (a : Active) (s : State) :
    (runOver o a s).claims = (decideHold o (disconnect s)).claims := by
  rw [runOver, refreshTests_claims, endRecord_claims]; rfl

/-- A head that is given up leaves HOLDING (R135, R148). -/
theorem runOver_given (ho : s.claims.own = .holding) (h : ¬ Kept o s) :
    (runOver o a s).claims = leftHolding s.time s.claims := by
  rw [runOver_claims, decideHold_given ((disconnect_claims s).2.1.trans ho) (mt disconnect_kept.mp h),
    leaveHolding_disconnect, leaveHolding_claims]

theorem runOver_ends (o : RunOutcome) (a : Active) (s : State) : RunEnds o a s (runOver o a s) := by
  obtain ⟨hseq, htime, hsettings⟩ := decideHold_seq o (disconnect s)
  rw [(disconnect_runs s).1] at hseq
  rw [disconnect_time] at htime
  rw [disconnect_settings] at hsettings
  have hopen := (disconnect_claims s).1
  obtain ⟨hmgmt, -, -⟩ := decideHold_aside o (.inr hopen)
  constructor
  case seq =>
    have hended := endRecord_seq a.run o a.slot (clearActive (decideHold o (disconnect s)))
    rw [clearActive, setSeq_seq, hseq] at hended
    rw [runOver, refreshTests, setAllLines_seq]
    refine hended.trans ?_
    change Sequencer.mk _ _ _ _ _ _ _ (if _ then put _ _ (some ((decideHold o (disconnect s)).time +
      60000 * (decideHold o (disconnect s)).settings.holdoff)) else _) = _
    rw [htime, hsettings]
  case lastRun =>
    have hlast := endRecord_lastRun a.run o a.slot (clearActive (decideHold o (disconnect s)))
    exact hlast.trans (by rw [← htime]; rfl)
  case relay =>
    rw [runOver_claims]
    rcases decideHold_eq o (disconnect s) with h | h <;> rw [h]
    · exact hopen
    · exact congrArg Claims.relay (leaveHolding_claims _)
  case own =>
    intro ho
    have hheld := (disconnect_claims s).2.1.trans ho
    refine ⟨fun hkept => ?_, fun hnot => ?_⟩
    · rw [runOver_claims, decideHold_kept hheld (disconnect_kept.mpr hkept), hheld]
    · rw [runOver_given ho hnot]; rfl
  case report =>
    intro hs hne hroom
    obtain ⟨hne', hroom'⟩ := (reportsOnce_disconnect hs).waits hne (Nat.lt_of_le_of_lt hroom (by decide))
    have hreport := (endRecord_reports a.run o a.slot (clearActive (decideHold o (disconnect s)))).1
    rw [queueReport_waits (by exact hmgmt ▸ hne') (by
      change (decideHold o (disconnect s)).mgmt.reports.length < 16
      rw [hmgmt]; omega)] at hreport
    change _ ∈ (endRecord _ _ _ _).mgmt.reports
    rw [hreport]
    refine List.mem_append_right _ (List.mem_singleton.mpr ?_)
    rw [← htime]; rfl

theorem finishEnding_eq (a : Active) (s : State) : finishEnding a s = activate (runOver a.outcome a s) := rfl

/-- A run with a STEP stimulus since its last DISCHARGING discharges before it ends (R148). -/
theorem beginEnding_charged {b : Active} (hcharged : a.charged = true) (hb : s.seq.active = some b) :
    beginEnding o a s = { s with
      seq := { s.seq with active := some { a with phase := .ending, outcome := o, until_ := some (s.time + 50) } }
      claims := { s.claims with stimulus := if s.claims.relay = none then .none else .discharge } } := by
  rw [beginEnding, if_pos hcharged, setActive_eq _ hb, drive_eq]; rfl

/-- Any other run ends at once (R148). -/
theorem beginEnding_uncharged {b : Active} (hcharged : a.charged = false) (hb : s.seq.active = some b) :
    ∃ t, beginEnding o a s = activate t ∧ RunEnds o a s t := by
  refine ⟨_, if_neg (by rw [hcharged]; decide), ?_⟩
  have hends := runOver_ends o { a with phase := .ending, outcome := o, until_ := none }
    (setActive (fun _ => { a with phase := .ending, outcome := o, until_ := none }) s)
  rw [setActive_eq _ hb] at hends ⊢
  obtain ⟨hseq, hlast, hrelay, hown, hreport⟩ := hends
  exact ⟨hseq, hlast, hrelay, hown, hreport⟩

/-- Behind an empty queue nothing becomes active, and the head is given up (R146, R148). -/
theorem beginEnding_last (hcharged : a.charged = false) (ha : s.seq.active = some a) (hq : s.seq.queue = []) :
    RunEnds o a s (beginEnding o a s) ∧ (s.claims.own = .holding → (beginEnding o a s).claims.own = .releasing) := by
  obtain ⟨t, ht, hends⟩ := beginEnding_uncharged (o := o) hcharged ha
  rw [ht, activate_none (by rw [hends.seq]; exact hq)]
  exact ⟨hends, fun ho => (hends.own ho).2 (not_kept_of_empty hq)⟩

end

/-! ### NEXT (R147, R149) -/

/-- The record of a run with the verdict of its step counted (R147). -/
def countedRun (s : State) (r : Run) : Run :=
  { r with
    steps := min 65535 (r.steps + 1)
    fails := if s.meas.verdict = some .fail then min 65535 (r.fails + 1) else r.fails }

/-- The active run with its step counted. -/
def countedActive (s : State) (a : Active) : Active := { a with run := countedRun s a.run }

/-- The run that goes on in another state of its phase. -/
def goesOn (b : Active) (s : State) : State := { s with seq := { s.seq with active := some b } }

section
variable {s : State} {a : Active} {p : Step}

/-- Whether a TRIGGERED run pre-empts (R149). -/
def Preempted (s : State) (r : Run) : Prop := r.origin = .operator ∧ ∃ x ∈ s.seq.queue.head?, x.origin = .triggered

theorem preempted_iff (r : Run) :
    (r.origin = .operator ∧ (s.seq.queue.head?.map isTriggered) = some true) ↔ Preempted s r := by
  cases h : s.seq.queue.head? <;> simp [Preempted, h, isTriggered_iff]

theorem nextPhase_eq (ha : s.seq.active = some a) (hp : look s.seq.steps a.slot = some p) : nextPhase a s =
    if a.cancel then beginEnding .cancelled (countedActive s a) (goesOn (countedActive s a) s)
    else if s.meas.verdict = some .fail ∧ p.abortOnFail = true then
      beginEnding .aborted (countedActive s a) (goesOn (countedActive s a) s)
    else if p.stop then
      beginEnding (if (countedRun s a.run).fails = 0 then .passed else .failed) (countedActive s a)
        (setLine a.run.line (fun r => { r with continueSlot := p.next }) (goesOn (countedActive s a) s))
    else match p.next with
      | none => goesOn (countedActive s a) s
      | some j =>
        if (countedRun s a.run).origin = .operator ∧ (s.seq.queue.head?.map isTriggered) = some true then
          activate (suspendRun (countedActive s a) j (goesOn (countedActive s a) s))
        else startSettling true { countedActive s a with slot := j } (goesOn { countedActive s a with slot := j } s) := by
  have hcounted : countedActive s a = { a with run := { a.run with
      steps := satAdd 65535 a.run.steps 1
      fails := if decide (s.meas.verdict = some .fail) then satAdd 65535 a.run.fails 1 else a.run.fails } } := by
    simp only [countedActive, countedRun, decide_eq_true_eq, satAdd]
  unfold nextPhase
  rw [hp]
  dsimp only
  rw [← hcounted, setActive_eq _ ha]
  simp only [Bool.and_eq_true, decide_eq_true_eq]
  rfl

end

end Sys2Proof.Machine


/-! The commands of the phases' ends, and the statement of the phases (R147 to R150). -/

namespace Sys2Proof.Machine

section
variable {s : State} {a : Active} {p : Step}

/-! ### The timed commands -/

theorem exec_operateTimeEnd (hrun : s.power = .running) (h : Due s .operateTimeEnd) :
    exec .operateTimeEnd s = .next (settle (takeOperateEnd s)) :=
  congrArg _ (live_whenDue hrun ((operateDue_iff s).mpr h) _)

theorem exec_settleTimeEnd (hrun : s.power = .running) (h : Due s .settleTimeEnd) :
    exec .settleTimeEnd s = .next (settle (takeSettleEnd s)) :=
  congrArg _ (live_whenDue hrun ((settleDue_iff s).mpr h) _)

theorem exec_dischargeTimeEnd (hrun : s.power = .running) (h : Due s .dischargeTimeEnd) :
    exec .dischargeTimeEnd s = .next (settle (takeDischargeEnd s)) :=
  congrArg _ (live_whenDue hrun ((dischargeDue_iff s).mpr h) _)

theorem exec_endingDischargeEnd (hrun : s.power = .running) (h : Due s .endingDischargeEnd) :
    exec .endingDischargeEnd s = .next (settle (takeEndingEnd s)) :=
  congrArg _ (live_whenDue hrun ((endingDue_iff s).mpr h) _)

/-- The ends of CONNECTING, SETTLING and DISCHARGING with no cancel pending (R147). -/
theorem phases_go_on (ha : s.seq.active = some a) (hcancel : a.cancel = false) :
    takeOperateEnd s = startSettling true a s ∧ takeSettleEnd s = startSampling s ∧
    (s.meas.verdict = none → takeDischargeEnd s = startSettling false a s) ∧
    (s.meas.verdict ≠ none → takeDischargeEnd s = nextPhase a s) := by
  have hnot : ¬ a.cancel = true := by rw [hcancel]; decide
  simp only [takeOperateEnd, takeSettleEnd, takeDischargeEnd, ha, if_neg hnot]
  refine ⟨trivial, trivial, fun h => ?_, fun h => ?_⟩
  · rw [h]; rfl
  · exact if_pos (Option.isSome_iff_ne_none.mpr h)

/-- A pending cancel ends the run at each of them (R145, R147). -/
theorem phases_cancelled (ha : s.seq.active = some a) (hcancel : a.cancel = true) :
    takeOperateEnd s = beginEnding .cancelled a s ∧ takeSettleEnd s = beginEnding .cancelled a s ∧
    takeDischargeEnd s = beginEnding .cancelled a s := by
  simp only [takeOperateEnd, takeSettleEnd, takeDischargeEnd, ha, if_pos hcancel, and_self]

/-! ### What activation leaves of a discharge that has ended (R146, R150) -/

theorem connect_closing (l : Line) (s : State) : (connect l s).seq.closing = s.seq.closing := by
  unfold connect; split
  · rfl
  · split
    · rfl
    · split
      · rw [(closeRelay_closes l s).2.2]
      · split
        · rfl
        · exact congrArg Sequencer.closing (disconnect_runs s).1

theorem becomeActive_closing (r : Run) (s : State) : (becomeActive r s).seq.closing = s.seq.closing := by
  unfold becomeActive; split
  · exact connect_closing _ _
  · rw [seq_claimHead]; rfl

theorem activate_closing_kept (s : State) : (activate s).seq.closing = s.seq.closing := by
  have hupTo (n : Nat) (t : State) : (activateUpTo n t).seq.closing = t.seq.closing := by
    induction n generalizing t with
    | zero => rfl
    | succ n ih =>
      unfold activateUpTo; split
      · rfl
      · split
        · rfl
        · dsimp only; split
          · rw [ih, endAtActivation_seq]; rfl
          · exact becomeActive_closing _ _
  exact hupTo _ s

/-- The discharge of a run whose record has returned to the queue ends: the head is given up (R148, R150). -/
theorem takeEndingEnd_closing {d : Closing} (hd : s.seq.closing = some d) (ho : s.claims.own = .holding) :
    (takeEndingEnd s).seq.closing = none ∧ (takeEndingEnd s).claims.own = .releasing ∧
    (takeEndingEnd s).claims.relay = none := by
  have hheld : (disconnect (setSeq (fun q => { q with closing := none }) s)).claims.own = .holding :=
    (disconnect_claims _).2.1.trans ho
  have heq : takeEndingEnd s = activate (leaveHolding (setSeq (fun q => { q with closing := none }) s)) := by
    rw [← leaveHolding_disconnect, ← giveUp_holding hheld]
    simp only [takeEndingEnd, hd]
  have hclaims := (Bookkept.refl (leaveHolding (setSeq (fun q => { q with closing := none }) s))).activated.left
  rw [heq]
  refine ⟨?_, ?_, ?_⟩
  · rw [activate_closing_kept, (leaveHolding_runs _).1]; rfl
  · rw [hclaims]; rfl
  · rw [hclaims]; rfl

/-- The discharge of the active run's ENDING ends behind an empty queue (R148). -/
theorem takeEndingEnd_last (ha : s.seq.active = some a) (hc : s.seq.closing = none) (hq : s.seq.queue = []) :
    takeEndingEnd s = runOver a.outcome a s := by
  simp only [takeEndingEnd, ha, hc, finishEnding_eq]
  exact activate_none (by rw [(runOver_ends _ a s).seq]; exact hq)

/-! ### NEXT, case by case (R147, R149) -/

section
variable (ha : s.seq.active = some a) (hp : look s.seq.steps a.slot = some p)
include ha hp

theorem nextPhase_cancelled (hcancel : a.cancel = true) :
    nextPhase a s = beginEnding .cancelled (countedActive s a) (goesOn (countedActive s a) s) := by
  rw [nextPhase_eq ha hp, if_pos hcancel]

variable (hcancel : a.cancel = false)
include hcancel

theorem nextPhase_aborted (hfailed : s.meas.verdict = some .fail) (habort : p.abortOnFail = true) :
    nextPhase a s = beginEnding .aborted (countedActive s a) (goesOn (countedActive s a) s) := by
  rw [nextPhase_eq ha hp, if_neg (by rw [hcancel]; decide), if_pos ⟨hfailed, habort⟩]

variable (hgoes : ¬ (s.meas.verdict = some .fail ∧ p.abortOnFail = true))
include hgoes

theorem nextPhase_stops (hstop : p.stop = true) :
    nextPhase a s = beginEnding (if (countedRun s a.run).fails = 0 then .passed else .failed) (countedActive s a)
      (setLine a.run.line (fun r => { r with continueSlot := p.next }) (goesOn (countedActive s a) s)) := by
  rw [nextPhase_eq ha hp, if_neg (by rw [hcancel]; decide), if_neg hgoes, if_pos hstop]

variable (hstop : p.stop = false) {j : Slot} (hnext : p.next = some j)
include hstop hnext

theorem nextPhase_continues (h : ¬ Preempted s a.run) :
    nextPhase a s =
      startSettling true { countedActive s a with slot := j } (goesOn { countedActive s a with slot := j } s) := by
  rw [nextPhase_eq ha hp, if_neg (by rw [hcancel]; decide), if_neg hgoes, if_neg (by rw [hstop]; decide), hnext]
  exact if_neg (mt (preempted_iff a.run).mp h)

/-- A TRIGGERED run pre-empts: the run returns to the queue with its next step as resume slot (R149). -/
theorem nextPhase_preempted (h : Preempted s a.run) (hroom : s.seq.queue.length < 16) :
    ∃ t, nextPhase a s = activate t ∧ t.claims = s.claims ∧ t.seq = { s.seq with
      active := none
      queue := placeFront s.seq.queue { countedRun s a.run with status := .suspended, resume := some j } } := by
  refine ⟨suspendRun (countedActive s a) j (goesOn (countedActive s a) s), ?_, enterFront_claims _ _,
    enterFront_room_seq _ hroom⟩
  rw [nextPhase_eq ha hp, if_neg (by rw [hcancel]; decide), if_neg hgoes, if_neg (by rw [hstop]; decide), hnext]
  exact if_pos ((preempted_iff a.run).mpr h)

end

end

/-- Settles O53: the updates of the active run written out, and what the ending of a run leaves. -/
theorem phasesEndAsTheirTableSays : Obligations.PhasesEndAsTheirTableSays := by
  refine ⟨fun a p s hrun ha hp => ⟨fun hcancel => ?_, fun hcancel hcharged => ?_, fun hcancel hcharged hq hc => ?_⟩,
    fun a p s ha hp => ⟨fun hcancel => ?_, fun hcancel hfailed habort => ?_, fun hcancel hgoes hstop => ?_,
      fun j hcancel hgoes hstop hnext => ⟨fun h => ?_, fun h hroom => ?_⟩⟩,
    fun o a b s hb => ⟨fun hcharged => ?_, fun hcharged => ?_⟩, fun a s hrun ha hc hdue hq => ?_,
    fun d s hrun hd hdue ho => ?_, fun o s ho => ⟨decideHold_kept ho, decideHold_given ho⟩⟩
  · obtain ⟨hoperate, hsettle, hagain, hnext⟩ := phases_go_on ha hcancel
    refine ⟨fun hdue => ?_, fun hdue => ?_, fun hdue hverdict => ?_, fun hdue hverdict => ?_⟩
    · rw [exec_operateTimeEnd hrun hdue, hoperate, startSettling_eq true ha hp]; rfl
    · rw [exec_settleTimeEnd hrun hdue, hsettle, startSampling_eq ha]
    · rw [exec_dischargeTimeEnd hrun hdue, hagain hverdict, startSettling_eq false ha hp]; rfl
    · rw [exec_dischargeTimeEnd hrun hdue, hnext hverdict]
  · obtain ⟨hoperate, hsettle, hdischarge⟩ := phases_cancelled ha hcancel
    have hending := beginEnding_charged (o := .cancelled) hcharged ha
    refine ⟨fun hdue => ?_, fun hdue => ?_, fun hdue => ?_⟩
    · rw [exec_operateTimeEnd hrun hdue, hoperate, hending]
    · rw [exec_settleTimeEnd hrun hdue, hsettle, hending]
    · rw [exec_dischargeTimeEnd hrun hdue, hdischarge, hending]
  · obtain ⟨hoperate, hsettle, hdischarge⟩ := phases_cancelled ha hcancel
    obtain ⟨⟨hseq, hlast, hrelay, -, hreport⟩, hown⟩ := beginEnding_last (o := .cancelled) hcharged ha hq
    refine ⟨fun hdue => ⟨_, ?_, hseq, hlast, hrelay, hown, hreport⟩,
      fun hdue => ⟨_, ?_, hseq, hlast, hrelay, hown, hreport⟩,
      fun hdue => ⟨_, ?_, hseq, hlast, hrelay, hown, hreport⟩⟩
    · rw [exec_operateTimeEnd hrun hdue, hoperate]
    · rw [exec_settleTimeEnd hrun hdue, hsettle]
    · rw [exec_dischargeTimeEnd hrun hdue, hdischarge]
  · exact nextPhase_cancelled ha hp hcancel
  · exact nextPhase_aborted ha hp hcancel hfailed habort
  · exact nextPhase_stops ha hp hcancel hgoes hstop
  · rw [nextPhase_continues ha hp hcancel hgoes hstop hnext h]; rfl
  · exact nextPhase_preempted ha hp hcancel hgoes hstop hnext h hroom
  · exact beginEnding_charged hcharged hb
  · obtain ⟨t, ht, hseq, hlast, hrelay, hown, hreport⟩ := beginEnding_uncharged (o := o) hcharged hb
    refine ⟨t, ht, hseq, hlast, hrelay, fun ho => ?_, hreport⟩
    obtain ⟨hkeeps, hgives⟩ := hown ho
    dsimp only
    split
    · next hkept => exact hkeeps hkept
    · next hnot => exact hgives hnot
  · obtain ⟨hseq, hlast, -, -, -⟩ := runOver_ends a.outcome a s
    refine ⟨_, exec_endingDischargeEnd hrun hdue, ?_, ?_, fun ho => ?_⟩
    · rw [(undisturbed_settle _).seq, takeEndingEnd_last ha hc hq, hseq]
    · rw [(undisturbed_settle _).meas, takeEndingEnd_last ha hc hq, hlast]
    · rw [settle_claims, takeEndingEnd_last ha hc hq, runOver_given ho (not_kept_of_empty hq)]
      exact ⟨rfl, rfl, rfl⟩
  · obtain ⟨hclosing, hown, hrelay⟩ := takeEndingEnd_closing hd ho
    refine ⟨_, exec_endingDischargeEnd hrun (by simp only [Due, hd]; exact hdue), ?_, ?_, ?_⟩
    · rw [(undisturbed_settle _).seq, hclosing]
    · rw [settle_claims, hown]
    · rw [settle_claims, hrelay]

end Sys2Proof.Machine


/-! The arithmetic of the measurement unit: the square root, the formulas of the five quantities, agreement and confirmation,
hazard limits and verdicts (R155, R157 to R161). -/

namespace Sys2Proof.Machine

/-! ### The square root (R157) -/

/-- The root found from its bits below 2^b, where the part above them is known. -/
theorem isqrtFrom_floor (b n r : Nat) (hlow : r * r ≤ n) (hhigh : n < (r + 2 ^ b) * (r + 2 ^ b)) :
    isqrtFrom b n r * isqrtFrom b n r ≤ n ∧ n < (isqrtFrom b n r + 1) * (isqrtFrom b n r + 1) := by
  induction b generalizing r with
  | zero => exact ⟨hlow, hhigh⟩
  | succ b ih =>
    rw [isqrtFrom]; split
    · next hbit =>
      refine ih _ hbit ?_
      have hsum : r + 2 ^ b + 2 ^ b = r + 2 ^ (b + 1) := by rw [pow_succ]; omega
      rwa [hsum]
    · next hbit => exact ih _ hlow (Nat.lt_of_not_le hbit)

theorem isqrt_eq_sqrt {n : Nat} (h : n < 2 ^ 64) : isqrt n = Nat.sqrt n :=
  Nat.eq_sqrt.mpr (isqrtFrom_floor 32 n 0 (Nat.zero_le _) (by omega))

/-! ### The formulas (R157 to R159) -/

theorem formResult_foreignDc (set : Settings) (n : Nat) (a : Accumulators) :
    formResult set .foreignDc n a = ⟨min 327670 (max (-327670) ((a.sumV * 10).tdiv n)), noFlags⟩ := rfl

theorem formResult_foreignAc (set : Settings) (n : Nat) (a : Accumulators)
    (hroom : 100 * ((n : Int) * a.sumVV - a.sumV ^ 2) < 2 ^ 64) :
    formResult set .foreignAc n a =
      ⟨min 327670 (Nat.sqrt (100 * ((n : Int) * a.sumVV - a.sumV ^ 2).toNat) / n : Nat), noFlags⟩ := by
  have hspread : spread n a = ((n : Int) * a.sumVV - a.sumV ^ 2).toNat := by
    rw [spread, pow_two]; push_cast; rfl
  have hroot : isqrt (100 * spread n a) = Nat.sqrt (100 * ((n : Int) * a.sumVV - a.sumV ^ 2).toNat) := by
    rw [isqrt_eq_sqrt (by rw [hspread]; omega), hspread]
  have hclamp (r : Nat) : clampTo .foreignAc (r : Int) = min 327670 (r : Int) :=
    congrArg (min 327670) (max_eq_right (show (-327670 : Int) ≤ r by omega))
  rw [formResult, foreignAc, hroot, hclamp]

theorem opposite_iff (x y : Int) : opposite x y = true ↔ (x < 0 ∧ 0 < y) ∨ (0 < x ∧ y < 0) := by
  simp [opposite]

theorem formResult_resistance (set : Settings) (n : Nat) (a : Accumulators) : formResult set .resistance n a =
    if a.sumI = 0 ∨ (a.sumV < 0 ∧ 0 < a.sumI) ∨ (0 < a.sumV ∧ a.sumI < 0) ∨
        2000000000 < a.sumV.natAbs * 1000000 / a.sumI.natAbs
      then ⟨2000000000, { noFlags with open_ := true }⟩
    else ⟨(a.sumV.natAbs * 1000000 / a.sumI.natAbs : Nat), noFlags⟩ := by
  simp only [formResult, resistance, opposite_iff]
  by_cases hopen : a.sumI = 0 ∨ (a.sumV < 0 ∧ 0 < a.sumI) ∨ (0 < a.sumV ∧ a.sumI < 0)
  · rw [if_pos hopen, if_pos (by tauto)]
  · rw [if_neg hopen]
    exact if_congr (by tauto) rfl rfl

theorem formResult_capacitance {first last : Int} (set : Settings) (n : Nat) {a : Accumulators}
    (hfirst : a.firstV = some first) (hlast : a.lastV = some last) : formResult set .capacitance n a =
    if (last - first).natAbs = 0 then ⟨0, { noFlags with noStep := true }⟩
    else if 10000000 < 250 * a.sumI.natAbs / (last - first).natAbs then ⟨10000000, { noFlags with overRange := true }⟩
    else ⟨(250 * a.sumI.natAbs / (last - first).natAbs : Nat), noFlags⟩ := by
  have hstep : deltaV a = (last - first).natAbs := by rw [deltaV, hfirst, hlast]; rfl
  rw [formResult, capacitance, hstep]

theorem formResult_length (set : Settings) (n : Nat) (a : Accumulators) : formResult set .length n a =
    if 65535 < (formResult set .capacitance n a).value.toNat / set.capPerMetre
      then ⟨65535, { (formResult set .capacitance n a).flags with overRange := true }⟩
    else ⟨((formResult set .capacitance n a).value.toNat / set.capPerMetre : Nat),
      (formResult set .capacitance n a).flags⟩ := rfl

/-- No formula marks its result HAZARD or UNSTABLE. -/
theorem formResult_unstable (set : Settings) (q : Quantity) (n : Nat) (a : Accumulators) :
    (formResult set q n a).flags.unstable = false := by
  have hcapacitance : (capacitance a).flags.unstable = false := by
    unfold capacitance; split
    · rfl
    · dsimp only; split <;> rfl
  cases q with
  | foreignDc => rfl
  | foreignAc => rfl
  | resistance =>
    rw [formResult_resistance]; split <;> rfl
  | capacitance => exact hcapacitance
  | length =>
    rw [formResult_length]; split <;> exact hcapacitance

/-! ### Confirmation and verdict (R157, R160, R161) -/

theorem agree_iff (a b : Int) : agree a b = true ↔ 20 * (a - b).natAbs ≤ max a.natAbs b.natAbs := by
  rw [agree, decide_eq_true_iff, Nat.mul_comm]

theorem confirmDecision_agreed {cancel : Bool} {made : Nat} {previous : Option Int} {v : Int}
    (h : ∃ x ∈ previous, agree v x = true) : confirmDecision true cancel made previous v = .final false := by
  obtain ⟨x, hx, hagree⟩ := h
  rw [Option.mem_def] at hx
  simp [confirmDecision, hx, hagree]

theorem confirmDecision_apart {cancel : Bool} {made : Nat} {previous : Option Int} {v : Int}
    (h : ¬ ∃ x ∈ previous, agree v x = true) : confirmDecision true cancel made previous v =
      if cancel = true ∨ 4 ≤ made then .final true else .another := by
  have hany : previous.any (agree v) = false := by
    cases previous with
    | none => rfl
    | some x => exact Bool.eq_false_iff.mpr fun hagree => h ⟨x, rfl, hagree⟩
  simp [confirmDecision, hany]

/-- A result above the hazard limit of its quantity (R157). -/
abbrev OverLimit (set : Settings) (q : Quantity) (v : Int) : Prop :=
  (q = .foreignDc ∧ set.dcHazard < v.natAbs) ∨ (q = .foreignAc ∧ set.acHazard < v.natAbs)

theorem exceedsHazard_iff (set : Settings) (q : Quantity) (v : Int) : exceedsHazard set q v = true ↔ OverLimit set q v := by
  cases q <;> simp [exceedsHazard, OverLimit]

/-- A result within the limits of its step (R161). -/
abbrev Passes (p : Step) (v : Int) : Prop := (∀ x ∈ p.low, x ≤ v) ∧ (∀ x ∈ p.high, v ≤ x)

theorem judge_eq (p : Step) (v : Int) : judge p.low p.high v = if Passes p v then .pass else .fail := by
  have hlow : (p.low.all fun l => decide (l ≤ v)) = true ↔ ∀ x ∈ p.low, x ≤ v := by cases p.low <;> simp
  have hhigh : (p.high.all fun h => decide (v ≤ h)) = true ↔ ∀ x ∈ p.high, v ≤ x := by cases p.high <;> simp
  rw [judge]
  exact if_congr (by rw [Bool.and_eq_true, hlow, hhigh]) rfl rfl

/-! ### The entry of a result (R157, R160 to R162) -/

/-- The entry that the end of a measurement stores: HAZARD above a limit, UNSTABLE where confirmation was given up. -/
def measuredEntry (set : Settings) (a : Active) (p : Step) (q : Quantity) (w : Wires) (f : Formed) (made time : Nat)
    (decided : Measured) : Result :=
  ⟨f.value, { f.flags with
      hazard := f.flags.hazard || decide (OverLimit set q f.value)
      unstable := f.flags.unstable || decide (¬ OverLimit set q f.value ∧ decided = .final true) },
    if OverLimit set q f.value ∨ ¬ Passes p f.value then .fail else .pass, w, a.slot, made, time, a.run.id⟩

section
variable {set : Settings} {a : Active} {p : Step} {q : Quantity} {w : Wires} {f : Formed} {made time : Nat}
  {decided : Measured}

theorem measuredEntry_over (h : OverLimit set q f.value) : measuredEntry set a p q w f made time decided =
    resultEntry a w made time { f with flags := { f.flags with hazard := true } } .fail := by
  rw [measuredEntry, if_pos (.inl h), decide_eq_true h, decide_eq_false (fun h' => h'.1 h), Bool.or_true, Bool.or_false]
  rfl

theorem measuredEntry_final {u : Bool} (h : ¬ OverLimit set q f.value) (hf : f.flags.unstable = false)
    (hd : decided = .final u) : measuredEntry set a p q w f made time decided =
      resultEntry a w made time { f with flags := { f.flags with unstable := u } } (judge p.low p.high f.value) := by
  have hverdict : (if OverLimit set q f.value ∨ ¬ Passes p f.value then Verdict.fail else .pass) =
      judge p.low p.high f.value := by
    rw [judge_eq]
    by_cases hpass : Passes p f.value
    · rw [if_pos hpass, if_neg (by tauto)]
    · rw [if_neg hpass, if_pos (.inr hpass)]
  have hunstable : (f.flags.unstable || decide (¬ OverLimit set q f.value ∧ decided = .final true)) = u := by
    rw [hf, hd]
    cases u <;> simp [h]
  rw [measuredEntry, hverdict, hunstable, decide_eq_false h, Bool.or_false]
  rfl

end

end Sys2Proof.Machine


/-! What a sample does: the protective stop, the pair accumulated, and the end of a measurement (R147, R151, R154 to R162). -/

namespace Sys2Proof.Machine

/-! ### The protective stop (R151) -/

section
variable {s : State} {a : Active}

theorem disconnect_hazard (s : State) (k : Line) : (lineOf (disconnect s) k).hazard = (lineOf s k).hazard :=
  leaveHolding_hazard s k

theorem decideHold_hazard (o : RunOutcome) (s : State) (k : Line) :
    (lineOf (decideHold o s) k).hazard = (lineOf s k).hazard := by
  rcases decideHold_eq o s with h | h <;> rw [h]
  exact leaveHolding_hazard s k

theorem endRecord_hazard (r : Run) (o : RunOutcome) (n : Slot) (s : State) (k : Line) :
    (lineOf (endRecord r o n s) k).hazard = (lineOf s k).hazard :=
  congrArg (fun t => (look t k).hazard) (endRecord_lines r o n s)

theorem connect_hazard (l : Line) (s : State) (k : Line) : (lineOf (connect l s) k).hazard = (lineOf s k).hazard := by
  unfold connect; split
  · rfl
  · split
    · rfl
    · split
      · exact setTest_hazard l .connected (setClaims _ s) k
      · split
        · rfl
        · exact disconnect_hazard s k

theorem claimHead_hazard (c : ClaimTerms) (s : State) (k : Line) :
    (lineOf (claimHead c s) k).hazard = (lineOf s k).hazard :=
  (sameMarks_of_bareLine (bareLine_of_watch (claimsOnly_claimHead c s).watch k)).hazard

theorem becomeActive_hazard (r : Run) (s : State) (k : Line) :
    (lineOf (becomeActive r s) k).hazard = (lineOf s k).hazard := by
  unfold becomeActive; split
  · rw [connect_hazard, refreshTests_hazard]; rfl
  · rw [claimHead_hazard, refreshTests_hazard]; rfl

/-- A hazard flag stands through the activation of the next run (R6, R146). -/
theorem activate_hazard (s : State) (k : Line) : (lineOf (activate s) k).hazard = (lineOf s k).hazard := by
  have hupTo (n : Nat) (t : State) : (lineOf (activateUpTo n t) k).hazard = (lineOf t k).hazard := by
    induction n generalizing t with
    | zero => rfl
    | succ n ih =>
      unfold activateUpTo; split
      · rfl
      · split
        · rfl
        · dsimp only; split
          · rw [ih, endAtActivation, refreshTests_hazard, endRecord_hazard, decideHold_hazard]; rfl
          · exact becomeActive_hazard _ _ k
  exact hupTo _ s

/-- The line disconnected, its hazard flag set, and no run active (R151 steps 1 and 2). -/
def relayOpened (a : Active) (s : State) : State :=
  clearActive (setHazard a.run.line true (disconnect (setActive (fun a => { a with phase := .ending }) s)))

/-- A protective stop up to the next activation. -/
def stopped (a : Active) (s : State) : State := refreshTests (faultRun a.run a.slot (relayOpened a s))

theorem protectiveStop_active (ha : s.seq.active = some a) (hc : s.seq.closing = none) :
    protectiveStop s = activate (stopped a s) := by
  simp only [protectiveStop, ha, hc]; rfl

/-- No hold is kept behind a hazard (R148). -/
theorem not_kept_hazard : ¬ Kept .hazard s := by
  rintro ⟨h, -⟩
  simp at h

theorem relayOpened_seq (a : Active) (s : State) : (relayOpened a s).seq = { s.seq with active := none } := by
  have hseq := (disconnect_runs (setActive (fun a => { a with phase := .ending }) s)).1
  change { (disconnect _).seq with active := none } = _
  rw [hseq]; rfl

theorem relayOpened_claims (a : Active) (s : State) : (relayOpened a s).claims = disconnected s.time s.claims :=
  claims_disconnect _

/-- What a protective stop of the active run leaves (R151, R152, R162). -/
structure Stops (a : Active) (s t : State) : Prop where
  seq : t.seq = { s.seq with
    active := none
    faults := put s.seq.faults a.run.line (some { a.run with status := .faultedHazard, resume := none })
    latch := s.seq.latch || decide (a.run.origin = .triggered)
    holdoffs := if a.run.origin = .triggered then
      put s.seq.holdoffs a.run.line (some (s.time + 60000 * s.settings.holdoff)) else s.seq.holdoffs }
  lastRun : look t.meas.lastRuns a.run.line = some ⟨a.run.id, a.run.origin, .hazard, s.time⟩
  relay : t.claims.relay = none
  stimulus : s.claims.relay ≠ none → t.claims.stimulus = .none
  own : s.claims.own = .holding → t.claims.own = .releasing
  hazard : (lineOf t a.run.line).hazard = true

/-- The record in its line's fault slot, and the latch set for a TRIGGERED run (R151 steps 3 and 4). -/
def recordFaulted (a : Active) (s : State) : State :=
  setSeq (fun q => { q with
    faults := put q.faults a.run.line (some { a.run with status := .faultedHazard, resume := none })
    latch := q.latch || isTriggered a.run }) (relayOpened a s)

theorem stopped_eq (a : Active) (s : State) : stopped a s = refreshTests (endRecord
    { a.run with status := .faultedHazard, resume := none } .hazard a.slot (decideHold .hazard (recordFaulted a s))) := rfl

theorem stopped_claims (a : Active) (s : State) :
    (stopped a s).claims = (decideHold .hazard (recordFaulted a s)).claims := by
  rw [stopped_eq, refreshTests_claims, endRecord_claims]

theorem stopped_hazard (a : Active) (s : State) : (lineOf (stopped a s) a.run.line).hazard = true := by
  rw [stopped_eq, refreshTests_hazard, endRecord_hazard, decideHold_hazard]
  exact congrArg LineRec.hazard (lineOf_setLine_same a.run.line _ _)

theorem stopped_stops (a : Active) (s : State) : Stops a s (stopped a s) := by
  obtain ⟨hseq, htime, hsettings⟩ := decideHold_seq .hazard (recordFaulted a s)
  have hfaulted : (recordFaulted a s).claims = disconnected s.time s.claims := relayOpened_claims a s
  have hunheld (ho : s.claims.own ≠ .holding) : (stopped a s).claims = disconnected s.time s.claims := by
    rw [stopped_claims, decideHold_unheld _ (by rw [hfaulted]; exact ho), hfaulted]
  have hheld (ho : s.claims.own = .holding) :
      (stopped a s).claims = leftHolding (recordFaulted a s).time (disconnected s.time s.claims) := by
    rw [stopped_claims, decideHold_given (by rw [hfaulted]; exact ho) not_kept_hazard, leaveHolding_claims, hfaulted]
  constructor
  case seq =>
    have hended := endRecord_seq { a.run with status := .faultedHazard, resume := none } .hazard a.slot
      (decideHold .hazard (recordFaulted a s))
    rw [hseq, htime, hsettings, recordFaulted, setSeq_seq, relayOpened_seq] at hended
    have htriggered : isTriggered a.run = decide (a.run.origin = .triggered) :=
      Bool.eq_iff_iff.mpr (by rw [isTriggered_iff, decide_eq_true_iff])
    rw [htriggered] at hended
    refine hended.trans ?_
    change Sequencer.mk _ _ _ _ _ _ _ (if _ then put _ _ (some ((disconnect _).time +
      60000 * (disconnect _).settings.holdoff)) else _) = _
    rw [disconnect_time, disconnect_settings]; rfl
  case lastRun =>
    have hlast := endRecord_lastRun { a.run with status := .faultedHazard, resume := none } .hazard a.slot
      (decideHold .hazard (recordFaulted a s))
    rw [htime] at hlast
    refine hlast.trans ?_
    exact congrArg (fun x => some (LastRun.mk a.run.id a.run.origin .hazard x)) (disconnect_time _)
  case relay =>
    by_cases ho : s.claims.own = .holding
    · rw [hheld ho]; rfl
    · rw [hunheld ho]; rfl
  case stimulus =>
    intro hr
    have hopen : (disconnected s.time s.claims).stimulus = .none := if_neg hr
    by_cases ho : s.claims.own = .holding
    · have hstands : (leftHolding (recordFaulted a s).time (disconnected s.time s.claims)).stimulus =
          (disconnected s.time s.claims).stimulus := by simp only [leftHolding, disconnected, if_true]
      rw [hheld ho, hstands, hopen]
    · rw [hunheld ho]; exact hopen
  case own =>
    intro ho
    rw [hheld ho]; rfl
  case hazard => exact stopped_hazard a s

/-- Behind an empty queue nothing becomes active. -/
theorem protectiveStop_last (ha : s.seq.active = some a) (hc : s.seq.closing = none) (hq : s.seq.queue = []) :
    protectiveStop s = stopped a s := by
  rw [protectiveStop_active ha hc, activate_none (by rw [(stopped_stops a s).seq]; exact hq)]

/-- The hazard flag of the run's line is set, whatever run becomes active next. -/
theorem protectiveStop_hazard (ha : s.seq.active = some a) (hc : s.seq.closing = none) :
    (lineOf (protectiveStop s) a.run.line).hazard = true := by
  rw [protectiveStop_active ha hc, activate_hazard]; exact stopped_hazard a s

end

/-! ### A pair of samples (R155, R156) -/

section
variable {s : State} {a : Active} {v i : Int}

/-- The accumulators with a pair more (R155). -/
def taken (v i : Int) (s : State) : State := { s with meas := { s.meas with acc := accumulate v i s.meas.acc } }

theorem accumulate_eq (v i : Int) (m : Accumulators) : accumulate v i m =
    ⟨m.n + 1, m.sumV + v, m.sumI + i, m.sumVV + v.natAbs ^ 2, if m.n = 0 then some v else m.firstV, some v⟩ := by
  have hsquare : (v * v).toNat = v.natAbs ^ 2 := by
    rw [← Int.natAbs_mul_self, Int.toNat_natCast, pow_two]
  have hfirst : m.n + 1 = 1 ↔ m.n = 0 := by omega
  rw [accumulate, hsquare, if_congr hfirst rfl rfl]

/-- Above 200 V with a relay closed the run is stopped (R151, R156). -/
theorem samplePair_hazard {l : Line} (hr : s.claims.relay = some l) (hv : 20000 < v.natAbs) :
    samplePair v i s = protectiveStop s := by
  refine if_pos ?_
  rw [hr, Bool.and_eq_true, decide_eq_true_iff]
  exact ⟨rfl, show (20000 : Int) < v.natAbs by omega⟩

theorem samplePair_watched (h : s.claims.relay = none ∨ v.natAbs ≤ 20000) : samplePair v i s =
    match s.seq.active with
    | some a => if a.phase = .sampling then takePair a v i s else s
    | none => s := by
  refine if_neg ?_
  rw [Bool.and_eq_true, decide_eq_true_iff, not_and]
  intro hr
  change ¬ (20000 : Int) < v.natAbs
  rcases h with h | h
  · rw [h] at hr; cases hr
  · omega

theorem samplePair_aside (h : s.claims.relay = none ∨ v.natAbs ≤ 20000)
    (hphase : ∀ a, s.seq.active = some a → a.phase ≠ .sampling) : samplePair v i s = s := by
  rw [samplePair_watched h]; split
  · next a ha => exact if_neg (hphase a ha)
  · rfl

theorem samplePair_sampling (h : s.claims.relay = none ∨ v.natAbs ≤ 20000) (ha : s.seq.active = some a)
    (hphase : a.phase = .sampling) : samplePair v i s = takePair a v i s := by
  rw [samplePair_watched h]
  simp only [ha, hphase, if_true]

theorem takePair_more (hn : s.meas.acc.n + 1 < s.meas.samples) : takePair a v i s = taken v i s := if_pos hn

theorem takePair_last {p : Step} {q : Quantity} {w : Wires} (hn : s.meas.samples ≤ s.meas.acc.n + 1)
    (hp : look s.seq.steps a.slot = some p) (hq : s.meas.quantity = some q) (hw : s.meas.wires = some w) :
    takePair a v i s = endMeasurement a p q w (taken v i s) := by
  have hover : ¬ (accumulate v i s.meas.acc).n < s.meas.samples := Nat.not_lt_of_le hn
  simp only [takePair, setMeas_meas, setMeas_seq, if_neg hover, hp, hq, hw]
  rfl

theorem exec_sampleTaken (hrun : s.power = .running) (v i : BitVec 16) :
    exec (.sampleTaken v i) s = .next (settle (samplePair v.toInt i.toInt s)) :=
  congrArg _ (live_running hrun)

end

/-! ### The end of a measurement (R147, R157, R160 to R162) -/

section
variable {s : State} {a : Active} {p : Step} {q : Quantity} {w : Wires}

/-- The result that a measurement forms of its accumulators. -/
def formed (q : Quantity) (s : State) : Formed := formResult s.settings q s.meas.samples s.meas.acc

/-- What the end of the measurement decides (R160). -/
def decided (a : Active) (p : Step) (q : Quantity) (s : State) : Measured :=
  confirmDecision p.confirm a.cancel (s.meas.made + 1) s.meas.previous (formed q s).value

/-- The entry that it stores, where it stores one. -/
def entryNow (a : Active) (p : Step) (q : Quantity) (w : Wires) (s : State) : Result :=
  measuredEntry s.settings a p q w (formed q s) (s.meas.made + 1) s.time (decided a p q s)

/-- The measurement counted, with its verdict. -/
def judged (a : Active) (p : Step) (q : Quantity) (w : Wires) (s : State) : State :=
  setMeas (fun m => { m with made := s.meas.made + 1, verdict := some (entryNow a p q w s).verdict }) s

theorem endMeasurement_over (h : OverLimit s.settings q (formed q s).value) :
    endMeasurement a p q w s = protectiveStop (storeResult a.run p q (entryNow a p q w s) s) := by
  rw [entryNow, measuredEntry_over h]
  exact if_pos ((exceedsHazard_iff ..).mpr h)

theorem endMeasurement_another (h : ¬ OverLimit s.settings q (formed q s).value) (hd : decided a p q s = .another) :
    endMeasurement a p q w s = afterAnother p
      (setMeas (fun m => { m with made := s.meas.made + 1, previous := some (formed q s).value }) s) := by
  have hnot : ¬ exceedsHazard s.settings q (formed q s).value = true := mt (exceedsHazard_iff ..).mp h
  have hconfirm : confirmDecision p.confirm a.cancel (s.meas.made + 1) s.meas.previous (formed q s).value = .another := hd
  unfold endMeasurement
  dsimp only
  rw [if_neg (by exact hnot)]
  unfold formed at hconfirm
  rw [hconfirm]
  rfl

theorem endMeasurement_final (h : ¬ OverLimit s.settings q (formed q s).value) (hd : decided a p q s ≠ .another) :
    endMeasurement a p q w s = afterFinal a p (storeResult a.run p q (entryNow a p q w s) (judged a p q w s)) := by
  have hnot : ¬ exceedsHazard s.settings q (formed q s).value = true := mt (exceedsHazard_iff ..).mp h
  obtain ⟨u, hu⟩ : ∃ u, decided a p q s = .final u := by
    cases hdecided : decided a p q s with
    | another => exact absurd hdecided hd
    | final u => exact ⟨u, rfl⟩
  have hentry := measuredEntry_final (a := a) (p := p) (w := w) (made := s.meas.made + 1) (time := s.time) h
    (formResult_unstable ..) hu
  unfold endMeasurement
  dsimp only
  rw [if_neg (by exact hnot)]
  have hconfirm : confirmDecision p.confirm a.cancel (s.meas.made + 1) s.meas.previous (formed q s).value = .final u := hu
  unfold formed at hconfirm
  rw [hconfirm, judged, entryNow, hentry]
  rfl

/-! ### Results stored, and what follows (R147, R162) -/

theorem storeResult_eq (r : Run) (p : Step) (q : Quantity) (e : Result) (s : State) : storeResult r p q e s =
    if p.report = true ∨ r.report = true
      then queueReport (.result r.line q e) { s with meas := { s.meas with
        results := alter s.meas.results r.line fun row => put row (quantityIndex q) (some e) } }
    else { s with meas := { s.meas with
      results := alter s.meas.results r.line fun row => put row (quantityIndex q) (some e) } } := by
  unfold storeResult
  simp only [Bool.or_eq_true]
  rfl

/-- A report at most: beside its entry, a result leaves the rest of the machine as it was. -/
theorem storeResult_frame (r : Run) (p : Step) (q : Quantity) (e : Result) (s : State) : Undisturbed { s with
    meas := { s.meas with
      results := alter s.meas.results r.line fun row => put row (quantityIndex q) (some e) } } (storeResult r p q e s) := by
  rw [storeResult_eq]; split
  · exact (queueReport_frame _ _).1
  · exact .refl _

theorem storeResult_look (r : Run) (p : Step) (q : Quantity) (e : Result) (s : State) :
    look (look (storeResult r p q e s).meas.results r.line) (quantityIndex q) = some e := by
  rw [(storeResult_frame r p q e s).meas]
  change look (look (alter _ _ _) _) _ = _
  rw [look_alter_same, look_put_same]

theorem afterFinal_results (a : Active) (p : Step) (s : State) : (afterFinal a p s).meas.results = s.meas.results :=
  (leads_afterFinal (sc := Scope.none) a p .refl).same (fun t => t.meas.results) fun _ _ c => c.keeps_results rfl

theorem protectiveStop_results (s : State) : (protectiveStop s).meas.results = s.meas.results :=
  (leads_protectiveStop (sc := Scope.none) .refl).same (fun t => t.meas.results) fun _ _ c => c.keeps_results rfl

theorem afterAnother_eq (p : Step) (s : State) : afterAnother p s =
    if p.quantity = .capacitance ∨ p.quantity = .length then startDischarging s else startSampling s := by
  rw [afterAnother, isStepStep_eq]; simp only [decide_eq_true_eq]

theorem afterFinal_stepped (h : p.quantity = .capacitance ∨ p.quantity = .length) : afterFinal a p s =
    if a.cancel = true then beginEnding .cancelled a s else startDischarging s :=
  if_pos (by rw [isStepStep_eq, decide_eq_true_iff]; exact h)

theorem afterFinal_other (h : ¬ (p.quantity = .capacitance ∨ p.quantity = .length)) : afterFinal a p s = nextPhase a s :=
  if_neg (by rw [isStepStep_eq, decide_eq_true_iff]; exact h)

end

end Sys2Proof.Machine


/-! The end of a measurement, case by case, and the statement of the samples (R147, R151, R154 to R162). -/

namespace Sys2Proof.Machine

section
variable {s u : State} {a : Active} {p : Step} {q : Quantity} {w : Wires}

/-- DISCHARGING of a state that differs from another in its reports and results alone (R147). -/
theorem startDischarging_of (hseq : u.seq = s.seq) (hclaims : u.claims = s.claims) (htime : u.time = s.time)
    (ha : s.seq.active = some a) : startDischarging u = { u with
      seq := { s.seq with active := some { a with
        phase := .discharging, until_ := some (s.time + 50), charged := false } }
      claims := { s.claims with stimulus := if s.claims.relay = none then .none else .discharge } } := by
  rw [startDischarging_eq (by rw [hseq]; exact ha), hseq, hclaims, htime]

/-- The result stored, with its report (R162). -/
def finalState (a : Active) (p : Step) (q : Quantity) (w : Wires) (s : State) : State :=
  storeResult a.run p q (entryNow a p q w s) (judged a p q w s)

theorem finalState_frame (a : Active) (p : Step) (q : Quantity) (w : Wires) (s : State) :
    (finalState a p q w s).seq = s.seq ∧ (finalState a p q w s).claims = s.claims ∧
    (finalState a p q w s).time = s.time :=
  have hframe := storeResult_frame a.run p q (entryNow a p q w s) (judged a p q w s)
  ⟨hframe.seq, hframe.claims, hframe.clocks.1⟩

/-- The entry of the quantity, for the line of the run (R162). -/
theorem endMeasurement_stores (h : OverLimit s.settings q (formed q s).value ∨ decided a p q s ≠ .another) :
    look (look (endMeasurement a p q w s).meas.results a.run.line) (quantityIndex q) = some (entryNow a p q w s) := by
  by_cases hover : OverLimit s.settings q (formed q s).value
  · rw [endMeasurement_over hover, protectiveStop_results, storeResult_look]
  · rw [endMeasurement_final hover (h.resolve_left hover), afterFinal_results, storeResult_look]

section
variable (hover : OverLimit s.settings q (formed q s).value) (ha : s.seq.active = some a) (hc : s.seq.closing = none)
include hover ha hc

theorem endMeasurement_hazard : (lineOf (endMeasurement a p q w s) a.run.line).hazard = true := by
  have hseq : (storeResult a.run p q (entryNow a p q w s) s).seq = s.seq := (storeResult_frame ..).seq
  rw [endMeasurement_over hover]
  exact protectiveStop_hazard (by rw [hseq]; exact ha) (by rw [hseq]; exact hc)

/-- A result above a hazard limit stops the run, with no NEXT (R151, R157). -/
theorem endMeasurement_stops (hq : s.seq.queue = []) :
    ∃ x, endMeasurement a p q w s = stopped a x ∧ x.seq = s.seq ∧ x.claims = s.claims ∧ x.time = s.time ∧
      x.settings = s.settings := by
  have hframe := storeResult_frame a.run p q (entryNow a p q w s) s
  have hseq : (storeResult a.run p q (entryNow a p q w s) s).seq = s.seq := hframe.seq
  refine ⟨storeResult a.run p q (entryNow a p q w s) s, ?_, hseq, hframe.claims, hframe.clocks.1,
    congrArg Loader.settings hframe.loader⟩
  rw [endMeasurement_over hover, protectiveStop_last (by rw [hseq]; exact ha) (by rw [hseq]; exact hc) (by rw [hseq]; exact hq)]

end

section
variable (hover : ¬ OverLimit s.settings q (formed q s).value)
include hover

/-- Another measurement of the step is called for (R147, R160). -/
theorem endMeasurement_again (ha : s.seq.active = some a) (hd : decided a p q s = .another) :
    endMeasurement a p q w s = if p.quantity = .capacitance ∨ p.quantity = .length
      then { s with
        seq := { s.seq with active := some { a with
          phase := .discharging, until_ := some (s.time + 50), charged := false } }
        claims := { s.claims with stimulus := if s.claims.relay = none then .none else .discharge }
        meas := { s.meas with made := s.meas.made + 1, previous := some (formed q s).value } }
      else { s with
        seq := { s.seq with active := some { a with phase := .sampling, until_ := none } }
        meas := { s.meas with
          made := s.meas.made + 1, previous := some (formed q s).value, acc := ⟨0, 0, 0, 0, none, none⟩ } } := by
  rw [endMeasurement_another hover hd, afterAnother_eq, startDischarging_eq (a := a) (by exact ha),
    startSampling_eq (a := a) (by exact ha)]
  rfl

variable (hd : decided a p q s ≠ .another)
include hd

/-- What follows the final result of a STEP step (R147). -/
theorem endMeasurement_stepped (ha : s.seq.active = some a) (hstep : p.quantity = .capacitance ∨ p.quantity = .length) :
    (a.cancel = false → endMeasurement a p q w s = { finalState a p q w s with
      seq := { s.seq with active := some { a with
        phase := .discharging, until_ := some (s.time + 50), charged := false } }
      claims := { s.claims with stimulus := if s.claims.relay = none then .none else .discharge } }) ∧
    (a.cancel = true → endMeasurement a p q w s = beginEnding .cancelled a (finalState a p q w s)) := by
  obtain ⟨hseq, hclaims, htime⟩ := finalState_frame a p q w s
  rw [endMeasurement_final hover hd, afterFinal_stepped hstep]
  refine ⟨fun hcancel => ?_, fun hcancel => if_pos hcancel⟩
  rw [if_neg (by rw [hcancel]; decide)]
  exact startDischarging_of hseq hclaims htime ha

/-- NEXT follows the final result of any other step (R147). -/
theorem endMeasurement_next (hstep : ¬ (p.quantity = .capacitance ∨ p.quantity = .length)) :
    endMeasurement a p q w s = nextPhase a (finalState a p q w s) := by
  rw [endMeasurement_final hover hd, afterFinal_other hstep]; rfl

end

end

/-- Settles O54: a sample is a protective stop, a pair accumulated, or the end of a measurement, each written out; the formulas
are those of the measurement unit. -/
theorem samplesAccumulateStoreAndStop : Obligations.SamplesAccumulateStoreAndStop := by
  refine ⟨fun s hrun => ⟨congrArg _ (live_running hrun), fun v i a l ha hc hq hr hv => ?_, fun v i hwatch => ?_⟩,
    fun n => isqrt_eq_sqrt, fun set n a => ?_, agree_iff, fun cancel made previous v => ?_⟩
  · obtain ⟨hseq, hlast, hrelay, hstimulus, hown, hhazard⟩ := stopped_stops a s
    have hstop : samplePair v.toInt i.toInt s = stopped a s := by
      rw [samplePair_hazard hr hv, protectiveStop_last ha hc hq]
    have hresults : (stopped a s).meas.results = s.meas.results := by
      rw [← protectiveStop_last ha hc hq, protectiveStop_results]
    have hsettled := undisturbed_settle (stopped a s)
    refine ⟨_, exec_sampleTaken hrun v i, ?_⟩
    rw [hstop, hsettled.claims, hsettled.seq, hsettled.meas, (settle_line _ _).hazard, hseq]
    exact ⟨hrelay, hstimulus (by rw [hr]; nofun), hhazard, rfl, rfl, by simp, hlast, hresults, hown⟩
  · dsimp only
    rw [← accumulate_eq]
    refine ⟨fun hphase => ?_, fun a ha hphase hn => ?_, fun a p q w ha hphase hn hp hq hw => ?_⟩
    · rw [exec_sampleTaken hrun, samplePair_aside hwatch hphase]
    · rw [exec_sampleTaken hrun, samplePair_sampling hwatch ha hphase, takePair_more hn]; rfl
    · have hexec : exec (.sampleTaken v i) s = .next (settle (endMeasurement a p q w (taken v.toInt i.toInt s))) := by
        rw [exec_sampleTaken hrun, samplePair_sampling hwatch ha hphase, takePair_last hn hp hq hw]
      have hsettled := undisturbed_settle (endMeasurement a p q w (taken v.toInt i.toInt s))
      refine ⟨fun h => ⟨_, hexec, ?_, fun hover hc => ?_⟩, fun hover hd => ⟨_, hexec, ?_⟩,
        fun hover hd => ⟨fun hstep hcancel => ?_, fun hstep hcancel => ?_, fun hstep => ?_⟩,
        fun hover hd => ⟨fun hstep => ?_, fun hstep => ?_⟩, fun hover hc hempty => ?_⟩
      · rw [hsettled.meas]
        exact endMeasurement_stores (s := taken v.toInt i.toInt s) h
      · rw [(settle_line _ _).hazard]
        exact endMeasurement_hazard (s := taken v.toInt i.toInt s) hover ha hc
      · rw [hsettled.meas, endMeasurement_again (s := taken v.toInt i.toInt s) hover ha hd]
        split
        · exact ⟨rfl, rfl, rfl⟩
        · exact ⟨rfl, rfl, rfl⟩
      · rw [hexec, (endMeasurement_stepped (s := taken v.toInt i.toInt s) hover hd ha hstep).1 hcancel, finalState,
          storeResult_eq]
        rfl
      · rw [hexec, (endMeasurement_stepped (s := taken v.toInt i.toInt s) hover hd ha hstep).2 hcancel, finalState,
          storeResult_eq]
        rfl
      · rw [hexec, endMeasurement_next (s := taken v.toInt i.toInt s) hover hd hstep, finalState, storeResult_eq]
        rfl
      · rw [hexec, endMeasurement_again (s := taken v.toInt i.toInt s) hover ha hd, if_pos hstep]; rfl
      · rw [hexec, endMeasurement_again (s := taken v.toInt i.toInt s) hover ha hd, if_neg hstep]; rfl
      · obtain ⟨x, hx, hseq, hclaims, htime, hsettings⟩ :=
          endMeasurement_stops (p := p) (w := w) (s := taken v.toInt i.toInt s) hover ha hc hempty
        obtain ⟨hstopped, hlast, hrelay, -, hown, -⟩ := stopped_stops a x
        rw [hseq, htime, hsettings] at hstopped
        rw [htime] at hlast
        rw [hclaims] at hown
        rw [hx] at hexec
        exact ⟨_, hexec, hstopped, hlast, hrelay, hown⟩
  · refine ⟨formResult_foreignDc set n a, fun hlow hroom => formResult_foreignAc set n a hroom, formResult_resistance set n a,
      fun first last hfirst hlast => ?_⟩
    have hcapacitance := formResult_capacitance set n hfirst hlast
    have hlength := formResult_length set n a
    rw [hcapacitance] at hlength
    exact ⟨hcapacitance, hlength⟩
  · refine ⟨rfl, confirmDecision_agreed, fun hapart h => ?_, fun hapart hcancel hmade => ?_⟩
    · rw [confirmDecision_apart hapart, if_pos h]
    · rw [confirmDecision_apart hapart, if_neg (fun h => h.elim (by rw [hcancel]; decide) (by omega))]

end Sys2Proof.Machine
